-- ==== Sys2Proof/Word.lean ====
section
/-! DEFINITION. The word types of the manual (00_scope.md R1 to R5) and their plainest arithmetic. -/

namespace Sys2Proof

/-- A byte of memory (R3). -/
abbrev Byte := BitVec 8

/-- A 32-bit register or code word (R33, R76). -/
abbrev Word := BitVec 32

/-- A 64-bit register pair, address or counter (R3). -/
abbrev DWord := BitVec 64

/-- A 32-bit lane mask, bit L for lane L (R86). -/
abbrev Mask := BitVec 32

end Sys2Proof
end

