-- ==== Sys2Proof/Config.lean ====
section
/-! DEFINITION. What one part fixes and the free values: constants without a body, so that no proof can see what they
are (notes/assumptions/8.md), and the owner-chosen constants that no rule gives. -/

namespace Sys2Proof.Config

/-- RSASSA-PSS verification of an image against the boot-ROM key (19 R430). -/
opaque rsaVerifies : List Byte → Bool
/-- SLH-DSA verification of an image against the boot-ROM key (R430). -/
opaque slhVerifies : List Byte → Bool
/-- The security version that an image carries (R430). -/
opaque imageVersion : List Byte → Nat
/-- The seed that the physical unclonable function yields at reset (R431). -/
opaque pufSeed : BitVec 384
/-- A key derived from the seed under one of the two signature schemes (R431). -/
opaque deriveKey : BitVec 384 → Nat → BitVec 384
/-- A signature over a report by one of the two schemes, under the key derived for it (R431). -/
opaque sign : Nat → BitVec 384 → List Byte → List Byte
/-- The boot ROM's version bytes (R431). -/
opaque bootRom : List Byte
/-- The port ranks that a signed configuration block gives (R428). -/
opaque configRank : List Byte → Nat → Nat
/-- Whether a signed configuration block's policy is erase on alarm (R432). -/
opaque configErases : List Byte → Bool

/-- Whether a signed configuration block names the device as the bridging device of its Adxel group (01 R13). -/
opaque configBridging : List Byte → Bool

/-- A result of `cvtsr` above the largest finite value under IEEE: infinite, or the largest finite value. Table 6.3 gives
it by a rounding mode, and R134 and R143 give `cvtsr` none. The arguments are sign and lowest terms of the exact value, r
and the target's type code. -/
opaque srOverflowsToInf : Bool × Nat × Nat → Nat → Nat → Bool

/-- The key of a live thread that waits in a join record when its group goes through `regroup`: it has not executed the instruction,
and 08 R193 to R196 give it none. The arguments are a counter, the group and the lane. -/
opaque waitingKey : Nat → Nat → Nat → BitVec 16

end Sys2Proof.Config
end

