-- ==== Sys2Proof/Syntax.lean ====
section
/-! DEFINITION. The abstract syntax: one constructor per row of spec/opcode_table.json. A code row carries its word's
fields in one of three forms (02_instruction_words.md R41 to R44); an event row carries what names the occurrence. -/

namespace Sys2Proof

/-- Fields of a one-word instruction (R41, Table 2.4). -/
structure Form1 where
  u : Bool
  g : BitVec 3
  d : BitVec 6
  a : BitVec 6
  b : BitVec 6
  deriving DecidableEq, Repr

/-- Fields of the I form (R42, Table 2.5); `imm` is the second word. -/
structure FormI where
  u : Bool
  g : BitVec 3
  d : BitVec 6
  a : BitVec 6
  mod : BitVec 6
  imm : BitVec 32
  deriving DecidableEq, Repr

/-- Operand modes of the E form (R44, Table 2.7); code 0b11 is no mode. -/
inductive Mode where
  | direct
  | indexed
  | small
  deriving DecidableEq, Repr

/-- A source field of the E form: its mode, its empty-trap bit and its 8 bits (R42, R43). -/
structure Fld where
  mode : Mode
  trap : Bool
  f : BitVec 8
  deriving DecidableEq, Repr

/-- Fields of the E form (R42, R43). The destination field has no empty-trap bit. -/
structure FormE where
  u : Bool
  g : BitVec 3
  md : Mode
  xd : BitVec 8
  a : Fld
  b : Fld
  c : Fld
  mod : BitVec 7
  deriving DecidableEq, Repr

/-- Join offset of `brc`, JOFF (R166, R167). -/
def FormI.joff (f : FormI) : Nat := f.d.toNat * 64 + f.a.toNat
/-- I-form SIZE (R71, Table 3.8). -/
def FormI.isize (f : FormI) : Nat := f.mod.toNat % 8
/-- I-form SCOPE (R71, Table 3.8). -/
def FormI.iscope (f : FormI) : Nat := f.mod.toNat / 8

/-- Modifier bit `k` of the E form as a number. -/
def FormE.bit (f : FormE) (k : Nat) : Nat := f.mod.toNat / 2 ^ k % 2
/-- Modifier bits [2:1]: CK, BX, or a lane MODE (Tables 5.1, 8.5). -/
def FormE.ck (f : FormE) : Nat := f.mod.toNat / 2 % 4
/-- Modifier bits [6:4]: CMP of `isetp` (Table 5.1). -/
def FormE.cmp (f : FormE) : Nat := f.mod.toNat / 16
/-- Modifier bits [6:4]: RM (R70, Table 3.7). -/
def FormE.rm (f : FormE) : Nat := f.mod.toNat / 16
/-- Modifier bits [3:2]: BOP of `isetp` (Table 5.1). -/
def FormE.bop (f : FormE) : Nat := f.mod.toNat / 4 % 4
/-- Bits [5:4] of field c: BOP of `fsetp` (07 R152). -/
def FormE.fbop (f : FormE) : Nat := f.c.f.toNat / 16 % 4
/-- Modifier bits [3:1]: J, PS, PI, SH or a fold operation. -/
def FormE.j (f : FormE) : Nat := f.mod.toNat / 2 % 8
/-- Modifier bits [3:0]. -/
def FormE.low4 (f : FormE) : Nat := f.mod.toNat % 16
/-- E-form SIZE (R72, Table 3.9). -/
def FormE.esize (f : FormE) : Nat := f.mod.toNat % 4
/-- ORDER (R72, Table 3.9). -/
def FormE.order (f : FormE) : Nat := f.mod.toNat / 4 % 4
/-- SCOPE (R72, R74). -/
def FormE.escope (f : FormE) : Nat := f.mod.toNat / 16
/-- Token (R74). -/
def FormE.tok (f : FormE) : Nat := f.mod.toNat % 8
/-- SLOT of `pmma` (Table 12.2). -/
def FormE.slot (f : FormE) : Nat := f.mod.toNat / 8 % 4
/-- NSEL of `pmma` (Table 12.2). -/
def FormE.nsel (f : FormE) : Nat := f.mod.toNat / 32
/-- Destination type of TY (R157). -/
def FormE.tyDst (f : FormE) : Nat := f.c.f.toNat % 16
/-- Source type of TY (R157). -/
def FormE.tySrc (f : FormE) : Nat := f.c.f.toNat / 16

/-- What raises the security alarm, and the re-provisioning that ends what it has erased (19_counters_integrity_custody.md R432). -/
inductive Alarm where
  | tamper
  | firmware
  | policy
  | reprovisioned
  deriving DecidableEq, Repr

/-- What an uncorrectable error that is consumed covers (R216, R217, R426, Table 9.10), and the other errors of storage and links
that R426 speaks of. -/
inductive ErrSite where
  | thread (core gid lane : Nat)
  | group (core gid : Nat)
  | panRow (wg : Nat)
  /-- a page-table entry or an image header of a context, with the line that holds it -/
  | pageTable (ctx line : Nat)
  | imageHeader (ctx line : Nat)
  /-- an error arises in a line of device memory, and nothing has met it yet -/
  | line (line : Nat) (correctable : Bool)
  /-- an error is corrected in a die's SRAM or in one of its die-to-die receivers -/
  | corrected (die : Nat)
  /-- a cell of a pan in compute mode flips -/
  | cell (core pan bit : Nat)
  deriving DecidableEq, Repr

/-- What happens to a master at its port (19 R428). -/
inductive PortChange where
  | attach
  | detach
  /-- the port goes down, and comes up again -/
  | down
  | up
  deriving DecidableEq, Repr

/-- A refusal that a peer reports to its sender (R350), or poison in place of data (R374, 19 R426). -/
inductive Refused where
  | sealed
  | notPresent
  | reduction (detail : Nat)
  | poisoned
  deriving DecidableEq, Repr

/-- A request that a peer device sends to a home of this device (R349). -/
inductive PeerReq where
  | read (dev addr n : Nat)
  | write (dev addr : Nat) (data : List Byte)
  | atomic (dev addr op n : Nat) (data : Nat)
  | cas (dev addr n cmp new : Nat)
  | redx (dev addr size : Nat) (value : BitVec 32)
  deriving DecidableEq, Repr

/-- What an L1 signature invalidation names (10 R243): the slice that sends it and the bucket. -/
structure SigBucket where
  slice : Nat
  bucket : Nat
  deriving DecidableEq, Repr

/-- Data that arrives (02 R52, 10 R244): a request, and one of its accessing lanes, or all of them together. -/
structure LoadPart where
  req : Nat
  lane : Option Nat := none
  deriving DecidableEq, Repr

/-- How the steps of an operation went: how often those of a mirrored one were run again (11 R266), and what an undetected
deviation has made of the results of an unmirrored one (11 R256). -/
structure StepRuns where
  reruns : Nat
  wrong : List (Nat × Nat × BitVec 32) := []
  deriving DecidableEq, Repr

/-- A mirrored operation and how often its steps have been run again (11 R266). -/
structure RerunPmma where
  pmma : Nat
  reruns : Nat
  deriving DecidableEq, Repr

/-- A split at the package barrier unit, and the units that the new generation has not reached yet (16 R360, R369). -/
structure SnapTurn where
  split : Nat
  late : List Nat := []
  deriving DecidableEq, Repr

/-- The instructions and events of the part. -/
inductive Instr where
  /-- R357: Package reset sets generation state, counters and registers to their reset values and starts the election. -/
  | packageReset
  /-- R428: When the owner's port has been down for 100 ms of TIME, or the owner has detached, the device elects again among the attached masters. -/
  | ownerPortDownTimeout
  /-- R429: The owner writes HANDOVER with PEND set and a target port, starting a handover. -/
  | handoverOffer (master : Nat) (value : BitVec 32)
  /-- R429: The target writes HANDOVER with PEND set and its own port; in that cycle OWNER becomes the target and PEND clears. -/
  | handoverAccept (master : Nat) (value : BitVec 32)
  /-- R429: A handover that the target has not accepted within 1 s of TIME lapses and PEND clears. -/
  | handoverLapse
  /-- R421: A master writes a system-window register that has no behaviour of its own; only the owner's write is performed, and a non-owner write is discarded with FQ kind 0x0C. -/
  | systemRegisterWrite (master off : Nat) (value : BitVec 64)
  /-- R430: A firmware image or configuration block is accepted only if both signatures verify and its security version is high enough; acceptance may raise the fuse value. -/
  | firmwareImage (config : Bool) (image : List Byte)
  /-- R431: A request with a nonce returns a report of measurements and the owner port, signed under both identity schemes. -/
  | attestationReport (port : Nat) (nonce : BitVec 256)
  /-- R432: A tamper sensor, a failed re-verification or a policy violation raises the alarm, which may erase identity keys and posts KIND 0x0F. -/
  | securityAlarm (cause : Alarm)
  /-- R426: The patrol scrub reads every HBM line each 24 hours of TIME, corrects errors and posts KIND 0x0E for uncorrectable ones. -/
  | patrolScrub (line : Nat)
  /-- R426: A thread, handler or engine uses poisoned data, which kills the lane, the group, the workgroup or the context according to what the data covers. -/
  | uncorrectableErrorConsumed (site : ErrSite)
  /-- R228: The owner kills a context; its groups stop, its waiters are discarded, its pan operations are cancelled and its writes are settled. -/
  | ownerContextKill (master ctx : Nat)
  /-- R227: Once every write of the killed context is performed or discarded, the device posts kill-complete and frees the context's seal entries. -/
  | killComplete (ctx : Nat)
  /-- R384: At a track-free event the scheduler chooses the next ready split by PASS promotion, class, RT, GID and split index, and ages the others. -/
  | trackFreeSchedule (core track : Nat)
  /-- R24: A split held by its next clause's WAIT or STALL becomes ready in the cycle in which the last condition holds. -/
  | clauseStallExpiry (core gid split : Nat)
  /-- R52: Load or atomic return data reaches a destination register, replaces its value and sets its full bit, or is discarded for a dead thread. -/
  | longLatencyArrival (part : LoadPart)
  /-- R153: After its latency an SFU or divide result is written with its flags and sets the destination's full bit, or is discarded for a dead thread. -/
  | sfuResultWrite (id : Nat)
  /-- R203: A parked instruction whose page fault has been served replays its unfinished lanes only. -/
  | parkedReplay (park : Nat)
  /-- R406: The management processor sets D in the clean page's entry by CAS, shoots down its translations, and makes the parked writers due. -/
  | lightFaultService (park : Nat)
  /-- R407: The owner advances PFTAIL, making room in the fault ring so that waiting faults are posted. -/
  | pftailWrite (master : Nat) (value : BitVec 32)
  /-- R408: A PFREPLY with CODE 0 makes every instruction, copy and fill waiting on that page due for replay. -/
  | pfreplyRetry (master : Nat) (value : BitVec 32)
  /-- R408: A PFREPLY with CODE 1 posts FRAME_EXHAUSTED and starts the record's FXTIME timer, leaving the waiters parked. -/
  | pfreplyNoFrame (master : Nat) (value : BitVec 32)
  /-- R408: A PFREPLY with CODE 2 makes the context take a context fault at once. -/
  | pfreplyFail (master : Nat) (value : BitVec 32)
  /-- R408: A PFREPLY with CODE 3, or with a SEQ that is not outstanding, is ignored. -/
  | pfreplyIgnored (master : Nat) (value : BitVec 32)
  /-- R408: The frame-exhaustion timer of a record expires, and the context takes a context fault with FRAME_EXHAUSTED. -/
  | fxtimeExpiry (seq : Nat)
  /-- R99: The owner writes YREQ with V set and a context, which starts the pre-emption request and the DEADLINE countdown, or is refused for want of a valid image area. -/
  | yreqWrite (master core : Nat) (value : BitVec 32)
  /-- R99: The owner writes DEADLINE; a write of 0 loads 50,000, and a write while V is 1 is ignored. -/
  | deadlineWrite (master core : Nat) (value : BitVec 32)
  /-- R219: DEADLINE reaches 0 and the ripcord saves every remaining group of the named context on the core with all its registers. -/
  | ripcord (core : Nat)
  /-- R218: A yielding or ripcorded group, once its tokens and long-latency results have drained, is written to the image and leaves its track Saved. -/
  | groupSave (core gid : Nat)
  /-- R221: When no group of the context remains resident and unsaved, the device writes SAVESTAT, clears V, reloads DEADLINE and posts one pre-emption event. -/
  | preemptionComplete (core : Nat)
  /-- R225: A saved unit is placed on one core, its pans, registers and state are rewritten from the image, and its groups become Ready. -/
  | restore (base : BitVec 64) (index core : Nat)
  /-- R237: The distributor places a fitting workgroup on a core, takes and zeroes its pans, assigns its groups to tracks and grows the L1. -/
  | workgroupPlacement (unit : Nat) (cores : List Nat)
  /-- R237: Zeroing of the placed pans ends after 64 cycles, and the workgroup's first group becomes Ready. -/
  | panZeroingDone (wg : Nat)
  /-- R29: The pan operation of a Draining group completes; the group retires, releases its slot and reports completion once. -/
  | drainingEnd (core gid : Nat)
  /-- R465: When no thread of a workgroup is live and its bulk copies have completed, it retires and its pans return to owner 0xFF. -/
  | workgroupRetirement (wg : Nat)
  /-- R375: The owner advances OWPTR of a class's owner ring; a write that would exceed OSIZE is ignored. -/
  | owptrWrite (master cls : Nat) (value : BitVec 32)
  /-- R376: The launch unit takes the head ring entry of the highest nonempty class, reads the record, and refuses, queues as pending, or starts the launch. -/
  | launchRingTake
  /-- R376: A pending launch whose dependences hold is started before any ring entry of its class or of a lower class. -/
  | pendingLaunchStart (launch : Nat)
  /-- R380: The launch unit re-reads a pending dependence counter after a write to its line, and at least once per microsecond. -/
  | dependenceReread (launch : Nat)
  /-- R379: When every workgroup of a launch has retired and its writes are performed, the device writes STATUS 3 and adds 1 to DONE. -/
  | launchCompletion (launch : Nat)
  /-- R396: The package barrier unit posts quiescence of a graph launch once no grid workgroup, node workgroup or record remains. -/
  | quiescence (launch : Nat)
  /-- R361: A write is performed at its slice in the slice's generation, with a write-back first when the line's LG is older. -/
  | writeAtHome (req lane : Nat)
  /-- R367: A write waiting for a shadow frame proceeds once a frame of its share frees. -/
  | copyWaitResume (req lane : Nat)
  /-- R303: The lanes of one atomic or reduction that address one word are applied at its home in one indivisible step, in ascending lane order. -/
  | atomicAtHome (req lane : Nat)
  /-- R243: A core receives a bucket invalidation, invalidates every L1 line of that bucket and acknowledges it. -/
  | l1SignatureInvalidation (core : Nat) (bucket : SigBucket)
  /-- R341: The home serves a remote load miss, fetching the owner's copy if any, and leaves the line S. -/
  | readShared (die line : Nat)
  /-- R341: The home serves a remote store miss by invalidating every other copy, and leaves the line M at the requester. -/
  | readOwn (die line : Nat)
  /-- R341: The home invalidates the other sharers for a store to a copy held S, and leaves the line M. -/
  | upgrade (die line : Nat)
  /-- R341: The home writes the data of an evicted M, O or written E copy to memory. -/
  | writeBack (die line : Nat)
  /-- R341: The home sets the entry to I on the eviction of an unwritten E copy. -/
  | cleanEvict (die line : Nat)
  /-- R341: For an atomic, a reduction, or a write from a peer or the host, the home recalls every remote copy and performs it at the home slice. -/
  | remoteWriteAtHome (line : Nat)
  /-- R342: A die receives an invalidation, drops the line, collects its cores' signature acknowledgements and then acknowledges. -/
  | invalidation (line die : Nat)
  /-- R343: The home receives an acknowledgement and ignores any duplicate; the write completes when every acknowledgement has arrived. -/
  | invalidationAck (line die : Nat)
  /-- R344: No acknowledgement within 8,192 cycles, or a down boundary, makes the home resend on the next route. -/
  | ackTimeoutResend (line die : Nat)
  /-- R344: The link layer takes a die-to-die boundary down after 8 failed retries of a flit. -/
  | boundaryDown (a b : Nat)
  /-- R345: A C-die without a management handshake for 2 µs of TIME stops issuing and drops its remote-homed L2 lines. -/
  | dieSelfFence (die : Nat)
  /-- R346: The die's confirmation, or 5 µs without contact, records the quarantine, faults the contexts on it and poisons its dirty lines. -/
  | quarantineRecord (die : Nat)
  /-- R349: A peer device's request is performed at this device's home slice, or refused as SEALED or PROTECT. -/
  | peerRequest (r : PeerReq)
  /-- R350: An Adxel request not delivered within 1 ms of TIME is abandoned, and the issuing context takes a context fault. -/
  | adxelAbandon (req : Nat)
  /-- R352: A host request is served under the page's bias, starts a flip, or is answered with poison. -/
  | hostRequest (addr : Nat) (write : Option (List Byte))
  /-- R353: The home marks the page flipping, flushes and invalidates every device copy, sets host bias and serves the waiting requests. -/
  | biasFlipToHost (page : Nat)
  /-- R353: The home marks the page flipping, back-invalidates the host for all 64 lines and sets device bias. -/
  | biasFlipToDevice (page : Nat)
  /-- R355: Every MIGEPOCH microseconds the home halves every access counter and re-arms the pairs that fall to LO. -/
  | accessCounterHalving (die : Nat)
  /-- R282: When every gang member has arrived, the rendezvous is checked and the pmma issues for all members at once. -/
  | pmmaLatchOpen (core gid : Nat)
  /-- R265: A scale-cache fill completes, and the waiting pmma forms that block. -/
  | scaleFill (pmma block : Nat)
  /-- R286: A trapping fault on a scale fill ends the pmma, releases the tokens and holds PROTECT for the members. -/
  | scaleFillFault (pmma block : Nat)
  /-- R284: Once every row of a pmma has been written, each member's token loses 1. -/
  | pmmaCompletion (pmma : Nat) (runs : StepRuns)
  /-- R273: Once every live thread has arrived and pending accesses and pmmas have finished, the transitioning pans complete their mode change and the splits resume. -/
  | sluiceCompletion (wg : Nat)
  /-- R313: A copy has written every byte at its scope, and its token loses 1. -/
  | bulkCopyCompletion (copy : Nat)
  /-- R315: A trapping fault ends a copy, releases its token and holds the fault for the issuing group. -/
  | bulkCopyFault (copy : Nat)
  /-- R389: The combined superstep arrivals reach the participants' count, and the release travels back to every waiting split. -/
  | superstepRelease (launch cohort : Nat)
  /-- R196: The shuffle ends after its stated cycles, and the new groups are Ready with the sorted, packed threads. -/
  | regroupShuffleEnd (core launch : Nat)
  /-- R391: An enq waiting on a full store and spill area appends its records once room frees. -/
  | enqResume (core gid split : Nat)
  /-- R393: The distributor places a node workgroup for a due FIFO, taking the oldest records as its batch and writing them to scratch. -/
  | nodeBatchPlacement (team launch node core : Nat)
  /-- R393: A FIFO's oldest record reaches MAXWAIT cycles, and the FIFO becomes due. -/
  | maxwaitExpiry (team launch node : Nat)
  /-- R395: Every 1,024 cycles each queue engine exchanges its depths with its neighbours and moves records towards shallower teams. -/
  | queueExchange
  /-- R395: A moved record enters the neighbour's FIFO as its newest and starts its wait anew. -/
  | recordTransitArrival (id : Nat)
  /-- R398: A waiting evwait re-reads its counter after a write to its line, or once per microsecond, and completes when the threshold is met. -/
  | evwaitReread (core gid split : Nat)
  /-- R369: The package barrier unit advances Gc, broadcasts it, marks the generation retained and writes the descriptor, or refuses the snap. -/
  | snapAdvance (core gid : Nat) (turn : SnapTurn)
  /-- R359: While B is not retained and below Gc, the controllers rewrite tags naming B to B+1 and advance B. -/
  | generationSweep
  /-- R373: A spool engine reads the generation image of the next page and writes it, and its index entry, to the destination. -/
  | spoolDrainPage (engine : Nat)
  /-- R373: Both engines have passed the range; the spool writes STATUS 3, signals EVENT and, with AUTODROP, drops the generation. -/
  | spoolDrainCompletion (gen : Nat)
  /-- R374: An undeliverable spool write abandons the drain, drops the generation and posts an event. -/
  | spoolDrainAbandon (gen : Nat)
  /-- R410: A write to SPLREQ splinters the large leaf into a pool table, swaps the parent entry and shoots down the old translation. -/
  | splreqWrite (master : Nat) (value : BitVec 64)
  /-- R169: Does nothing; costs its split one cycle. -/
  | nop (f : Form1)
  /-- R170: Sets the split's PC to the displacement target. -/
  | bra (f : FormI)
  /-- R176: Conditional branch with a join address that may diverge into a new split, a join record or a stack entry. -/
  | brc (f : FormI)
  /-- R170: Uniform conditional branch decided by the lowest active thread. -/
  | bru (f : FormI)
  /-- R170: Branches to a uniform 64-bit register target. -/
  | brx (f : Form1)
  /-- R171: Writes the return address into the link pair and branches to the displacement target. -/
  | call (f : FormI)
  /-- R171: Writes the return address and branches to a register target. -/
  | callx (f : Form1)
  /-- R171: Sets the PC to the uniform value of its address pair. -/
  | ret (f : Form1)
  /-- R182: Decrements its counter and, when the counter is nonzero, branches and rotates RRB. -/
  | brloop (f : FormI)
  /-- R180: Sets the PC to the split's innermost join. -/
  | join (f : Form1)
  /-- R183: Ends each active thread whose guard is true, setting it dead and removing it from barrier counts. -/
  | exit (f : Form1)
  /-- R184: Yields the group when the yield-request flag is up; otherwise costs one cycle. -/
  | yield (f : Form1)
  /-- R215: Compares SIG with imm32; resets SIG on a match, otherwise takes SIGNATURE. -/
  | sigchk (f : FormI)
  /-- R209: Waits for pending SFU results, then traps ARITH if an enabled flag is set. -/
  | tfence (f : Form1)
  /-- R210: Takes TRAP when any active thread's guard is true. -/
  | trap (f : FormI)
  /-- R210: Always takes BREAK. -/
  | bpt (f : Form1)
  /-- R211: Ends handler mode, exits the masked lanes and resumes the faulting split at h2:h1, re-executing the instruction. -/
  | rteRetry (f : FormE)
  /-- R211: Ends handler mode and resumes after the faulting instruction. -/
  | rteSkip (f : FormE)
  /-- R211: Ends handler mode and makes every live lane of the group exit. -/
  | rteEnd (f : FormE)
  /-- R212: Reads a storage register of another lane into the elected lane, in handler mode. -/
  | lget (f : FormE)
  /-- R212: Writes a storage register of another lane from the elected lane, in handler mode. -/
  | lset (f : FormE)
  /-- R193: Arrives at the regroup barrier of the launch's groups on the core, with a key and a carried register count. -/
  | regroup (f : FormE)
  /-- R191: Writes GANG from a uniform mask after the membership checks. -/
  | gang (f : FormE)
  /-- R192: Writes RRB absolutely or relatively. -/
  | rset (f : FormE)
  /-- R146: Writes the split's FMT from a register (one-word form). -/
  | fmtset (f : Form1)
  /-- R146: Writes the split's FMT from imm32 (I form). -/
  | fmtsetI (f : FormI)
  /-- R147: Writes the split's FMT to d. -/
  | fmtget (f : Form1)
  /-- R106: Copies a 32-bit source (one-word form). -/
  | mov (f : Form1)
  /-- R106: Copies a 32- or 64-bit source, with E-form operands. -/
  | movE (f : FormE)
  /-- R107: Writes a 32-bit immediate. -/
  | movi (f : FormI)
  /-- R108: Reads a special register by selector (one-word form). -/
  | srd (f : Form1)
  /-- R108: Reads a special register by selector (E form). -/
  | srdE (f : FormE)
  /-- R109: Writes an RW special register from the lowest guarded thread (one-word form). -/
  | swr (f : Form1)
  /-- R109: Writes an RW special register (E form). -/
  | swrE (f : FormE)
  /-- R110: Chooses between two sources by a predicate. -/
  | sel (f : FormE)
  /-- R111: Moves the predicates into a register (one-word form, DIR 0). -/
  | pmov (f : Form1)
  /-- R111: Moves predicates to or from a register under a mask (E form). -/
  | pmovE (f : FormE)
  /-- R112: 32-bit wrapping add (one-word form). -/
  | iadd (f : Form1)
  /-- R112: 32-bit add with checking (E form). -/
  | iaddE (f : FormE)
  /-- R112: 32-bit wrapping subtract (one-word form). -/
  | isub (f : Form1)
  /-- R112: 32-bit subtract with checking (E form). -/
  | isubE (f : FormE)
  /-- R113: Add with carry-in and carry-out predicates. -/
  | iaddc (f : FormE)
  /-- R113: Subtract with borrow-in and borrow-out predicates. -/
  | isubb (f : FormE)
  /-- R114: Low 32 bits of the product (one-word form). -/
  | imul (f : Form1)
  /-- R114: Low 32 bits of the product, with checking (E form). -/
  | imulE (f : FormE)
  /-- R114: High 32 bits of the signed product (one-word form). -/
  | imulh (f : Form1)
  /-- R114: High 32 bits of the signed product (E form). -/
  | imulhE (f : FormE)
  /-- R114: High 32 bits of the unsigned product. -/
  | imulhn (f : FormE)
  /-- R114: Multiply-add, keeping the low 32 bits. -/
  | imad (f : FormE)
  /-- R115: 64-bit add of a zero-extended 32-bit operand (one-word form). -/
  | iadd64 (f : Form1)
  /-- R115: 64-bit add with the BX extension choice (E form). -/
  | iadd64E (f : FormE)
  /-- R115: 64-bit subtract of a zero-extended 32-bit operand (one-word form). -/
  | isub64 (f : Form1)
  /-- R115: 64-bit subtract with the BX extension choice (E form). -/
  | isub64E (f : FormE)
  /-- R115: 64-bit address plus a scaled index. -/
  | lea (f : FormE)
  /-- R116: Signed minimum (one-word form). -/
  | imin (f : Form1)
  /-- R116: Signed minimum (E form). -/
  | iminE (f : FormE)
  /-- R116: Unsigned minimum. -/
  | iminn (f : FormE)
  /-- R116: Signed maximum (one-word form). -/
  | imax (f : Form1)
  /-- R116: Signed maximum (E form). -/
  | imaxE (f : FormE)
  /-- R116: Unsigned maximum. -/
  | imaxn (f : FormE)
  /-- R116: Absolute value (one-word form). -/
  | iabs (f : Form1)
  /-- R116: Absolute value with checking (E form). -/
  | iabsE (f : FormE)
  /-- R116: Negation (one-word form). -/
  | ineg (f : Form1)
  /-- R116: Negation with checking (E form). -/
  | inegE (f : FormE)
  /-- R117: Signed saturating add (one-word form). -/
  | iadds (f : Form1)
  /-- R117: Saturating add, signed or unsigned (E form). -/
  | iaddsE (f : FormE)
  /-- R117: Signed saturating subtract (one-word form). -/
  | isubs (f : Form1)
  /-- R117: Saturating subtract, signed or unsigned (E form). -/
  | isubsE (f : FormE)
  /-- R118: Unsigned divide on the SFU (one-word form). -/
  | idivn (f : Form1)
  /-- R118: Unsigned divide on the SFU (E form). -/
  | idivnE (f : FormE)
  /-- R118: Unsigned remainder on the SFU (one-word form). -/
  | iremn (f : Form1)
  /-- R118: Unsigned remainder on the SFU (E form). -/
  | iremnE (f : FormE)
  /-- R119: Bitwise AND (one-word form). -/
  | and (f : Form1)
  /-- R119: Bitwise AND (E form). -/
  | andE (f : FormE)
  /-- R119: Bitwise OR (one-word form). -/
  | or (f : Form1)
  /-- R119: Bitwise OR (E form). -/
  | orE (f : FormE)
  /-- R119: Bitwise XOR (one-word form). -/
  | xor (f : Form1)
  /-- R119: Bitwise XOR (E form). -/
  | xorE (f : FormE)
  /-- R119: a AND NOT b (one-word form). -/
  | andn (f : Form1)
  /-- R119: a AND NOT b (E form). -/
  | andnE (f : FormE)
  /-- R119: a OR NOT b (one-word form). -/
  | orn (f : Form1)
  /-- R119: a OR NOT b (E form). -/
  | ornE (f : FormE)
  /-- R119: Bitwise NOT (one-word form). -/
  | not (f : Form1)
  /-- R119: Bitwise NOT (E form). -/
  | notE (f : FormE)
  /-- R120: Shift left (one-word form). -/
  | shl (f : Form1)
  /-- R120: Shift left (E form). -/
  | shlE (f : FormE)
  /-- R120: Logical shift right (one-word form). -/
  | shr (f : Form1)
  /-- R120: Logical shift right (E form). -/
  | shrE (f : FormE)
  /-- R120: Arithmetic shift right (one-word form). -/
  | sar (f : Form1)
  /-- R120: Arithmetic shift right (E form). -/
  | sarE (f : FormE)
  /-- R120: Rotate left (one-word form). -/
  | rotl (f : Form1)
  /-- R120: Rotate left (E form). -/
  | rotlE (f : FormE)
  /-- R121: Extracts an unsigned bit field. -/
  | bfx (f : FormE)
  /-- R121: Extracts a sign-extended bit field. -/
  | bfxs (f : FormE)
  /-- R121: Inserts a bit field. -/
  | bfi (f : FormE)
  /-- R122: Counts 1 bits (one-word form). -/
  | popc (f : Form1)
  /-- R122: Counts 1 bits (E form). -/
  | popcE (f : FormE)
  /-- R122: Counts leading zeros (one-word form). -/
  | clz (f : Form1)
  /-- R122: Counts leading zeros (E form). -/
  | clzE (f : FormE)
  /-- R122: Counts trailing zeros (one-word form). -/
  | ctz (f : Form1)
  /-- R122: Counts trailing zeros (E form). -/
  | ctzE (f : FormE)
  /-- R122: Reverses the bits (one-word form). -/
  | brev (f : Form1)
  /-- R122: Reverses the bits (E form). -/
  | brevE (f : FormE)
  /-- R123: Builds a word from bytes selected among two sources. -/
  | bysel (f : FormE)
  /-- R124: Applies a three-input truth table bit by bit. -/
  | lut3 (f : FormE)
  /-- R125: Signed compare that writes a predicate, optionally combined with another. -/
  | isetp (f : FormE)
  /-- R125: Unsigned compare that writes a predicate. -/
  | isetpn (f : FormE)
  /-- R126: Applies a truth table to three predicates. -/
  | plop (f : FormE)
  /-- R127: Writes an index register. -/
  | xmov (f : FormE)
  /-- R127: Adds to an index register with an 8-bit wrap. -/
  | xadd (f : FormE)
  /-- R148: FP32 add (one-word form). -/
  | fadd (f : Form1)
  /-- R148: FP32 add with a rounding mode (E form). -/
  | faddE (f : FormE)
  /-- R148: FP32 subtract (one-word form). -/
  | fsub (f : Form1)
  /-- R148: FP32 subtract (E form). -/
  | fsubE (f : FormE)
  /-- R148: FP32 multiply (one-word form). -/
  | fmul (f : Form1)
  /-- R148: FP32 multiply (E form). -/
  | fmulE (f : FormE)
  /-- R148: Fused FP32 multiply-add with c read from d (one-word form). -/
  | ffma (f : Form1)
  /-- R148: Fused FP32 multiply-add (E form). -/
  | ffmaE (f : FormE)
  /-- R149: IEEE minimumNumber (one-word form). -/
  | fmin (f : Form1)
  /-- R149: IEEE minimumNumber (E form). -/
  | fminE (f : FormE)
  /-- R149: IEEE maximumNumber (one-word form). -/
  | fmax (f : Form1)
  /-- R149: IEEE maximumNumber (E form). -/
  | fmaxE (f : FormE)
  /-- R150: Clears the sign bit (one-word form). -/
  | fabs (f : Form1)
  /-- R150: Clears the sign bit (E form). -/
  | fabsE (f : FormE)
  /-- R150: Inverts the sign bit (one-word form). -/
  | fneg (f : Form1)
  /-- R150: Inverts the sign bit (E form). -/
  | fnegE (f : FormE)
  /-- R150: Writes a one-hot class mask (one-word form). -/
  | fclass (f : Form1)
  /-- R150: Writes a one-hot class mask (E form). -/
  | fclassE (f : FormE)
  /-- R151: Rounds to an integral FP32 value (one-word form). -/
  | frnd (f : Form1)
  /-- R151: Rounds to an integral value with a mode and X (E form). -/
  | frndE (f : FormE)
  /-- R152: FP32 compare that writes a predicate. -/
  | fsetp (f : FormE)
  /-- R153: Correctly rounded reciprocal (one-word form). -/
  | frcp (f : Form1)
  /-- R153: Correctly rounded reciprocal (E form). -/
  | frcpE (f : FormE)
  /-- R153: Reciprocal square root (one-word form). -/
  | frsq (f : Form1)
  /-- R153: Reciprocal square root (E form). -/
  | frsqE (f : FormE)
  /-- R153: Square root (one-word form). -/
  | fsqrt (f : Form1)
  /-- R153: Square root (E form). -/
  | fsqrtE (f : FormE)
  /-- R153: Power of two (one-word form). -/
  | fex2 (f : Form1)
  /-- R153: Power of two (E form). -/
  | fex2E (f : FormE)
  /-- R153: Base-2 logarithm (one-word form). -/
  | flg2 (f : Form1)
  /-- R153: Base-2 logarithm (E form). -/
  | flg2E (f : FormE)
  /-- R153: Sine (one-word form). -/
  | fsin (f : Form1)
  /-- R153: Sine (E form). -/
  | fsinE (f : FormE)
  /-- R153: Cosine (one-word form). -/
  | fcos (f : Form1)
  /-- R153: Cosine (E form). -/
  | fcosE (f : FormE)
  /-- R153: Correctly rounded divide (one-word form). -/
  | fdiv (f : Form1)
  /-- R153: Correctly rounded divide (E form). -/
  | fdivE (f : FormE)
  /-- R154: Packed FP16 add (one-word form). -/
  | hadd2 (f : Form1)
  /-- R154: Packed FP16 add (E form). -/
  | hadd2E (f : FormE)
  /-- R154: Packed FP16 multiply (one-word form). -/
  | hmul2 (f : Form1)
  /-- R154: Packed FP16 multiply (E form). -/
  | hmul2E (f : FormE)
  /-- R154: Packed FP16 fused multiply-add (one-word form). -/
  | hfma2 (f : Form1)
  /-- R154: Packed FP16 fused multiply-add (E form). -/
  | hfma2E (f : FormE)
  /-- R154: Packed FP16 minimum (one-word form). -/
  | hmin2 (f : Form1)
  /-- R154: Packed FP16 minimum (E form). -/
  | hmin2E (f : FormE)
  /-- R154: Packed FP16 maximum (one-word form). -/
  | hmax2 (f : Form1)
  /-- R154: Packed FP16 maximum (E form). -/
  | hmax2E (f : FormE)
  /-- R154: Packed BF16 add (one-word form). -/
  | badd2 (f : Form1)
  /-- R154: Packed BF16 add (E form). -/
  | badd2E (f : FormE)
  /-- R154: Packed BF16 multiply (one-word form). -/
  | bmul2 (f : Form1)
  /-- R154: Packed BF16 multiply (E form). -/
  | bmul2E (f : FormE)
  /-- R154: Packed BF16 fused multiply-add (one-word form). -/
  | bfma2 (f : Form1)
  /-- R154: Packed BF16 fused multiply-add (E form). -/
  | bfma2E (f : FormE)
  /-- R154: Packed BF16 minimum (one-word form). -/
  | bmin2 (f : Form1)
  /-- R154: Packed BF16 minimum (E form). -/
  | bmin2E (f : FormE)
  /-- R154: Packed BF16 maximum (one-word form). -/
  | bmax2 (f : Form1)
  /-- R154: Packed BF16 maximum (E form). -/
  | bmax2E (f : FormE)
  /-- R155: Signed INT8 4-way dot product with accumulate (one-word form). -/
  | idp4 (f : Form1)
  /-- R155: Signed INT8 4-way dot product with optional saturation (E form). -/
  | idp4E (f : FormE)
  /-- R155: Unsigned-by-signed INT8 dot product (one-word form). -/
  | idp4n (f : Form1)
  /-- R155: Unsigned-by-signed INT8 dot product (E form). -/
  | idp4nE (f : FormE)
  /-- R155: INT4 8-way dot product with accumulate. -/
  | idp8 (f : FormE)
  /-- R156: Exact BF16 2-way dot product into FP32 (one-word form). -/
  | bdp2 (f : Form1)
  /-- R156: Exact BF16 2-way dot product (E form). -/
  | bdp2E (f : FormE)
  /-- R156: Exact FP16 2-way dot product into FP32 (one-word form). -/
  | hdp2 (f : Form1)
  /-- R156: Exact FP16 2-way dot product (E form). -/
  | hdp2E (f : FormE)
  /-- R158: Converts between any two types. -/
  | cvt (f : FormE)
  /-- R159: Converts with stochastic rounding. -/
  | cvtsr (f : FormE)
  /-- R160: Converts two sources into narrow elements inserted into d. -/
  | pack (f : FormE)
  /-- R160: Converts one narrow element of a to a 32-bit type. -/
  | unpack (f : FormE)
  /-- R163: Quantizes a value under a scale entry. -/
  | qnt (f : FormE)
  /-- R163: Dequantizes a code under a scale entry. -/
  | dqnt (f : FormE)
  /-- R162: Forms a scale entry from a group's minimum and maximum. -/
  | qparam (f : FormE)
  /-- R164: Forms the E8M0 block scale from the largest magnitude (one-word form). -/
  | mxexp (f : Form1)
  /-- R164: Forms the E8M0 block scale (E form). -/
  | mxexpE (f : FormE)
  /-- R165: Quantizes to an MX element under a scale. -/
  | mxq (f : FormE)
  /-- R165: Dequantizes an MX element to FP32. -/
  | mxdq (f : FormE)
  /-- R186: Exchanges values between lanes. -/
  | lxch (f : FormE)
  /-- R187: Polls a predicate across the participating lanes. -/
  | lpoll (f : FormE)
  /-- R188: Finds participating lanes with equal values. -/
  | lpeer (f : FormE)
  /-- R189: Exact integer fold or prefix across lanes. -/
  | lfold (f : FormE)
  /-- R190: FP32 fold across lanes in a fixed tree. -/
  | flfold (f : FormE)
  /-- R299: Relaxed global load (one-word form, offset 0, b32, device scope). -/
  | ld (f : Form1)
  /-- R299: Relaxed global load with a 32-bit offset, size and scope (I form). -/
  | ldI (f : FormI)
  /-- R301: Acquire global load. -/
  | ldAcq (f : FormI)
  /-- R300: Relaxed global store (one-word form). -/
  | st (f : Form1)
  /-- R300: Relaxed global store with a 32-bit offset, size and scope (I form). -/
  | stI (f : FormI)
  /-- R301: Release global store. -/
  | stRel (f : FormI)
  /-- R299: Scratch load (one-word form). -/
  | lds (f : Form1)
  /-- R299: Scratch load with offset and size (I form). -/
  | ldsI (f : FormI)
  /-- R300: Scratch store (one-word form). -/
  | sts (f : Form1)
  /-- R300: Scratch store with offset and size (I form). -/
  | stsI (f : FormI)
  /-- R299: Global load with E-form operands. -/
  | ldx (f : FormE)
  /-- R302: Global atomic operation with return. -/
  | atom (f : FormE)
  /-- R302: Global compare-and-swap. -/
  | cas (f : FormE)
  /-- R302: Scratch atomic operation with return. -/
  | atoms (f : FormE)
  /-- R302: Scratch compare-and-swap. -/
  | cass (f : FormE)
  /-- R302: Global integer reduction without return. -/
  | red (f : FormE)
  /-- R307: Exact floating-point add to a reduction line. -/
  | redx (f : FormE)
  /-- R308: Reads a reduction line rounded to FP32. -/
  | rdx (f : FormE)
  /-- R308: Clears a reduction line (one-word form). -/
  | clrx (f : Form1)
  /-- R308: Clears a reduction line with order and scope (E form). -/
  | clrxE (f : FormE)
  /-- R309: Orders the split's accesses at a scope. -/
  | fence (f : FormE)
  /-- R310: Starts a bulk copy from a scratch descriptor and counts it on a token. -/
  | bcopy (f : FormE)
  /-- R314: Waits until a token reads zero. -/
  | bwait (f : FormE)
  /-- R317: Prefetches lines into the L1 and L2, or into the L2 only. -/
  | pref (f : FormE)
  /-- R318: Seals a virtual range of the context. -/
  | seal (f : FormE)
  /-- R320: Unseals a range and invalidates its replicas. -/
  | unseal (f : FormE)
  /-- R272: Requests that named storage pans enter compute mode. -/
  | pmodeCompute (f : FormE)
  /-- R272: Requests that named compute pans return to storage mode. -/
  | pmodeStorage (f : FormE)
  /-- R273: Arrives at the workgroup's mode-switch barrier. -/
  | sluice (f : Form1)
  /-- R276: Checked write of one pan attribute byte. -/
  | pcfgAttr (f : FormE)
  /-- R276: Checked write of one pan set slot. -/
  | pcfgSet (f : FormE)
  /-- R277: Binds a tensor id to a scale table and invalidates its cache blocks. -/
  | scbind (f : FormE)
  /-- R279: Checks, then arrives at the rendezvous of a pan matrix multiply-accumulate. -/
  | pmma (f : FormE)
  /-- R287: Waits for the split's scratch stores and long-latency results. -/
  | pfence (f : Form1)
  /-- R288: Waits until a token reads zero; the pmma completion point. -/
  | pwait (f : FormE)
  /-- R289: Exchanges two set slots of the configuration block. -/
  | pswap (f : Form1)
  /-- R290: Reads the PSLU state of the workgroup's compute pans. -/
  | pqueryState (f : FormE)
  /-- R290: Reads which slot halves are in use. -/
  | pqueryBusy (f : FormE)
  /-- R290: Reads the pan partition counts. -/
  | pqueryPart (f : FormE)
  /-- R387: Arrives at a named barrier and waits for its release. -/
  | bar (f : FormE)
  /-- R387: Arrives at a named barrier without waiting. -/
  | bara (f : FormE)
  /-- R389: Arrives at the launch's superstep barrier and waits. -/
  | sstep (f : FormE)
  /-- R392: Appends one record per thread to a node FIFO of the team. -/
  | enq (f : FormE)
  /-- R394: Pops up to m records of the workgroup's node into scratch. -/
  | deq (f : FormE)
  /-- R397: Appends a launch record to the device ring of its class. -/
  | launch (f : FormE)
  /-- R398: Adds to a 64-bit event counter as a release. -/
  | evsig (f : FormE)
  /-- R398: Waits for an event counter to reach a threshold, then acquires. -/
  | evwait (f : FormE)
  /-- R369: Checks the descriptor, releases, and requests a new generation. -/
  | snap (f : Form1)
  /-- R370: Reads the state of a generation. -/
  | snapqState (f : FormE)
  /-- R370: Reads Gc. -/
  | snapqCur (f : FormE)
  /-- R370: Reads B. -/
  | snapqBase (f : FormE)
  /-- R370: Reads POOLFREE. -/
  | snapqFree (f : FormE)
  /-- R371: Drops a retained generation and stops its drain. -/
  | snapdrop (f : Form1)
  /-- R412: Removes a context's translations of a page range and waits for their users. -/
  | tlbinvRange (f : FormE)
  /-- R412: Removes a context's non-global translations and waits for their users. -/
  | tlbinvCtx (f : FormE)
  /-- R412: Removes every translation in the scope and waits for their users. -/
  | tlbinvAll (f : FormE)
  /-- R415: Requests flips of a page range to host bias and waits for them. -/
  | biassetHost (f : FormE)
  /-- R415: Requests flips of a page range to device bias and waits for them. -/
  | biassetDev (f : FormE)
  /-- R416: Retires migration records of a C-die by advancing MIGTAIL. -/
  | migack (f : Form1)
  /-- R424: Reads a performance counter. -/
  | pmcRd (f : FormE)
  /-- R424: Writes a performance counter's event selector. -/
  | pmcSel (f : FormE)
  /-- R424: Clears a performance counter. -/
  | pmcClr (f : FormE)
  /-- R428: A master attaches on a trained CXL port or on the baseboard port, or detaches, and the device updates ATTACH and the set of masters that can take part in an election or accept a handover. -/
  | masterAttachDetach (port : Nat) (change : PortChange)
  /-- R14: The per-package power manager lowers, or restores, the arithmetic clock of cores to hold sustained draw at 1,800 W, which changes the rate of CLOCK and of every cycle-counted duration but not TIME. -/
  | powerCapThrottle (mhz : Nat)
  /-- R266: In a mirrored pmma whose third re-run of a step still disagrees, the group is killed with UNCORRECTABLE, and the event is counted in MCHECK. -/
  | machineCheckEvent (failed : RerunPmma)
  /-- R350: A peer home's acknowledgement or refusal of an Adxel request arrives; an acknowledgement lets a system-scope release complete, and a refusal is reported to the sender as SEALED or PROTECT. -/
  | peerResponse (req : Nat) (data : List Byte) (refusal : Option Refused)
  /-- R352: The host's response to a BISnpData or BISnpInv arrives, with any write-back, and the home then serves the device access or flip step that was waiting on it. -/
  | bisnpResponse (line : Nat) (data : Option (List Byte))
  deriving DecidableEq, Repr

end Sys2Proof
end

