-- ==== Sys2Proof/WellFormed.lean ====
section
/-! DEFINITION. What each opcode's row says of its word (Tables 3.1 to 3.5, 5.1, 7.1, 8.1, 8.5, 9.3, 12.2, 13.1, 16.3,
17.3, 18.4): opcode, form, engine class, timing class, operand fields and legal modifiers; and the checks of Table 2.10
that the word alone decides (R45, R46, R47, R101). -/

namespace Sys2Proof

/-- Engine classes of Table 2.3 that an opcode can have. -/
inductive EngineClass where
  | alu
  | sfu
  | mem
  | pan
  | ctl
  | sys
  deriving DecidableEq, Repr

/-- Timing classes (01_device_and_execution.md R22, Table 1.6). -/
inductive Timing where
  | a
  | w
  | f
  | m
  | p
  | c
  deriving DecidableEq, Repr

/-- What an operand field holds. `w` is the number of registers that the operand covers (R46, R292). -/
inductive Opnd where
  /-- unused: the field, its mode and its trap bit are zero (R45) -/
  | unused
  /-- a source of `w` registers in any mode (R44) -/
  | src (w : Nat)
  /-- a source that may not be a small immediate -/
  | srcReg (w : Nat)
  /-- a destination of `w` registers -/
  | dst (w : Nat)
  /-- a register both read and written (R124, R160, R182) -/
  | upd (w : Nat)
  /-- a storage register of another lane, no rotation (R212) -/
  | stor (w : Nat) (written : Bool)
  /-- the first of `w` accumulators, each renamed on its own (R279) -/
  | acc (w : Nat)
  /-- a number below the bound, mode 0 (R101) -/
  | num (bound : Nat)
  /-- a raw number below the bound, small-immediate mode (R101, R144) -/
  | raw (bound : Nat)
  deriving DecidableEq, Repr

/-- An instruction's word fields by form; an event has none. -/
inductive AForm where
  | one (f : Form1)
  | imm (f : FormI)
  | ext (f : FormE)
  | event
  deriving DecidableEq, Repr

/-- The fields of any form, in the E form's shape. -/
structure View where
  u : Bool
  g : BitVec 3
  d : Fld
  a : Fld
  b : Fld
  c : Fld
  mod : BitVec 7
  imm : BitVec 32
  deriving DecidableEq, Repr

/-- One opcode row, for one instruction. -/
structure Info where
  op : Nat
  form : AForm
  cls : EngineClass
  tm : Timing
  d : Opnd
  a : Opnd
  b : Opnd
  c : Opnd
  modOk : Bool
  g7 : Bool := false
  noU : Bool := false
  /-- modifiers that the one-word form implies (R71, R72) -/
  oneMod : BitVec 7 := 0
  /-- the one-word form reads source c from d (R65) -/
  three : Bool := false
  deriving DecidableEq, Repr

/-- A row in the one-word form. -/
def Info.one (op : Nat) (cls : EngineClass) (tm : Timing) (f : Form1) (d a b : Opnd) : Info :=
  { op := op, form := .one f, cls := cls, tm := tm, d := d, a := a, b := b, c := .unused, modOk := true }
/-- A row in the I form. -/
def Info.imm (op : Nat) (cls : EngineClass) (tm : Timing) (f : FormI) (d a : Opnd) (ok : Bool) : Info :=
  { op := op, form := .imm f, cls := cls, tm := tm, d := d, a := a, b := .unused, c := .unused, modOk := ok }
/-- A row in the E form. -/
def Info.ext (op : Nat) (cls : EngineClass) (tm : Timing) (f : FormE) (d a b c : Opnd) (ok : Bool) : Info :=
  { op := op, form := .ext f, cls := cls, tm := tm, d := d, a := a, b := b, c := c, modOk := ok }
/-- The row requires G = 7. -/
def Info.always (i : Info) : Info := { i with g7 := true }
/-- U set is illegal (R185). -/
def Info.plain (i : Info) : Info := { i with noU := true }
/-- Modifiers that the one-word form implies. -/
def Info.mods (i : Info) (m : BitVec 7) : Info := { i with oneMod := m }
/-- The one-word form of a three-source opcode reads c from d (R65). -/
def Info.cFromD (i : Info) : Info := { i with c := .src 1, three := true }

/-- An event has no word. -/
def Info.event : Info :=
  { op := 256, form := .event, cls := .sys, tm := .c, d := .unused, a := .unused, b := .unused, c := .unused, modOk := true }

/-- The modifier bits set lie among those of `mask` (R45). -/
def modUnder {n : Nat} (m : BitVec n) (mask : Nat) : Bool := (m.toNat &&& mask) == m.toNat
/-- A displacement is a multiple of 4 (R167). -/
def aligned4 (x : BitVec 32) : Bool := x.toNat % 4 == 0
/-- Registers that `srd` of a selector writes: CLOCK, TIME and TOK take a pair (R108). -/
def srdWidth (sel : Nat) : Nat := if sel = 0x16 || sel = 0x17 || sel = 0x1E then 2 else 1
/-- Registers of a type code (R157). -/
def tyWidth (t : Nat) : Nat := if t = 15 then 2 else 1
/-- Bits of a type code (Table 7.4). -/
def tyBits (t : Nat) : Nat :=
  if t = 0 || t = 13 || t = 14 then 32 else if t = 1 || t = 2 || t = 11 || t = 12 then 16
  else if t = 5 || t = 7 || t = 8 then 4 else if t = 15 then 64 else 8
/-- The 32-bit types that `pack` reads and `unpack` writes: FP32, i32, n32 (R160). -/
def tyWide (t : Nat) : Bool := t == 0 || t == 13 || t == 14
/-- A type of 4, 8 or 16 bits (R160). -/
def tyNarrow (t : Nat) : Bool := tyBits t < 32
/-- Registers of an I-form SIZE (R292, Table 3.10). -/
def sizeWidth (z : Nat) : Nat := if z = 1 then 2 else if z = 2 then 4 else 1
/-- I-form sizes that a store accepts (Table 13.1). -/
def storeSize (z : Nat) : Bool := z < 3 || z == 4 || z == 6
/-- Registers of an E-form SIZE (R292, Table 3.10). -/
def esizeWidth (z : Nat) : Nat := if z = 0 then 1 else if z = 1 then 2 else if z = 2 then 4 else 16

/-- The row of each instruction. -/
def Instr.info : Instr → Info
  | .nop f => .one 0x00 .ctl .c f .unused .unused .unused
  | .bra f => (Info.imm 0x01 .ctl .c f .unused .unused (f.mod == 0 && aligned4 f.imm)).always
  | .brc f => (Info.imm 0x02 .ctl .c f (.num 64) (.num 64) (modUnder f.mod 0x0F && aligned4 f.imm && f.joff != 0)).always
  | .bru f => (Info.imm 0x03 .ctl .c f .unused .unused (modUnder f.mod 0x0F && aligned4 f.imm)).always
  | .brx f => (Info.one 0x04 .ctl .c f .unused (.src 2) .unused).always
  | .call f => (Info.imm 0x05 .ctl .c f (.dst 2) .unused (f.mod == 0 && aligned4 f.imm)).always
  | .callx f => (Info.one 0x06 .ctl .c f (.dst 2) (.src 2) .unused).always
  | .ret f => (Info.one 0x07 .ctl .c f .unused (.src 2) .unused).always
  | .brloop f => (Info.imm 0x08 .ctl .c f (.upd 1) .unused (f.mod == 0 && aligned4 f.imm)).always
  | .join f => (Info.one 0x09 .ctl .c f .unused .unused .unused).always
  | .exit f => .one 0x0A .ctl .c f .unused .unused .unused
  | .yield f => (Info.one 0x0B .ctl .c f .unused .unused .unused).always
  | .sigchk f => (Info.imm 0x0C .sys .c f .unused .unused (f.mod == 0)).always
  | .tfence f => (Info.one 0x0D .sys .c f .unused .unused .unused).always
  | .trap f => .imm 0x0E .sys .c f .unused .unused (f.mod == 0)
  | .bpt f => (Info.one 0x0F .sys .c f .unused .unused .unused).always
  | .rteRetry f => (Info.ext 0x10 .sys .c f .unused (.src 1) .unused .unused (f.mod == 0)).always
  | .rteSkip f => (Info.ext 0x10 .sys .c f .unused (.src 1) .unused .unused (f.mod == 1)).always
  | .rteEnd f => (Info.ext 0x10 .sys .c f .unused (.src 1) .unused .unused (f.mod == 2)).always
  | .lget f => .ext 0x11 .sys .a f (.dst (1 + f.bit 0)) (.stor (1 + f.bit 0) false) (.src 1) .unused (modUnder f.mod 0x01)
  | .lset f => .ext 0x12 .sys .a f (.stor (1 + f.bit 0) true) (.src (1 + f.bit 0)) (.src 1) .unused (modUnder f.mod 0x01)
  | .regroup f => (Info.ext 0x13 .ctl .c f .unused (.src 1) (.raw 129) .unused (f.mod == 0)).always
  | .gang f => (Info.ext 0x14 .ctl .c f .unused (.src 1) .unused .unused (f.mod == 0)).always
  | .rset f => (Info.ext 0x15 .ctl .c f .unused (.src 1) .unused .unused (modUnder f.mod 0x02)).always
  | .fmtset f => .one 0x16 .ctl .c f .unused (.src 1) .unused
  | .fmtsetI f => .imm 0x16 .ctl .c f .unused .unused (f.mod == 0)
  | .fmtget f => .one 0x17 .ctl .a f (.dst 1) .unused .unused
  | .mov f => .one 0x20 .alu .a f (.dst 1) (.src 1) .unused
  | .movE f => .ext 0x20 .alu .a f (.dst (1 + f.bit 1)) (.src (1 + f.bit 1)) .unused .unused (modUnder f.mod 0x02)
  | .movi f => .imm 0x21 .alu .a f (.dst 1) .unused (f.mod == 0)
  | .srd f => .one 0x22 .alu .a f (.dst (srdWidth f.a.toNat)) (.num 64) .unused
  | .srdE f => .ext 0x22 .alu .a f (.dst (srdWidth f.a.f.toNat)) (.num 256) .unused .unused (f.mod == 0)
  | .swr f => .one 0x23 .alu .a f (.num 64) (.src 1) .unused
  | .swrE f => .ext 0x23 .alu .a f (.num 256) (.src 1) .unused .unused (f.mod == 0)
  | .sel f => .ext 0x24 .alu .a f (.dst 1) (.src 1) (.src 1) .unused (modUnder f.mod 0x1E)
  | .pmov f => .one 0x25 .alu .a f (.dst 1) .unused .unused
  | .pmovE f => .ext 0x25 .alu .a f (if f.bit 1 = 0 then .dst 1 else .unused) (if f.bit 1 = 0 then .unused else .src 1) (if f.bit 1 = 0 then .unused else .raw 128) .unused (modUnder f.mod 0x02)
  | .iadd f => .one 0x26 .alu .a f (.dst 1) (.src 1) (.src 1)
  | .iaddE f => .ext 0x26 .alu .a f (.dst 1) (.src 1) (.src 1) .unused (modUnder f.mod 0x06 && f.ck != 3)
  | .isub f => .one 0x27 .alu .a f (.dst 1) (.src 1) (.src 1)
  | .isubE f => .ext 0x27 .alu .a f (.dst 1) (.src 1) (.src 1) .unused (modUnder f.mod 0x06 && f.ck != 3)
  | .iaddc f => .ext 0x28 .alu .a f (.dst 1) (.src 1) (.src 1) .unused (modUnder f.mod 0x7E)
  | .isubb f => .ext 0x29 .alu .a f (.dst 1) (.src 1) (.src 1) .unused (modUnder f.mod 0x7E)
  | .imul f => .one 0x2A .alu .w f (.dst 1) (.src 1) (.src 1)
  | .imulE f => .ext 0x2A .alu .w f (.dst 1) (.src 1) (.src 1) .unused (modUnder f.mod 0x06 && f.ck != 3)
  | .imulh f => .one 0x2B .alu .w f (.dst 1) (.src 1) (.src 1)
  | .imulhE f => .ext 0x2B .alu .w f (.dst 1) (.src 1) (.src 1) .unused (f.mod == 0)
  | .imulhn f => .ext 0x2B .alu .w f (.dst 1) (.src 1) (.src 1) .unused (f.mod == 1)
  | .imad f => .ext 0x2C .alu .w f (.dst 1) (.src 1) (.src 1) (.src 1) (modUnder f.mod 0x06 && f.ck != 3)
  | .iadd64 f => .one 0x2D .alu .w f (.dst 2) (.src 2) (.src 1)
  | .iadd64E f => .ext 0x2D .alu .w f (.dst 2) (.src 2) (.src (if f.ck = 2 then 2 else 1)) .unused (modUnder f.mod 0x06 && f.ck != 3)
  | .isub64 f => .one 0x2E .alu .w f (.dst 2) (.src 2) (.src 1)
  | .isub64E f => .ext 0x2E .alu .w f (.dst 2) (.src 2) (.src (if f.ck = 2 then 2 else 1)) .unused (modUnder f.mod 0x06 && f.ck != 3)
  | .lea f => .ext 0x2F .alu .w f (.dst 2) (.src 2) (.src 1) .unused (modUnder f.mod 0x1E)
  | .imin f => .one 0x30 .alu .a f (.dst 1) (.src 1) (.src 1)
  | .iminE f => .ext 0x30 .alu .a f (.dst 1) (.src 1) (.src 1) .unused (f.mod == 0)
  | .iminn f => .ext 0x30 .alu .a f (.dst 1) (.src 1) (.src 1) .unused (f.mod == 1)
  | .imax f => .one 0x31 .alu .a f (.dst 1) (.src 1) (.src 1)
  | .imaxE f => .ext 0x31 .alu .a f (.dst 1) (.src 1) (.src 1) .unused (f.mod == 0)
  | .imaxn f => .ext 0x31 .alu .a f (.dst 1) (.src 1) (.src 1) .unused (f.mod == 1)
  | .iabs f => .one 0x32 .alu .a f (.dst 1) (.src 1) .unused
  | .iabsE f => .ext 0x32 .alu .a f (.dst 1) (.src 1) .unused .unused (modUnder f.mod 0x02)
  | .ineg f => .one 0x33 .alu .a f (.dst 1) (.src 1) .unused
  | .inegE f => .ext 0x33 .alu .a f (.dst 1) (.src 1) .unused .unused (modUnder f.mod 0x02)
  | .iadds f => .one 0x34 .alu .a f (.dst 1) (.src 1) (.src 1)
  | .iaddsE f => .ext 0x34 .alu .a f (.dst 1) (.src 1) (.src 1) .unused (modUnder f.mod 0x02)
  | .isubs f => .one 0x35 .alu .a f (.dst 1) (.src 1) (.src 1)
  | .isubsE f => .ext 0x35 .alu .a f (.dst 1) (.src 1) (.src 1) .unused (modUnder f.mod 0x02)
  | .idivn f => .one 0x36 .sfu .f f (.dst 1) (.src 1) (.src 1)
  | .idivnE f => .ext 0x36 .sfu .f f (.dst 1) (.src 1) (.src 1) .unused (f.mod == 0)
  | .iremn f => .one 0x37 .sfu .f f (.dst 1) (.src 1) (.src 1)
  | .iremnE f => .ext 0x37 .sfu .f f (.dst 1) (.src 1) (.src 1) .unused (f.mod == 0)
  | .and f => .one 0x38 .alu .a f (.dst 1) (.src 1) (.src 1)
  | .andE f => .ext 0x38 .alu .a f (.dst 1) (.src 1) (.src 1) .unused (f.mod == 0)
  | .or f => .one 0x39 .alu .a f (.dst 1) (.src 1) (.src 1)
  | .orE f => .ext 0x39 .alu .a f (.dst 1) (.src 1) (.src 1) .unused (f.mod == 0)
  | .xor f => .one 0x3A .alu .a f (.dst 1) (.src 1) (.src 1)
  | .xorE f => .ext 0x3A .alu .a f (.dst 1) (.src 1) (.src 1) .unused (f.mod == 0)
  | .andn f => .one 0x3B .alu .a f (.dst 1) (.src 1) (.src 1)
  | .andnE f => .ext 0x3B .alu .a f (.dst 1) (.src 1) (.src 1) .unused (f.mod == 0)
  | .orn f => .one 0x3C .alu .a f (.dst 1) (.src 1) (.src 1)
  | .ornE f => .ext 0x3C .alu .a f (.dst 1) (.src 1) (.src 1) .unused (f.mod == 0)
  | .not f => .one 0x3D .alu .a f (.dst 1) (.src 1) .unused
  | .notE f => .ext 0x3D .alu .a f (.dst 1) (.src 1) .unused .unused (f.mod == 0)
  | .shl f => .one 0x3E .alu .a f (.dst 1) (.src 1) (.src 1)
  | .shlE f => .ext 0x3E .alu .a f (.dst 1) (.src 1) (.src 1) .unused (f.mod == 0)
  | .shr f => .one 0x3F .alu .a f (.dst 1) (.src 1) (.src 1)
  | .shrE f => .ext 0x3F .alu .a f (.dst 1) (.src 1) (.src 1) .unused (f.mod == 0)
  | .sar f => .one 0x40 .alu .a f (.dst 1) (.src 1) (.src 1)
  | .sarE f => .ext 0x40 .alu .a f (.dst 1) (.src 1) (.src 1) .unused (f.mod == 0)
  | .rotl f => .one 0x41 .alu .a f (.dst 1) (.src 1) (.src 1)
  | .rotlE f => .ext 0x41 .alu .a f (.dst 1) (.src 1) (.src 1) .unused (f.mod == 0)
  | .bfx f => .ext 0x42 .alu .a f (.dst 1) (.src 1) (.src 1) .unused (f.mod == 0)
  | .bfxs f => .ext 0x43 .alu .a f (.dst 1) (.src 1) (.src 1) .unused (f.mod == 0)
  | .bfi f => .ext 0x44 .alu .a f (.dst 1) (.src 1) (.src 1) (.src 1) (f.mod == 0)
  | .popc f => .one 0x45 .alu .a f (.dst 1) (.src 1) .unused
  | .popcE f => .ext 0x45 .alu .a f (.dst 1) (.src 1) .unused .unused (f.mod == 0)
  | .clz f => .one 0x46 .alu .a f (.dst 1) (.src 1) .unused
  | .clzE f => .ext 0x46 .alu .a f (.dst 1) (.src 1) .unused .unused (f.mod == 0)
  | .ctz f => .one 0x47 .alu .a f (.dst 1) (.src 1) .unused
  | .ctzE f => .ext 0x47 .alu .a f (.dst 1) (.src 1) .unused .unused (f.mod == 0)
  | .brev f => .one 0x48 .alu .a f (.dst 1) (.src 1) .unused
  | .brevE f => .ext 0x48 .alu .a f (.dst 1) (.src 1) .unused .unused (f.mod == 0)
  | .bysel f => .ext 0x49 .alu .a f (.dst 1) (.src 1) (.src 1) (.src 1) (f.mod == 0)
  | .lut3 f => .ext 0x4A .alu .a f (.upd 1) (.src 1) (.src 1) (.raw 256) (f.mod == 0)
  | .isetp f => .ext 0x4B .alu .a f (.num 8) (.src 1) (.src 1) (if f.bop = 0 then .unused else .num 8) (f.cmp < 6 && (f.bop != 0 || f.bit 1 = 0) && f.bit 0 = 0)
  | .isetpn f => .ext 0x4B .alu .a f (.num 8) (.src 1) (.src 1) (if f.bop = 0 then .unused else .num 8) (f.cmp < 6 && (f.bop != 0 || f.bit 1 = 0) && f.bit 0 = 1)
  | .plop f => .ext 0x4C .alu .a f (.num 8) (.num 8) (.num 8) (.raw 256) (modUnder f.mod 0x70)
  | .xmov f => .ext 0x4D .alu .a f (.num 4) (.src 1) .unused .unused (f.mod == 0)
  | .xadd f => .ext 0x4E .alu .a f (.num 4) (.src 1) .unused .unused (f.mod == 0)
  | .fadd f => .one 0x50 .alu .a f (.dst 1) (.src 1) (.src 1)
  | .faddE f => .ext 0x50 .alu .a f (.dst 1) (.src 1) (.src 1) .unused (modUnder f.mod 0x70 && f.rm < 5)
  | .fsub f => .one 0x51 .alu .a f (.dst 1) (.src 1) (.src 1)
  | .fsubE f => .ext 0x51 .alu .a f (.dst 1) (.src 1) (.src 1) .unused (modUnder f.mod 0x70 && f.rm < 5)
  | .fmul f => .one 0x52 .alu .a f (.dst 1) (.src 1) (.src 1)
  | .fmulE f => .ext 0x52 .alu .a f (.dst 1) (.src 1) (.src 1) .unused (modUnder f.mod 0x70 && f.rm < 5)
  | .ffma f => (Info.one 0x53 .alu .a f (.dst 1) (.src 1) (.src 1)).cFromD
  | .ffmaE f => .ext 0x53 .alu .a f (.dst 1) (.src 1) (.src 1) (.src 1) (modUnder f.mod 0x70 && f.rm < 5)
  | .fmin f => .one 0x54 .alu .a f (.dst 1) (.src 1) (.src 1)
  | .fminE f => .ext 0x54 .alu .a f (.dst 1) (.src 1) (.src 1) .unused (f.mod == 0)
  | .fmax f => .one 0x55 .alu .a f (.dst 1) (.src 1) (.src 1)
  | .fmaxE f => .ext 0x55 .alu .a f (.dst 1) (.src 1) (.src 1) .unused (f.mod == 0)
  | .fabs f => .one 0x56 .alu .a f (.dst 1) (.src 1) .unused
  | .fabsE f => .ext 0x56 .alu .a f (.dst 1) (.src 1) .unused .unused (f.mod == 0)
  | .fneg f => .one 0x57 .alu .a f (.dst 1) (.src 1) .unused
  | .fnegE f => .ext 0x57 .alu .a f (.dst 1) (.src 1) .unused .unused (f.mod == 0)
  | .fclass f => .one 0x58 .alu .a f (.dst 1) (.src 1) .unused
  | .fclassE f => .ext 0x58 .alu .a f (.dst 1) (.src 1) .unused .unused (f.mod == 0)
  | .frnd f => .one 0x59 .alu .a f (.dst 1) (.src 1) .unused
  | .frndE f => .ext 0x59 .alu .a f (.dst 1) (.src 1) .unused .unused (modUnder f.mod 0x71 && f.rm < 5)
  | .fsetp f => .ext 0x5A .alu .a f (.num 8) (.src 1) (.src 1) (.num 64) (modUnder f.mod 0x0F && f.low4 < 14 && (16 <= f.c.f.toNat || f.c.f == 0))
  | .frcp f => .one 0x5B .sfu .f f (.dst 1) (.src 1) .unused
  | .frcpE f => .ext 0x5B .sfu .f f (.dst 1) (.src 1) .unused .unused (modUnder f.mod 0x70 && f.rm < 5)
  | .frsq f => .one 0x5C .sfu .f f (.dst 1) (.src 1) .unused
  | .frsqE f => .ext 0x5C .sfu .f f (.dst 1) (.src 1) .unused .unused (modUnder f.mod 0x70 && f.rm < 5)
  | .fsqrt f => .one 0x5D .sfu .f f (.dst 1) (.src 1) .unused
  | .fsqrtE f => .ext 0x5D .sfu .f f (.dst 1) (.src 1) .unused .unused (modUnder f.mod 0x70 && f.rm < 5)
  | .fex2 f => .one 0x5E .sfu .f f (.dst 1) (.src 1) .unused
  | .fex2E f => .ext 0x5E .sfu .f f (.dst 1) (.src 1) .unused .unused (modUnder f.mod 0x70 && f.rm < 5)
  | .flg2 f => .one 0x5F .sfu .f f (.dst 1) (.src 1) .unused
  | .flg2E f => .ext 0x5F .sfu .f f (.dst 1) (.src 1) .unused .unused (modUnder f.mod 0x70 && f.rm < 5)
  | .fsin f => .one 0x60 .sfu .f f (.dst 1) (.src 1) .unused
  | .fsinE f => .ext 0x60 .sfu .f f (.dst 1) (.src 1) .unused .unused (modUnder f.mod 0x70 && f.rm < 5)
  | .fcos f => .one 0x61 .sfu .f f (.dst 1) (.src 1) .unused
  | .fcosE f => .ext 0x61 .sfu .f f (.dst 1) (.src 1) .unused .unused (modUnder f.mod 0x70 && f.rm < 5)
  | .fdiv f => .one 0x62 .sfu .f f (.dst 1) (.src 1) (.src 1)
  | .fdivE f => .ext 0x62 .sfu .f f (.dst 1) (.src 1) (.src 1) .unused (modUnder f.mod 0x70 && f.rm < 5)
  | .hadd2 f => .one 0x63 .alu .a f (.dst 1) (.src 1) (.src 1)
  | .hadd2E f => .ext 0x63 .alu .a f (.dst 1) (.src 1) (.src 1) .unused (modUnder f.mod 0x70 && f.rm < 5)
  | .hmul2 f => .one 0x64 .alu .a f (.dst 1) (.src 1) (.src 1)
  | .hmul2E f => .ext 0x64 .alu .a f (.dst 1) (.src 1) (.src 1) .unused (modUnder f.mod 0x70 && f.rm < 5)
  | .hfma2 f => (Info.one 0x65 .alu .a f (.dst 1) (.src 1) (.src 1)).cFromD
  | .hfma2E f => .ext 0x65 .alu .a f (.dst 1) (.src 1) (.src 1) (.src 1) (modUnder f.mod 0x70 && f.rm < 5)
  | .hmin2 f => .one 0x66 .alu .a f (.dst 1) (.src 1) (.src 1)
  | .hmin2E f => .ext 0x66 .alu .a f (.dst 1) (.src 1) (.src 1) .unused (f.mod == 0)
  | .hmax2 f => .one 0x67 .alu .a f (.dst 1) (.src 1) (.src 1)
  | .hmax2E f => .ext 0x67 .alu .a f (.dst 1) (.src 1) (.src 1) .unused (f.mod == 0)
  | .badd2 f => .one 0x68 .alu .a f (.dst 1) (.src 1) (.src 1)
  | .badd2E f => .ext 0x68 .alu .a f (.dst 1) (.src 1) (.src 1) .unused (modUnder f.mod 0x70 && f.rm < 5)
  | .bmul2 f => .one 0x69 .alu .a f (.dst 1) (.src 1) (.src 1)
  | .bmul2E f => .ext 0x69 .alu .a f (.dst 1) (.src 1) (.src 1) .unused (modUnder f.mod 0x70 && f.rm < 5)
  | .bfma2 f => (Info.one 0x6A .alu .a f (.dst 1) (.src 1) (.src 1)).cFromD
  | .bfma2E f => .ext 0x6A .alu .a f (.dst 1) (.src 1) (.src 1) (.src 1) (modUnder f.mod 0x70 && f.rm < 5)
  | .bmin2 f => .one 0x6B .alu .a f (.dst 1) (.src 1) (.src 1)
  | .bmin2E f => .ext 0x6B .alu .a f (.dst 1) (.src 1) (.src 1) .unused (f.mod == 0)
  | .bmax2 f => .one 0x6C .alu .a f (.dst 1) (.src 1) (.src 1)
  | .bmax2E f => .ext 0x6C .alu .a f (.dst 1) (.src 1) (.src 1) .unused (f.mod == 0)
  | .idp4 f => (Info.one 0x6D .alu .a f (.dst 1) (.src 1) (.src 1)).cFromD
  | .idp4E f => .ext 0x6D .alu .a f (.dst 1) (.src 1) (.src 1) (.src 1) (modUnder f.mod 0x01)
  | .idp4n f => (Info.one 0x6E .alu .a f (.dst 1) (.src 1) (.src 1)).cFromD
  | .idp4nE f => .ext 0x6E .alu .a f (.dst 1) (.src 1) (.src 1) (.src 1) (modUnder f.mod 0x01)
  | .idp8 f => .ext 0x6F .alu .a f (.dst 1) (.src 1) (.src 1) (.src 1) (modUnder f.mod 0x07)
  | .bdp2 f => (Info.one 0x70 .alu .w f (.dst 1) (.src 1) (.src 1)).cFromD
  | .bdp2E f => .ext 0x70 .alu .w f (.dst 1) (.src 1) (.src 1) (.src 1) (modUnder f.mod 0x70 && f.rm < 5)
  | .hdp2 f => (Info.one 0x71 .alu .w f (.dst 1) (.src 1) (.src 1)).cFromD
  | .hdp2E f => .ext 0x71 .alu .w f (.dst 1) (.src 1) (.src 1) (.src 1) (modUnder f.mod 0x70 && f.rm < 5)
  | .cvt f => .ext 0x72 .alu .a f (.dst (tyWidth f.tyDst)) (.src (tyWidth f.tySrc)) .unused (.raw 256) (modUnder f.mod 0x73 && f.rm < 5 && (f.bit 1 = 0 || f.tyDst = 15 || f.tySrc = 15))
  | .cvtsr f => .ext 0x73 .alu .a f (.dst (tyWidth f.tyDst)) (.src 1) (.src 1) (.raw 256) (modUnder f.mod 0x03 && f.tySrc < 6 && f.tyDst != 6 && (f.bit 1 = 0 || f.tyDst = 15))
  | .pack f => .ext 0x74 .alu .a f (.upd 1) (.src 1) (.src 1) (.raw 256) (modUnder f.mod 0x7F && f.rm < 5 && tyWide f.tySrc && tyNarrow f.tyDst && f.j * tyBits f.tyDst < 16)
  | .unpack f => .ext 0x75 .alu .a f (.dst 1) (.src 1) .unused (.raw 256) (modUnder f.mod 0x7E && f.rm < 5 && tyWide f.tyDst && tyNarrow f.tySrc && f.j * tyBits f.tySrc < 32)
  | .qnt f => .ext 0x76 .alu .a f (.dst 1) (.src 1) (.src 1) (.raw 4) (modUnder f.mod 0x70 && f.rm < 5)
  | .dqnt f => .ext 0x77 .alu .a f (.dst 1) (.src 1) (.src 1) (.raw 4) (f.mod == 0)
  | .qparam f => .ext 0x78 .alu .a f (.dst 1) (.src 1) (.src 1) (.raw 4) (modUnder f.mod 0x70 && f.rm < 5)
  | .mxexp f => .one 0x79 .alu .a f (.dst 1) (.src 1) .unused
  | .mxexpE f => .ext 0x79 .alu .a f (.dst 1) (.src 1) .unused .unused (modUnder f.mod 0x01)
  | .mxq f => .ext 0x7A .alu .a f (.dst 1) (.src 1) (.src 1) .unused (modUnder f.mod 0x71 && f.rm < 5)
  | .mxdq f => .ext 0x7B .alu .a f (.dst 1) (.src 1) (.src 1) .unused (modUnder f.mod 0x71 && f.rm < 5)
  | .lxch f => (Info.ext 0x80 .alu .w f (.dst 1) (.srcReg 1) (.src 1) .unused (modUnder f.mod 0x06)).plain
  | .lpoll f => (Info.ext 0x81 .alu .w f (if f.ck = 0 || f.ck = 3 then .dst 1 else .num 8) (.num 8) .unused .unused (modUnder f.mod 0x0E)).plain
  | .lpeer f => (Info.ext 0x82 .alu .w f (.dst 1) (.src (1 + f.bit 3)) .unused (if f.ck = 1 then .num 8 else .unused) (modUnder f.mod 0x0E && f.ck != 3)).plain
  | .lfold f => (Info.ext 0x83 .alu .w f (.dst 1) (.src 1) .unused .unused (modUnder f.mod 0x1E)).plain
  | .flfold f => (Info.ext 0x84 .alu .w f (.dst 1) (.src 1) .unused .unused (modUnder f.mod 0x7E && f.j < 3 && f.rm < 5 && (f.j = 0 || f.rm = 0))).plain
  | .ld f => (Info.one 0x90 .mem .m f (.dst 1) (.src 2) .unused).mods 0x28
  | .ldI f => .imm 0x90 .mem .m f (.dst (sizeWidth f.isize)) (.src 2) (f.isize != 3 && f.iscope < 7)
  | .ldAcq f => .imm 0x91 .mem .m f (.dst (sizeWidth f.isize)) (.src 2) (f.isize != 3 && f.iscope < 7)
  | .st f => (Info.one 0x92 .mem .m f (.src 1) (.src 2) .unused).mods 0x28
  | .stI f => .imm 0x92 .mem .m f (.src (sizeWidth f.isize)) (.src 2) (storeSize f.isize && f.iscope < 7)
  | .stRel f => .imm 0x93 .mem .m f (.src (sizeWidth f.isize)) (.src 2) (storeSize f.isize && f.iscope < 7)
  | .lds f => (Info.one 0x94 .mem .m f (.dst 1) (.src 1) .unused).mods 0x08
  | .ldsI f => .imm 0x94 .mem .m f (.dst (sizeWidth f.isize)) (.src 1) (f.isize != 3 && f.iscope < 2)
  | .sts f => (Info.one 0x95 .mem .m f (.src 1) (.src 1) .unused).mods 0x08
  | .stsI f => .imm 0x95 .mem .m f (.src (sizeWidth f.isize)) (.src 1) (storeSize f.isize && f.iscope < 2)
  | .ldx f => .ext 0x96 .mem .m f (.dst (esizeWidth f.esize)) (.src 2) (.src 1) .unused (f.escope < 7 && f.order < 2 && f.esize < 3)
  | .atom f => .ext 0x97 .mem .m f (.dst (esizeWidth f.esize)) (.src 2) (.src (esizeWidth f.esize)) (.raw 12) (f.escope < 7 && f.esize != 2 && (f.esize < 2 || f.c.f == 6 || f.c.f == 7))
  | .cas f => .ext 0x98 .mem .m f (.dst (esizeWidth f.esize)) (.src 2) (.src (esizeWidth f.esize)) (.src (esizeWidth f.esize)) (f.escope < 7 && f.esize < 3)
  | .atoms f => .ext 0x99 .mem .m f (.dst (esizeWidth f.esize)) (.src 1) (.src (esizeWidth f.esize)) (.raw 12) (f.escope < 2 && f.esize < 2)
  | .cass f => .ext 0x9A .mem .m f (.dst (esizeWidth f.esize)) (.src 1) (.src (esizeWidth f.esize)) (.src (esizeWidth f.esize)) (f.escope < 2 && f.esize < 2)
  | .red f => .ext 0x9B .mem .m f .unused (.src 2) (.src (esizeWidth f.esize)) (.raw 12) (f.escope < 7 && f.order % 2 = 0 && f.esize != 2 && f.c.f != 9 && (f.esize < 2 || f.c.f == 6 || f.c.f == 7))
  | .redx f => .ext 0x9C .mem .m f .unused (.src 2) (.src 1) .unused (f.escope < 7 && f.order % 2 = 0 && f.esize < 3)
  | .rdx f => .ext 0x9D .mem .m f (.dst 1) (.src 2) .unused .unused (f.escope < 7 && f.order < 2 && f.esize = 0)
  | .clrx f => (Info.one 0x9E .mem .m f .unused (.src 2) .unused).mods 0x50
  | .clrxE f => .ext 0x9E .mem .m f .unused (.src 2) .unused .unused (f.escope < 7 && f.order % 2 = 0 && f.esize = 0)
  | .fence f => .ext 0x9F .mem .p f .unused .unused .unused .unused (f.escope < 7 && f.order != 0 && f.esize = 0)
  | .bcopy f => (Info.ext 0xA0 .mem .p f .unused (.src 1) .unused .unused (f.escope < 7 && f.bit 3 = 0)).always
  | .bwait f => .ext 0xA1 .mem .p f .unused .unused .unused .unused (modUnder f.mod 0x07)
  | .pref f => .ext 0xA2 .mem .m f .unused (.src 2) (.src 1) .unused ((f.escope = 2 || f.escope = 4) && modUnder f.mod 0x70)
  | .seal f => .ext 0xA3 .mem .p f .unused (.src 2) (.src 1) .unused (f.mod == 0)
  | .unseal f => .ext 0xA4 .mem .p f .unused (.src 2) (.src 1) .unused (f.mod == 0)
  | .pmodeCompute f => (Info.ext 0xC0 .pan .p f .unused (.src 1) .unused .unused (f.mod == 1)).always
  | .pmodeStorage f => (Info.ext 0xC0 .pan .p f .unused (.src 1) .unused .unused (f.mod == 0)).always
  | .sluice f => (Info.one 0xC1 .pan .p f .unused .unused .unused).always
  | .pcfgAttr f => (Info.ext 0xC2 .pan .p f .unused (.src 1) (.raw 28) .unused (f.mod == 0)).always
  | .pcfgSet f => (Info.ext 0xC2 .pan .p f .unused (.src 2) (.raw 4) .unused (f.mod == 1)).always
  | .scbind f => (Info.ext 0xC3 .pan .p f .unused (.src 2) (.src 1) (.src 1) (f.mod == 0)).always
  | .pmma f => (Info.ext 0xC4 .pan .p f (.acc (16 * 2 ^ f.nsel)) (.src 1) (.src 1) .unused (f.nsel != 3)).always
  | .pfence f => (Info.one 0xC5 .pan .p f .unused .unused .unused).always
  | .pwait f => (Info.ext 0xC6 .pan .p f .unused .unused .unused .unused (modUnder f.mod 0x07)).always
  | .pswap f => (Info.one 0xC7 .pan .p f (.num 2) .unused .unused).always
  | .pqueryState f => (Info.ext 0xC8 .pan .a f (.dst 2) .unused .unused .unused (f.mod == 0)).always
  | .pqueryBusy f => (Info.ext 0xC8 .pan .a f (.dst 1) .unused .unused .unused (f.mod == 1)).always
  | .pqueryPart f => (Info.ext 0xC8 .pan .a f (.dst 1) .unused .unused .unused (f.mod == 2)).always
  | .bar f => (Info.ext 0xD0 .sys .p f .unused (.src 1) .unused .unused (f.mod == 0)).always
  | .bara f => (Info.ext 0xD1 .sys .p f .unused (.src 1) .unused .unused (f.mod == 0)).always
  | .sstep f => (Info.ext 0xD2 .sys .p f .unused .unused .unused .unused (modUnder f.mod 0x70 && 3 <= f.escope && f.escope < 6)).always
  | .enq f => (Info.ext 0xD3 .sys .m f .unused (.src 1) (.src 1) .unused (f.mod == 0)).always
  | .deq f => (Info.ext 0xD4 .sys .p f (.dst 1) (.src 1) (.src 1) .unused (f.mod == 0 && (f.b.mode != .small || (1 <= f.b.f.toNat && f.b.f.toNat < 128)))).always
  | .launch f => (Info.ext 0xD5 .sys .p f (.dst 1) (.src 2) .unused .unused (f.mod == 0)).always
  | .evsig f => (Info.ext 0xD6 .sys .p f .unused (.src 2) (.src 1) .unused (modUnder f.mod 0x70 && 1 <= f.escope && f.escope < 7)).always
  | .evwait f => (Info.ext 0xD7 .sys .p f .unused (.src 2) (.src 2) .unused (modUnder f.mod 0x70 && 1 <= f.escope && f.escope < 7)).always
  | .snap f => (Info.one 0xD8 .sys .p f (.dst 1) (.src 2) .unused).always
  | .snapqState f => (Info.ext 0xD9 .sys .a f (.dst 1) (.src 1) .unused .unused (f.mod == 0)).always
  | .snapqCur f => (Info.ext 0xD9 .sys .a f (.dst 1) .unused .unused .unused (f.mod == 1)).always
  | .snapqBase f => (Info.ext 0xD9 .sys .a f (.dst 1) .unused .unused .unused (f.mod == 2)).always
  | .snapqFree f => (Info.ext 0xD9 .sys .a f (.dst 1) .unused .unused .unused (f.mod == 3)).always
  | .snapdrop f => (Info.one 0xDA .sys .p f (.dst 1) (.src 1) .unused).always
  | .tlbinvRange f => (Info.ext 0xE0 .sys .p f .unused (.src 2) (.src 1) (.src 1) (2 <= f.escope && f.escope < 6 && f.low4 = 0)).always
  | .tlbinvCtx f => (Info.ext 0xE0 .sys .p f .unused .unused .unused (.src 1) (2 <= f.escope && f.escope < 6 && f.low4 = 1)).always
  | .tlbinvAll f => (Info.ext 0xE0 .sys .p f .unused .unused .unused .unused (2 <= f.escope && f.escope < 6 && f.low4 = 2)).always
  | .biassetHost f => (Info.ext 0xE1 .sys .p f (.dst 1) (.src 2) (.src 1) .unused (f.mod == 1)).always
  | .biassetDev f => (Info.ext 0xE1 .sys .p f (.dst 1) (.src 2) (.src 1) .unused (f.mod == 0)).always
  | .migack f => (Info.one 0xE2 .sys .p f (.dst 1) (.src 1) (.src 1)).always
  | .pmcRd f => (Info.ext 0xE3 .sys .a f (.dst 2) (.raw 8) .unused .unused (f.mod == 0)).always
  | .pmcSel f => (Info.ext 0xE3 .sys .a f .unused (.raw 8) (.src 1) .unused (f.mod == 1)).always
  | .pmcClr f => (Info.ext 0xE3 .sys .a f .unused (.raw 8) .unused .unused (f.mod == 2)).always
  | .packageReset | .ownerPortDownTimeout | .handoverOffer _ _
  | .handoverAccept _ _ | .handoverLapse | .systemRegisterWrite _ _ _
  | .firmwareImage _ _ | .attestationReport _ _ | .securityAlarm _
  | .patrolScrub _ | .uncorrectableErrorConsumed _ | .ownerContextKill _ _
  | .killComplete _ | .trackFreeSchedule _ _ | .clauseStallExpiry _ _ _
  | .longLatencyArrival _ | .sfuResultWrite _ | .parkedReplay _
  | .lightFaultService _ | .pftailWrite _ _ | .pfreplyRetry _ _
  | .pfreplyNoFrame _ _ | .pfreplyFail _ _ | .pfreplyIgnored _ _
  | .fxtimeExpiry _ | .yreqWrite _ _ _ | .deadlineWrite _ _ _
  | .ripcord _ | .groupSave _ _ | .preemptionComplete _
  | .restore _ _ _ | .workgroupPlacement _ _ | .panZeroingDone _
  | .drainingEnd _ _ | .workgroupRetirement _ | .owptrWrite _ _ _
  | .launchRingTake | .pendingLaunchStart _ | .dependenceReread _
  | .launchCompletion _ | .quiescence _ | .writeAtHome _ _
  | .copyWaitResume _ _ | .atomicAtHome _ _ | .l1SignatureInvalidation _ _
  | .readShared _ _ | .readOwn _ _ | .upgrade _ _
  | .writeBack _ _ | .cleanEvict _ _ | .remoteWriteAtHome _
  | .invalidation _ _ | .invalidationAck _ _ | .ackTimeoutResend _ _
  | .boundaryDown _ _ | .dieSelfFence _ | .quarantineRecord _
  | .peerRequest _ | .adxelAbandon _ | .hostRequest _ _
  | .biasFlipToHost _ | .biasFlipToDevice _ | .accessCounterHalving _
  | .pmmaLatchOpen _ _ | .scaleFill _ _ | .scaleFillFault _ _
  | .pmmaCompletion _ _ | .sluiceCompletion _ | .bulkCopyCompletion _
  | .bulkCopyFault _ | .superstepRelease _ _ | .regroupShuffleEnd _ _
  | .enqResume _ _ _ | .nodeBatchPlacement _ _ _ _ | .maxwaitExpiry _ _ _
  | .queueExchange | .recordTransitArrival _ | .evwaitReread _ _ _
  | .snapAdvance _ _ _ | .generationSweep | .spoolDrainPage _
  | .spoolDrainCompletion _ | .spoolDrainAbandon _ | .splreqWrite _ _
  | .masterAttachDetach _ _ | .powerCapThrottle _ | .machineCheckEvent _
  | .peerResponse _ _ _ | .bisnpResponse _ _ => .event

/-- A direct field of an operand of `w` registers names a multiple of `w` (R46, R292). -/
def Fld.aligned (x : Fld) (w : Nat) : Bool := x.mode != .direct || x.f.toNat % w == 0

/-- The checks on one operand field that the word decides (R44 to R46, R101, R144). -/
def Opnd.ok (k : Opnd) (x : Fld) : Bool :=
  match k with
  | .unused => x.mode == .direct && !x.trap && x.f == 0
  | .src w => x.aligned w
  | .srcReg w => x.mode != .small && x.aligned w
  | .dst w | .upd w => x.mode != .small && !x.trap && x.aligned w
  | .stor w written => x.mode != .small && !(written && x.trap) && x.aligned w
  | .acc _ => x.mode != .small && !x.trap
  | .num n => x.mode == .direct && !x.trap && decide (x.f.toNat < n)
  | .raw n => x.mode == .small && !x.trap && decide (x.f.toNat < n)

/-- A direct field. -/
def Fld.reg {n : Nat} (r : BitVec n) : Fld := { mode := .direct, trap := false, f := r.setWidth 8 }

/-- The fields of an instruction in the E form's shape. A one-word or I-form field is direct and has no trap bit. -/
def Info.view (i : Info) : View :=
  match i.form with
  | .one f =>
    { u := f.u, g := f.g, d := Fld.reg f.d, a := Fld.reg f.a, b := Fld.reg f.b,
      c := if i.three then Fld.reg f.d else Fld.reg 0#6, mod := i.oneMod, imm := 0 }
  | .imm f =>
    { u := f.u, g := f.g, d := Fld.reg f.d, a := Fld.reg f.a, b := Fld.reg 0#6, c := Fld.reg 0#6,
      mod := f.mod.setWidth 7, imm := f.imm }
  | .ext f =>
    { u := f.u, g := f.g, d := { mode := f.md, trap := false, f := f.xd }, a := f.a, b := f.b, c := f.c,
      mod := f.mod, imm := 0 }
  | .event =>
    { u := false, g := 0, d := Fld.reg 0#6, a := Fld.reg 0#6, b := Fld.reg 0#6, c := Fld.reg 0#6, mod := 0, imm := 0 }

/-- The fields of an instruction. -/
def Instr.view (i : Instr) : View := i.info.view

/-- The row is one of code, not an event. -/
def Instr.isCode (i : Instr) : Bool := i.info.form != .event

/-- The four operand fields hold what the row says (R45, R46, R101). -/
def Instr.wfFields (i : Instr) : Bool :=
  i.info.d.ok i.view.d && i.info.a.ok i.view.a && i.info.b.ok i.view.b && i.info.c.ok i.view.c
/-- The guard is one that the row accepts (R166, R208, R267, R368, R385, R411, R424). -/
def Instr.wfGuard (i : Instr) : Bool := !i.info.g7 || i.view.g == 7
/-- U is clear where the row forbids it (R185). -/
def Instr.wfUniform (i : Instr) : Bool := !(i.info.noU && i.view.u)
/-- The modifiers are legal. -/
def Instr.wfMods (i : Instr) : Bool := i.info.modOk

/-- Well-formed: nothing in the word alone makes it ILLEGAL (Table 2.10). The selector of `srd` and `swr` is checked at
issue, since h0 to h15 depend on handler mode (R93, R94). An event is well-formed. -/
def Instr.wf (i : Instr) : Bool := i.wfFields && i.wfGuard && i.wfUniform && i.wfMods

end Sys2Proof
end

