-- ==== Sys2Proof/Decode.lean ====
section
/-! DEFINITION. The decoder, total on any bytes and rejecting by name, and after it the encoder, both from the encoding
tables of 02_instruction_words.md and 03_opcode_map.md. `noncomputable` here and in the step concerns compiled code alone:
Lean's runtime numbers at most 245 constructors that carry fields; the kernel evaluates these definitions. -/

namespace Sys2Proof

/-- Why bytes are no instruction (Table 2.10). Every reason is the fault ILLEGAL with DETAIL 0. -/
inductive DecodeErr where
  /-- fewer bytes than the word or its second word needs -/
  | truncated
  /-- a clause header where an instruction must stand (R38) -/
  | header
  /-- a pair of dictionary codes: decoded by the track from the launch's dictionary (R48) -/
  | codes
  /-- an opcode that Tables 3.1 to 3.5 do not assign, or not in this form (R64, R65) -/
  | opcode
  /-- operand mode 0b11 (R44) -/
  | mode
  /-- an operand field that breaks its row (R45, R46, R101) -/
  | field
  /-- a guard other than 7 where the row requires 7 -/
  | guard
  /-- U set where the row forbids it (R185) -/
  | uniform
  /-- an illegal modifier value (R45, R69 to R74) -/
  | modifier
  deriving DecidableEq, Repr

/-- Bits [hi:lo] of a word as a number. -/
def bits (w : Word) (hi lo : Nat) : Nat := w.toNat / 2 ^ lo % 2 ^ (hi + 1 - lo)

/-- Bits of a word from `lo`, `n` of them. -/
def fieldOf (w : Word) (lo n : Nat) : BitVec n := BitVec.extractLsb' lo n w

/-- The one-word fields (Table 2.4). -/
def unpack1 (w : Word) : Form1 :=
  { u := w.getLsbD 29, g := fieldOf w 18 3, d := fieldOf w 12 6, a := fieldOf w 6 6, b := fieldOf w 0 6 }

/-- The I-form fields (Table 2.5). -/
def unpackI (w w1 : Word) : FormI :=
  { u := w.getLsbD 29, g := fieldOf w 18 3, d := fieldOf w 12 6, a := fieldOf w 6 6, mod := fieldOf w 0 6, imm := w1 }

/-- A mode code (Table 2.7). -/
def modeOf (x : BitVec 2) : Option Mode :=
  if x = 0#2 then some .direct else if x = 1#2 then some .indexed else if x = 2#2 then some .small else none

/-- The E-form fields (Tables 2.5 and 2.6); none where a mode is 0b11. -/
def unpackE (w w1 : Word) : Option FormE :=
  match modeOf (fieldOf w 16 2), modeOf (fieldOf w 14 2), modeOf (fieldOf w 12 2), modeOf (fieldOf w 10 2) with
  | some md, some ma, some mb, some mc =>
    some { u := w.getLsbD 29, g := fieldOf w 18 3, md := md, xd := fieldOf w1 24 8,
           a := { mode := ma, trap := w.getLsbD 9, f := fieldOf w1 16 8 },
           b := { mode := mb, trap := w.getLsbD 8, f := fieldOf w1 8 8 },
           c := { mode := mc, trap := w.getLsbD 7, f := fieldOf w1 0 8 },
           mod := fieldOf w 0 7 }
  | _, _, _, _ => none

/-- The opcodes that have a one-word form (Tables 3.1 to 3.5). -/
noncomputable def build1 (op : Nat) (f : Form1) : Option Instr :=
  match op with
  | 0x00 => some (.nop f)
  | 0x04 => some (.brx f)
  | 0x06 => some (.callx f)
  | 0x07 => some (.ret f)
  | 0x09 => some (.join f)
  | 0x0A => some (.exit f)
  | 0x0B => some (.yield f)
  | 0x0D => some (.tfence f)
  | 0x0F => some (.bpt f)
  | 0x16 => some (.fmtset f)
  | 0x17 => some (.fmtget f)
  | 0x20 => some (.mov f)
  | 0x22 => some (.srd f)
  | 0x23 => some (.swr f)
  | 0x25 => some (.pmov f)
  | 0x26 => some (.iadd f)
  | 0x27 => some (.isub f)
  | 0x2A => some (.imul f)
  | 0x2B => some (.imulh f)
  | 0x2D => some (.iadd64 f)
  | 0x2E => some (.isub64 f)
  | 0x30 => some (.imin f)
  | 0x31 => some (.imax f)
  | 0x32 => some (.iabs f)
  | 0x33 => some (.ineg f)
  | 0x34 => some (.iadds f)
  | 0x35 => some (.isubs f)
  | 0x36 => some (.idivn f)
  | 0x37 => some (.iremn f)
  | 0x38 => some (.and f)
  | 0x39 => some (.or f)
  | 0x3A => some (.xor f)
  | 0x3B => some (.andn f)
  | 0x3C => some (.orn f)
  | 0x3D => some (.not f)
  | 0x3E => some (.shl f)
  | 0x3F => some (.shr f)
  | 0x40 => some (.sar f)
  | 0x41 => some (.rotl f)
  | 0x45 => some (.popc f)
  | 0x46 => some (.clz f)
  | 0x47 => some (.ctz f)
  | 0x48 => some (.brev f)
  | 0x50 => some (.fadd f)
  | 0x51 => some (.fsub f)
  | 0x52 => some (.fmul f)
  | 0x53 => some (.ffma f)
  | 0x54 => some (.fmin f)
  | 0x55 => some (.fmax f)
  | 0x56 => some (.fabs f)
  | 0x57 => some (.fneg f)
  | 0x58 => some (.fclass f)
  | 0x59 => some (.frnd f)
  | 0x5B => some (.frcp f)
  | 0x5C => some (.frsq f)
  | 0x5D => some (.fsqrt f)
  | 0x5E => some (.fex2 f)
  | 0x5F => some (.flg2 f)
  | 0x60 => some (.fsin f)
  | 0x61 => some (.fcos f)
  | 0x62 => some (.fdiv f)
  | 0x63 => some (.hadd2 f)
  | 0x64 => some (.hmul2 f)
  | 0x65 => some (.hfma2 f)
  | 0x66 => some (.hmin2 f)
  | 0x67 => some (.hmax2 f)
  | 0x68 => some (.badd2 f)
  | 0x69 => some (.bmul2 f)
  | 0x6A => some (.bfma2 f)
  | 0x6B => some (.bmin2 f)
  | 0x6C => some (.bmax2 f)
  | 0x6D => some (.idp4 f)
  | 0x6E => some (.idp4n f)
  | 0x70 => some (.bdp2 f)
  | 0x71 => some (.hdp2 f)
  | 0x79 => some (.mxexp f)
  | 0x90 => some (.ld f)
  | 0x92 => some (.st f)
  | 0x94 => some (.lds f)
  | 0x95 => some (.sts f)
  | 0x9E => some (.clrx f)
  | 0xC1 => some (.sluice f)
  | 0xC5 => some (.pfence f)
  | 0xC7 => some (.pswap f)
  | 0xD8 => some (.snap f)
  | 0xDA => some (.snapdrop f)
  | 0xE2 => some (.migack f)
  | _ => none

/-- The opcodes that have the I form. -/
noncomputable def buildI (op : Nat) (f : FormI) : Option Instr :=
  match op with
  | 0x01 => some (.bra f)
  | 0x02 => some (.brc f)
  | 0x03 => some (.bru f)
  | 0x05 => some (.call f)
  | 0x08 => some (.brloop f)
  | 0x0C => some (.sigchk f)
  | 0x0E => some (.trap f)
  | 0x16 => some (.fmtsetI f)
  | 0x21 => some (.movi f)
  | 0x90 => some (.ldI f)
  | 0x91 => some (.ldAcq f)
  | 0x92 => some (.stI f)
  | 0x93 => some (.stRel f)
  | 0x94 => some (.ldsI f)
  | 0x95 => some (.stsI f)
  | _ => none

/-- The opcodes that have the E form; some rows share an opcode and differ in a modifier (R67). -/
noncomputable def buildE (op : Nat) (f : FormE) : Option Instr :=
  match op with
  | 0x10 => if f.mod == 0 then some (.rteRetry f) else if f.mod == 1 then some (.rteSkip f) else some (.rteEnd f)
  | 0x11 => some (.lget f)
  | 0x12 => some (.lset f)
  | 0x13 => some (.regroup f)
  | 0x14 => some (.gang f)
  | 0x15 => some (.rset f)
  | 0x20 => some (.movE f)
  | 0x22 => some (.srdE f)
  | 0x23 => some (.swrE f)
  | 0x24 => some (.sel f)
  | 0x25 => some (.pmovE f)
  | 0x26 => some (.iaddE f)
  | 0x27 => some (.isubE f)
  | 0x28 => some (.iaddc f)
  | 0x29 => some (.isubb f)
  | 0x2A => some (.imulE f)
  | 0x2B => if f.bit 0 = 0 then some (.imulhE f) else some (.imulhn f)
  | 0x2C => some (.imad f)
  | 0x2D => some (.iadd64E f)
  | 0x2E => some (.isub64E f)
  | 0x2F => some (.lea f)
  | 0x30 => if f.bit 0 = 0 then some (.iminE f) else some (.iminn f)
  | 0x31 => if f.bit 0 = 0 then some (.imaxE f) else some (.imaxn f)
  | 0x32 => some (.iabsE f)
  | 0x33 => some (.inegE f)
  | 0x34 => some (.iaddsE f)
  | 0x35 => some (.isubsE f)
  | 0x36 => some (.idivnE f)
  | 0x37 => some (.iremnE f)
  | 0x38 => some (.andE f)
  | 0x39 => some (.orE f)
  | 0x3A => some (.xorE f)
  | 0x3B => some (.andnE f)
  | 0x3C => some (.ornE f)
  | 0x3D => some (.notE f)
  | 0x3E => some (.shlE f)
  | 0x3F => some (.shrE f)
  | 0x40 => some (.sarE f)
  | 0x41 => some (.rotlE f)
  | 0x42 => some (.bfx f)
  | 0x43 => some (.bfxs f)
  | 0x44 => some (.bfi f)
  | 0x45 => some (.popcE f)
  | 0x46 => some (.clzE f)
  | 0x47 => some (.ctzE f)
  | 0x48 => some (.brevE f)
  | 0x49 => some (.bysel f)
  | 0x4A => some (.lut3 f)
  | 0x4B => if f.bit 0 = 0 then some (.isetp f) else some (.isetpn f)
  | 0x4C => some (.plop f)
  | 0x4D => some (.xmov f)
  | 0x4E => some (.xadd f)
  | 0x50 => some (.faddE f)
  | 0x51 => some (.fsubE f)
  | 0x52 => some (.fmulE f)
  | 0x53 => some (.ffmaE f)
  | 0x54 => some (.fminE f)
  | 0x55 => some (.fmaxE f)
  | 0x56 => some (.fabsE f)
  | 0x57 => some (.fnegE f)
  | 0x58 => some (.fclassE f)
  | 0x59 => some (.frndE f)
  | 0x5A => some (.fsetp f)
  | 0x5B => some (.frcpE f)
  | 0x5C => some (.frsqE f)
  | 0x5D => some (.fsqrtE f)
  | 0x5E => some (.fex2E f)
  | 0x5F => some (.flg2E f)
  | 0x60 => some (.fsinE f)
  | 0x61 => some (.fcosE f)
  | 0x62 => some (.fdivE f)
  | 0x63 => some (.hadd2E f)
  | 0x64 => some (.hmul2E f)
  | 0x65 => some (.hfma2E f)
  | 0x66 => some (.hmin2E f)
  | 0x67 => some (.hmax2E f)
  | 0x68 => some (.badd2E f)
  | 0x69 => some (.bmul2E f)
  | 0x6A => some (.bfma2E f)
  | 0x6B => some (.bmin2E f)
  | 0x6C => some (.bmax2E f)
  | 0x6D => some (.idp4E f)
  | 0x6E => some (.idp4nE f)
  | 0x6F => some (.idp8 f)
  | 0x70 => some (.bdp2E f)
  | 0x71 => some (.hdp2E f)
  | 0x72 => some (.cvt f)
  | 0x73 => some (.cvtsr f)
  | 0x74 => some (.pack f)
  | 0x75 => some (.unpack f)
  | 0x76 => some (.qnt f)
  | 0x77 => some (.dqnt f)
  | 0x78 => some (.qparam f)
  | 0x79 => some (.mxexpE f)
  | 0x7A => some (.mxq f)
  | 0x7B => some (.mxdq f)
  | 0x80 => some (.lxch f)
  | 0x81 => some (.lpoll f)
  | 0x82 => some (.lpeer f)
  | 0x83 => some (.lfold f)
  | 0x84 => some (.flfold f)
  | 0x96 => some (.ldx f)
  | 0x97 => some (.atom f)
  | 0x98 => some (.cas f)
  | 0x99 => some (.atoms f)
  | 0x9A => some (.cass f)
  | 0x9B => some (.red f)
  | 0x9C => some (.redx f)
  | 0x9D => some (.rdx f)
  | 0x9E => some (.clrxE f)
  | 0x9F => some (.fence f)
  | 0xA0 => some (.bcopy f)
  | 0xA1 => some (.bwait f)
  | 0xA2 => some (.pref f)
  | 0xA3 => some (.seal f)
  | 0xA4 => some (.unseal f)
  | 0xC0 => if f.mod == 0 then some (.pmodeStorage f) else some (.pmodeCompute f)
  | 0xC2 => if f.mod == 0 then some (.pcfgAttr f) else some (.pcfgSet f)
  | 0xC3 => some (.scbind f)
  | 0xC4 => some (.pmma f)
  | 0xC6 => some (.pwait f)
  | 0xC8 => if f.mod == 0 then some (.pqueryState f) else if f.mod == 1 then some (.pqueryBusy f) else some (.pqueryPart f)
  | 0xD0 => some (.bar f)
  | 0xD1 => some (.bara f)
  | 0xD2 => some (.sstep f)
  | 0xD3 => some (.enq f)
  | 0xD4 => some (.deq f)
  | 0xD5 => some (.launch f)
  | 0xD6 => some (.evsig f)
  | 0xD7 => some (.evwait f)
  | 0xD9 => if f.mod == 0 then some (.snapqState f) else if f.mod == 1 then some (.snapqCur f)
    else if f.mod == 2 then some (.snapqBase f) else some (.snapqFree f)
  | 0xE0 => if f.low4 = 0 then some (.tlbinvRange f) else if f.low4 = 1 then some (.tlbinvCtx f) else some (.tlbinvAll f)
  | 0xE1 => if f.mod == 0 then some (.biassetDev f) else some (.biassetHost f)
  | 0xE3 => if f.mod == 0 then some (.pmcRd f) else if f.mod == 1 then some (.pmcSel f) else some (.pmcClr f)
  | _ => none

/-- The named checks, in the order of the fields of `DecodeErr`. -/
def checked (i : Instr) : Except DecodeErr Instr :=
  if !i.wfFields then .error .field
  else if !i.wfGuard then .error .guard
  else if !i.wfUniform then .error .uniform
  else if !i.wfMods then .error .modifier
  else .ok i

/-- The instruction of an opcode lookup, checked. -/
def checkedOpt (i : Option Instr) : Except DecodeErr Instr :=
  match i with
  | some i => checked i
  | none => .error .opcode

/-- The opcode of a first word (Table 2.4). -/
def opcodeOf (w : Word) : Nat := bits w 28 21

/-- The second-word type of a kind-01 opcode (R42): I form where the opcode has one, else E form. -/
noncomputable def decodeTwo (w w1 : Word) : Except DecodeErr Instr :=
  match buildI (opcodeOf w) (unpackI w w1) with
  | some i => checked i
  | none =>
    match unpackE w w1 with
    | some f => checkedOpt (buildE (opcodeOf w) f)
    | none => .error .mode

/-- Decode an instruction from its words; the second is read for kind 0b01 only (R33). -/
noncomputable def decodeWords (w w1 : Word) : Except DecodeErr Instr :=
  match bits w 31 30 with
  | 0 => checkedOpt (build1 (opcodeOf w) (unpack1 w))
  | 1 => decodeTwo w w1
  | 2 => .error .codes
  | _ => .error .header

/-- A word from its bytes, byte 0 first (R3). -/
def wordOfBytes (a b c d : Byte) : Word := d ++ c ++ b ++ a

/-- Decode from a list of bytes: the instruction and the bytes after it, or the named reason. -/
noncomputable def decode : List Byte → Except DecodeErr (Instr × List Byte)
  | a :: b :: c :: d :: rest =>
    let w := wordOfBytes a b c d
    if bits w 31 30 = 1 then
      match rest with
      | e :: f :: g :: h :: rest' => (decodeWords w (wordOfBytes e f g h)).map fun i => (i, rest')
      | _ => .error .truncated
    else (decodeWords w 0).map fun i => (i, rest)
  | _ => .error .truncated

/-- The bytes of a number, byte 0 first. -/
def leBytes : Nat → Nat → List Byte
  | 0, _ => []
  | n + 1, v => BitVec.ofNat 8 v :: leBytes n (v / 256)

/-- The instruction that `decode` reads from the bits of an opcode-table row, later words zero. -/
noncomputable def decodeTableWord (nbits w : Nat) : Option Instr :=
  match decode (leBytes 8 (w % 2 ^ nbits)) with
  | .ok (i, _) => some i
  | .error _ => none

/-- The code of a mode (Table 2.7). -/
def Mode.code : Mode → BitVec 2
  | .direct => 0
  | .indexed => 1
  | .small => 2

/-- The first word's common fields: KIND, U, OP, G, and its bits [17:0] (Tables 2.4 and 2.5). -/
def pack (kind : BitVec 2) (u : Bool) (op : Nat) (g : BitVec 3) (low : BitVec 18) : Word :=
  kind ++ BitVec.ofBool u ++ BitVec.ofNat 8 op ++ g ++ low

/-- Bits [17:0] of a one-word instruction. -/
def pack1 (f : Form1) : BitVec 18 := f.d ++ f.a ++ f.b
/-- Bits [17:0] of an I form. -/
def packI (f : FormI) : BitVec 18 := f.d ++ f.a ++ f.mod
/-- Bits [17:0] of an E form. -/
def packE (f : FormE) : BitVec 18 :=
  f.md.code ++ f.a.mode.code ++ f.b.mode.code ++ f.c.mode.code ++
    BitVec.ofBool f.a.trap ++ BitVec.ofBool f.b.trap ++ BitVec.ofBool f.c.trap ++ f.mod
/-- The operand-extension word (Table 2.6). -/
def packX (f : FormE) : Word := f.xd ++ f.a.f ++ f.b.f ++ f.c.f

/-- The words of an instruction; an event has none. -/
def encode (i : Instr) : List Word :=
  match i.info.form with
  | .one f => [pack 0#2 f.u i.info.op f.g (pack1 f)]
  | .imm f => [pack 1#2 f.u i.info.op f.g (packI f), f.imm]
  | .ext f => [pack 1#2 f.u i.info.op f.g (packE f), packX f]
  | .event => []

/-- Decode exactly the words of one instruction. -/
noncomputable def decodeList : List Word → Except DecodeErr Instr
  | [w] => if bits w 31 30 = 1 then .error .truncated else decodeWords w 0
  | [w, w1] => if bits w 31 30 = 1 then decodeWords w w1 else .error .truncated
  | _ => .error .truncated

end Sys2Proof
end

