-- ==== Sys2Proof/Machine/Map.lean ====
section
/-! DEFINITION. Finite maps as plain data: a list of (key, value) pairs with rising keys that lists no entry
equal to the default, so that equal maps are equal lists. Memory, pans, register files and tables are all held so. -/

namespace Sys2Proof.Machine

/-- Sparse data by key; `FMap Byte` is a list of `Host.Cell`. -/
abbrev FMap (α : Type) := List (Nat × α)

/-- The value at key `k`; `d` where nothing is listed. -/
def FMap.get {α : Type} (d : α) : FMap α → Nat → α
  | [], _ => d
  | (j, v) :: m, k => if j = k then v else FMap.get d m k

/-- Take every entry at `k` out. -/
def FMap.erase {α : Type} (m : FMap α) (k : Nat) : FMap α := m.filter fun e => e.1 ≠ k

/-- Put the entry at `k`, keeping the keys rising. -/
def FMap.put {α : Type} : FMap α → Nat → α → FMap α
  | [], k, v => [(k, v)]
  | (j, w) :: m, k, v =>
    if k < j then (k, v) :: (j, w) :: m else if j = k then (k, v) :: m else (j, w) :: FMap.put m k v

/-- Write `v` at `k`: writing the default removes the entry. -/
def FMap.set {α : Type} [DecidableEq α] (d : α) (m : FMap α) (k : Nat) (v : α) : FMap α :=
  if v = d then FMap.erase m k else FMap.put m k v

/-- The value at key `k` where the map has no default. -/
def FMap.find {α : Type} : FMap α → Nat → Option α
  | [], _ => none
  | (j, v) :: m, k => if j = k then some v else FMap.find m k

/-- Every listed key is at least `n`, and the keys rise strictly. -/
def FMap.risingFrom {α : Type} : Nat → FMap α → Bool
  | _, [] => true
  | n, (k, _) :: m => decide (n ≤ k) && FMap.risingFrom (k + 1) m

/-- The canonical form: rising keys and no entry equal to the default. -/
def FMap.wf {α : Type} [DecidableEq α] (d : α) (m : FMap α) : Bool :=
  FMap.risingFrom 0 m && m.all fun e => decide (e.2 ≠ d)

/-- The canonical form of memory: rising addresses and no byte equal to 0, which an unlisted address reads as. -/
def Memory.wf (m : FMap Byte) : Bool := FMap.wf 0#8 m

/-- Insert `x` in a list that is sorted by `lt`, after the entries it does not precede. -/
def insertBy {α : Type} (lt : α → α → Bool) (x : α) : List α → List α
  | [] => [x]
  | y :: ys => if lt x y then x :: y :: ys else y :: insertBy lt x ys

/-- A stable sort by `lt`, by structural recursion. -/
def sortBy {α : Type} (lt : α → α → Bool) (l : List α) : List α :=
  l.foldl (fun acc x => insertBy lt x acc) []

/-- The lanes 0 to 31 in ascending order (R21). -/
def lanes32 : List Nat := List.range 32

/-- The lanes of a mask in ascending order. -/
def maskLanes (m : Mask) : List Nat := lanes32.filter fun l => m.getLsbD l

/-- The mask of one lane. -/
def bitMask (l : Nat) : Mask := (1#32) <<< l

/-- The mask of a list of lanes. -/
def maskOf (ls : List Nat) : Mask := ls.foldl (fun m l => m ||| bitMask l) 0#32

/-- The lowest lane of a mask. -/
def lowestLane (m : Mask) : Option Nat := (maskLanes m).head?

/-- Bytes of a value, byte 0 first (R3). -/
def toBytes : Nat → Nat → List Byte
  | 0, _ => []
  | n + 1, v => BitVec.ofNat 8 v :: toBytes n (v / 256)

/-- The value of bytes, byte 0 first (R3). -/
def ofBytes : List Byte → Nat
  | [] => 0
  | b :: bs => b.toNat + 256 * ofBytes bs

/-- The bytes at keys `a` to `a + n - 1`. -/
def bytesAt (m : FMap Byte) (a n : Nat) : List Byte :=
  (List.range n).map fun i => FMap.get 0#8 m (a + i)

/-- Write consecutive bytes from key `a`. -/
def putBytes (m : FMap Byte) (a : Nat) : List Byte → FMap Byte
  | [] => m
  | b :: bs => putBytes (FMap.set 0#8 m a b) (a + 1) bs

/-- Sign extension of the low `w` bits, exactly (Table 0.2). -/
def sextN (v w : Nat) : Int :=
  let x := v % 2 ^ w
  if 2 * x < 2 ^ w then (x : Int) else (x : Int) - (2 ^ w : Nat)

/-- `sat` of Table 0.2. -/
def satI (x lo hi : Int) : Int := if x < lo then lo else if x > hi then hi else x

/-- The low `w` bits of the two's complement form of `x` (R8). -/
def wrapI (x : Int) (w : Nat) : Nat := (x % ((2 ^ w : Nat) : Int)).toNat

end Sys2Proof.Machine
end

