-- ==== Sys2Proof/Machine/State.lean ====
section
/-! DEFINITION. The state of the package as plain data, holding every piece of state that the manual gives the machine
(INVENTORY.md, State), what is in flight, and the model's own inputs; and the state after reset. -/

namespace Sys2Proof.Machine

/-- Why a step of the model can stop. -/
inductive Fault where
  /-- Raised by a code instruction's meaning when it is run with no split that issues it: `cur` names no resident group
  and split. No step of the model reaches this. Safe. -/
  | noIssuer
  deriving DecidableEq, Repr

/-- Why the model refuses an instruction. -/
inductive Refusal where
  /-- Raised by an arm of `exec` whose instruction has no meaning yet. Safe. -/
  | notModelled (mnemonic : String)
  deriving DecidableEq, Repr

/-- A thread's registers (04_register_state.md R76, Table 4.1). -/
structure Thread where
  /-- v-registers; an unlisted one holds 0 (R78) -/
  v : FMap Word := []
  /-- bit r: register r is empty, its full bit is 0 (R52, R79) -/
  empty : BitVec 128 := 0
  /-- x0 to x3 (R82) -/
  x : FMap Byte := []
  /-- p0 to p6; p7 reads 1 and has no storage (R85) -/
  p : BitVec 7 := 0
  tid : Word := 0
  /-- the workgroup in which the thread was created (R465) -/
  wg : Nat := 0
  deriving DecidableEq, Repr

/-- A reconvergence stack entry (08 R175, Table 8.3). -/
structure StackEntry where
  resume : DWord
  join : DWord
  dmask : Mask
  wmask : Mask
  fmt : Word
  deferred : Bool
  /-- requests from this number on are those of the paths of the divergence (14 R322): the model's own -/
  since : Nat := 0
  deriving DecidableEq, Repr

/-- A join record (R174, Table 8.2); OUTER is the next record of the chain. -/
structure JoinRecord where
  j : DWord
  fmt : Word
  members : BitVec 4
  arrived : BitVec 4
  wmask : Mask
  outer : Option Nat
  deriving DecidableEq, Repr

/-- The clause a split is in: its header's address, the instructions left, CLASS (02 R36 to R38). -/
structure Clause where
  header : DWord
  left : Nat
  cls : Nat
  deriving DecidableEq, Repr

/-- A row that a `pmma` computes for a lane: its row scale and its accumulator registers. -/
structure TicketRow where
  lane : Nat
  rho : Word
  regs : List Nat
  deriving DecidableEq, Repr

/-- A `pmma` that has arrived at its latch: what the rendezvous compares, and what the operation takes (12 R282). -/
structure Ticket where
  a : Word
  md : Mode
  xd : Byte
  slot : Nat
  nsel : Nat
  tok : Nat
  rows : List TicketRow
  w0 : Word
  w1 : Word
  /-- UV of its uniform operand, and whether it counts as a uniform instruction -/
  uv : Nat
  uni : Bool
  deriving DecidableEq, Repr

/-- What a split waits for (01 R27). -/
inductive Wait where
  /-- nothing: the split is Ready, or it issues -/
  | ready
  /-- its next clause's WAIT or STALL (R24) -/
  | held
  /-- registers to fill: lane and storage register (R53) -/
  | full (regs : List (Nat × Nat))
  /-- a token below 255 (R91) -/
  | tokenRoom (k : Nat)
  /-- a token at zero (R288, R314) -/
  | tokenZero (k : Nat)
  /-- requests that must be performed, and registers or loads that must have their value (R309, R287) -/
  | requests (ids : List Nat)
  /-- SFU results (R209) -/
  | results (ids : List Nat)
  /-- named barriers: workgroup, barrier, phase arrived in (R387) -/
  | barrier (tickets : List (Nat × Nat × Nat))
  /-- the sluice of the workgroup, with the instruction's words (R273) -/
  | sluice (w0 w1 : Word)
  /-- the superstep barrier of a launch: cohorts and the phase arrived in (R389) -/
  | superstep (launch : Nat) (tickets : List (Nat × Nat))
  /-- the regroup barrier, with n, each lane's key and the instruction's words (R193 to R195) -/
  | regroup (n : Nat) (keys : List (Nat × Nat)) (w0 w1 : Word)
  /-- the rendezvous latch of a `pmma` (R282) -/
  | latch (t : Ticket)
  /-- an event counter: its address, threshold and scope (R398) -/
  | event (va : DWord) (threshold : Nat) (scope : Nat)
  /-- `snap` at the barrier unit: its descriptor's address and bytes, and where d goes (R369) -/
  | snap (va : DWord) (desc : List Byte) (dst : List (Nat × Nat))
  /-- the writes to the descriptor of its `snap`, which the barrier unit has served (R369) -/
  | snapEnd (dst : List (Nat × Nat))
  /-- arrived at a join record (R177) -/
  | record (id : Nat)
  /-- parked on PAGE or a light fault, the park's key (R203, R406) -/
  | parked (park : Nat)
  /-- request slots of the core's load-store unit (01 R15) -/
  | slots (n : Nat)
  /-- lines that their homes cannot serve now, each with whether it is to be written -/
  | lines (ls : List (Nat × Bool))
  /-- room in the team's queue store for records of these sizes (R391) -/
  | queueRoom (sizes : List Nat)
  /-- bias flips of pages to complete, the count and where it is written: lane and register (R415) -/
  | flips (toHost : Bool) (pages : List Nat) (count : Nat) (dst : List (Nat × Nat))
  /-- the group has begun to yield (R218) -/
  | yielding
  /-- a precise fault that its wait has met: taken when the group can enter its handler (R205) -/
  | fault (code detail : Nat) (info : DWord) (w0 w1 : Word)
  deriving DecidableEq, Repr

/-- What a parked instruction keeps for its replay (02 R54, 04 R81): the RRB of its issue, and the destinations, as lane
and registers, that its unfinished lanes leave empty. -/
structure Replay where
  rrb : Nat
  dst : List (Nat × List Nat)
  /-- the first request of the instruction; 0 while it has none -/
  instr : Nat
  deriving DecidableEq, Repr

/-- A split (R86, R384). Key 4 of a group's splits is the handler split (R205). -/
structure Split where
  pc : DWord
  active : Mask
  fmt : Word := 0
  sig : Word := 0xFFFFFFFF
  /-- top entry first -/
  stack : List StackEntry := []
  chain : Option Nat := none
  clause : Option Clause := none
  wait : Wait := .ready
  /-- where the split goes on when its wait ends: none re-executes the instruction at PC -/
  resume : Option DWord := none
  /-- the instruction at PC has been issued: folded into SIG and counted in its clause (R213) -/
  issued : Bool := false
  /-- a park waits at PC, or its replay is due -/
  replay : Option Replay := none
  /-- a `tfence` at PC waits (04 R90, 09 R209): the flags set at its issue, those that splits have set since until another
  `tfence` began to wait, and those of the results that it waits for -/
  seen : Option Word := none
  cls : Nat := 0
  pass : Nat := 0
  rt : Nat := 0
  /-- the cycle in which the previous clause ended (R24) -/
  clauseEnd : Nat := 0
  /-- lanes that a retried instruction still covers, where a park finished others (R203, R211) -/
  only : Option Mask := none
  deriving DecidableEq, Repr

/-- Handler mode: what the device keeps until `rte` (09 R205, R211; 04 R96). -/
structure Handler where
  split : Nat
  lane : Nat
  pc : DWord
  /-- address after the faulting instruction, for the skip choice -/
  next : DWord
  /-- unfinished lanes when HREP is 1 -/
  only : Option Mask
  flags : Option Word := none
  ten : Option Word := none
  rrb : Option Nat := none
  sig : Option Word := none
  fmt : Option Word := none
  deriving DecidableEq, Repr

/-- A fault found after issue that a token holds (12 R286, 13 R315). -/
structure HeldFault where
  tok : Nat
  code : Nat
  detail : Nat
  info : DWord
  deriving DecidableEq, Repr

/-- Group states of Table 1.7 that the splits' own states do not show. A retired group is no longer listed. -/
inductive Phase where
  | placed
  | running
  | yielding
  | ripped
  | draining
  deriving DecidableEq, Repr

/-- A resident group (R76). -/
structure Group where
  launch : Nat
  ctx : Nat
  wgpos : Nat
  lanes : FMap Thread
  dead : Mask
  splits : FMap Split
  records : FMap JoinRecord := []
  flags : Word := 0
  /-- the flags that events have set in the present cycle (R90) -/
  recent : Word := 0
  /-- the flags that the group's splits, not completions, have set since a `tfence` last began to wait (R90) -/
  sync : Word := 0
  ten : Word := 0
  gang : Word := 0
  rrb : Nat := 0
  /-- tokens t0 to t7 (R91) -/
  tok : FMap Nat := []
  /-- h0 to h15 (R93) -/
  h : FMap Word := []
  handler : Option Handler := none
  keyu : Bool := true
  recNo : Word := 0
  nrec : Word := 0
  phase : Phase := .running
  held : List HeldFault := []
  deriving DecidableEq, Repr

/-- The node workgroup's node, forming team and sequence number, and the records of its batch (17 R393). -/
structure NodeId where
  node : Nat
  team : Nat
  seq : Nat
  count : Nat
  deriving DecidableEq, Repr

/-- A resident workgroup (18). -/
structure Wg where
  launch : Nat
  ctx : Nat
  core : Nat
  slot : Nat
  wgid : Word
  x : Word := 0
  y : Word := 0
  z : Word := 0
  stage : Nat := 0
  node : Option NodeId := none
  /-- storage and compute pans, ascending physical numbers (R232) -/
  storage : List Nat := []
  compute : List Nat := []
  /-- arrivals and phase of each named barrier (R387) -/
  barCount : FMap Nat := []
  barPhase : FMap Nat := []
  /-- requests that an arrival at a barrier orders before its release (R327) -/
  barReqs : FMap (List Nat) := []
  /-- the record of ATTR of each compute pan in state 1, 2 or 3 (R271) -/
  attr : FMap Byte := []
  /-- cycle at which pan zeroing ends, while it runs (R237) -/
  zeroing : Option Nat := none
  /-- cycle at which the sluice completes, once every live thread has arrived (R273) -/
  sluiceAt : Option Nat := none
  deriving DecidableEq, Repr

/-- A track (R22, R24). -/
structure Track where
  /-- the group and split that issue -/
  issuing : Option (Nat × Nat) := none
  busyUntil : Nat := 0
  deriving DecidableEq, Repr

/-- A block of the scale cache and its tags (11 R265, 12 R277). -/
structure ScaleBlock where
  id : Nat
  block : Nat
  table : DWord
  ncol : Nat
  ctx : Nat
  data : List Byte
  deriving DecidableEq, Repr

/-- A group taken off a core by a pre-emption (09 R218, R219), with its regroup set. -/
structure SavedGroup where
  gid : Nat
  /-- the group identifier under which its requests in flight stand while it is away -/
  key : Nat
  group : Group
  /-- the ripcord saved it, not a yield -/
  forced : Bool
  set : Nat × Option Nat
  deriving DecidableEq, Repr

/-- A workgroup taken off a core (R220): its pan images with their poisoned rows, the compute pans that have one, the
compute pans in compute mode or requested into it, and its live threads. -/
structure SavedWg where
  key : Nat
  wg : Wg
  images : List (List Byte × List Nat)
  saved : Nat
  mode : Nat
  live : Nat
  deriving DecidableEq, Repr

/-- What the device keeps of an image until its units are restored, because Tables 9.5 to 9.9 do not hold it: the place of
each split in its clause and what it waits for, which groups yielded, the handler split, the workgroups' barrier phases. -/
structure KeptImage where
  /-- physical address of the image -/
  base : Nat
  core : Nat
  clock : Nat
  ctx : Nat
  groups : List SavedGroup
  wgs : List SavedWg
  /-- offset in the image of each unit's first group record -/
  offs : List Nat
  /-- unit entries restored -/
  restored : List Nat := []
  deriving DecidableEq, Repr

/-- A regroup shuffle that has started (08 R195, R198). The groups of one node form a launch of their own (17 R393). -/
structure Shuffle where
  launch : Nat
  node : Option Nat
  due : Nat
  deriving DecidableEq, Repr

/-- A line that the L1 holds, and the L1 pan that holds it: its way (10 R241). -/
structure L1Line where
  pan : Nat
  line : Nat
  deriving DecidableEq, Repr

/-- A core (R15, R97). -/
structure CoreSt where
  groups : FMap Group := []
  tracks : FMap Track := []
  pmode : Word := 0
  pslu : DWord := 0
  pl1 : Word := 0
  /-- owner of each pan; an unlisted pan has owner 0xFF (R97) -/
  pown : FMap Nat := []
  /-- pan bytes at 16384 * pan + offset -/
  pans : FMap Byte := []
  yreqV : Bool := false
  yreqCtx : Nat := 0
  /-- the cycle of the request that is pending (R99) -/
  yreqAt : Nat := 0
  deadline : Nat := 50000
  /-- the value that DEADLINE reloads (R99) -/
  deadlineSet : Nat := 50000
  saveBase : DWord := 0
  saveStat : Word := 0
  pmcSel : FMap Word := []
  pmcCnt : FMap DWord := []
  pmcCtx : DWord := 0
  /-- the events of the present cycle, counted at its end: code, number, context (19 R423) -/
  pmcNow : List (Nat × Nat × Option Nat) := []
  /-- PMCSEL i as i and PMCCNT i as 8 + i that the owner has written in the present cycle (R423) -/
  pmcOwner : List Nat := []
  /-- poisoned rows of pans, as 256 * pan + row (19 R426) -/
  badRows : List Nat := []
  /-- cells of pans in compute mode that an error has flipped, as 131072 * pan + bit (R426) -/
  flipped : List Nat := []
  scale : List ScaleBlock := []
  /-- lines held by the L1, the oldest first (10 R241) -/
  l1 : List L1Line := []
  /-- the core's sharer signature at each L2 slice of its die, by slice number (R243) -/
  sigs : FMap (BitVec 512) := []
  /-- 128-byte blocks held by the instruction cache, by PA / 128, the oldest first (10 R229) -/
  icache : List Nat := []
  shuffles : List Shuffle := []
  saved : List SavedGroup := []
  savedWgs : List SavedWg := []
  /-- a context fault stopped the pending save (R221) -/
  saveFault : Bool := false
  deriving DecidableEq, Repr

/-- A kernel header (02 R56, Table 2.11). -/
structure Header where
  entry : Nat := 0
  regs : Nat := 1
  rotBase : Nat := 0
  rotSize : Nat := 0
  barriers : Nat := 0
  scratch : Nat := 0
  cpans : Nat := 0
  lpans : Nat := 0
  gangMax : Nat := 1
  stages : Nat := 1
  handler : Nat := 0
  ysave : Nat := 0
  argBytes : Nat := 0
  ydiscard : Nat := 0
  ten : Word := 0
  sigMode : Bool := false
  dictN : Nat := 0
  dict : DWord := 0
  nodes : DWord := 0
  nodeN : Nat := 0
  deriving DecidableEq, Repr

/-- A node table entry (17 R390, Table 17.5). -/
structure NodeEntry where
  entry : Nat
  recSize : Nat
  batch : Nat
  maxWait : Nat
  deriving DecidableEq, Repr

/-- A launch record's fields (17 R377, Table 17.2). -/
structure LaunchRec where
  version : Nat
  prio : Nat
  sscope : Nat
  kernel : DWord
  gx : Nat
  gy : Nat
  gz : Nat
  threads : Nat
  stages : Nat
  ctx : Nat
  cohort : Nat
  balthr : Nat
  ndep : Nat
  args : DWord
  done : DWord
  spillBase : DWord
  spillSize : Nat
  deps : List (DWord × DWord)
  /-- every reserved byte is zero and entries at or above NDEP are zero -/
  reservedZero : Bool
  deriving DecidableEq, Repr

/-- Where an accepted launch stands. -/
inductive LaunchSt where
  /-- header, dictionary or node table still to be read: a read waits on PAGE (R376) -/
  | reading
  /-- dependences not all met; the cycle in which they came to hold -/
  | pending (heldSince : Option Nat)
  | running
  /-- killed, STATUS 7 still to be written after kill-complete -/
  | killed
  deriving DecidableEq, Repr

/-- A workgroup that a pre-emption has taken off its core and that is not restored yet: what identifies it, its cohort and
its live threads (R389, R379). -/
structure AwayWg where
  key : Nat
  wgid : Word
  node : Option NodeId
  cohort : Nat
  live : Nat
  deriving DecidableEq, Repr

/-- An accepted launch (R376 to R390). -/
structure Launch where
  /-- physical address of the record -/
  addr : Nat
  prio : Nat
  lr : LaunchRec
  hdr : Header := {}
  dict : List (Word × Word) := []
  nodeTab : List NodeEntry := []
  startDie : Nat := 0
  accept : Nat := 0
  st : LaunchSt := .running
  /-- superstep arrivals and phase of each cohort (R389) -/
  ssCount : FMap Nat := []
  ssPhase : FMap Nat := []
  ssReqs : FMap (List Nat) := []
  /-- grid workgroups dealt and not yet placed or retired -/
  gridLeft : Nat := 0
  away : List AwayWg := []
  quiesced : Bool := false
  deriving DecidableEq, Repr

/-- Work that waits in a distributor (R381, R382): the workgroups placed together, as coordinate and stage. -/
structure WaitUnit where
  launch : Nat
  die : Nat
  wgs : List (Nat × Nat)
  since : Nat
  deriving DecidableEq, Repr

/-- A restore that waits in a distributor (17 R382): unit `index` of the image at `base`, the core that is to take it, and
what the unit needs: groups, workgroups, compute pans in compute mode. -/
structure RestoreReq where
  base : Nat
  index : Nat
  core : Nat
  since : Nat
  launch : Nat
  /-- the node of its workgroups, which form a launch of their own for `regroup` (R393) -/
  node : Option Nat
  ng : Nat
  nw : Nat
  comp : Nat
  /-- the identifiers of its groups' stores in flight -/
  keys : List Nat
  /-- the lowest WGID of the unit -/
  wgid : Nat
  deriving DecidableEq, Repr

/-- A node record (R391): its bytes and the cycle at which it entered its FIFO. -/
structure NodeRec where
  bytes : List Byte
  entered : Nat
  /-- the 8-byte words of the team's share of the spill area that hold it; none where it lies in the team's store -/
  spilled : List Nat := []
  deriving DecidableEq, Repr

/-- A node FIFO, oldest record first. -/
structure Fifo where
  team : Nat
  launch : Nat
  node : Nat
  recs : List NodeRec
  /-- the oldest record has waited MAXWAIT cycles -/
  expired : Bool := false
  deriving DecidableEq, Repr

/-- Records in transit between two queues (R395). -/
structure Transit where
  id : Nat
  team : Nat
  launch : Nat
  node : Nat
  /-- with the room of the neighbour's that each takes -/
  recs : List NodeRec
  deriving DecidableEq, Repr

/-- One thread's access of a memory request: its bytes are relative to `pa`. -/
structure Acc where
  lane : Nat
  va : DWord
  pa : Nat
  n : Nat
  /-- store bytes, each with its offset, without those that a higher lane of the instruction writes (R296) -/
  bytes : List (Nat × Byte) := []
  /-- operand, and the new value of a compare and swap -/
  op1 : Nat := 0
  op2 : Nat := 0
  /-- the page's entry is S-exempt (16 R364) -/
  sx : Bool := false
  /-- the page's cache policy; 2, the home slice only, for an R page -/
  cp : Nat := 0
  result : Nat := 0
  performed : Bool := false
  /-- the data returned is an uncorrectable error for this lane (R216, R347) -/
  poison : Bool := false
  /-- a pan refused the lane: PR is set when its data is written (04 Table 4.4) -/
  pr : Bool := false
  /-- the thread's workgroup (14 Table 14.1) -/
  wg : Nat := 0
  /-- the thread's cycle, in which a scratch access is performed (12 R275) -/
  due : Nat := 0
  deriving DecidableEq, Repr

/-- What a request does. -/
inductive ReqKind where
  | load
  | store
  | atom (op : Nat)
  | cas
  | red (op : Nat)
  | redx
  | rdx
  | clrx
  /-- the add of `evsig`, of DONE or of EVENT -/
  | signal
  deriving DecidableEq, Repr

/-- A memory request handed to the load-store unit (13, 14). -/
structure Req where
  id : Nat
  kind : ReqKind
  ctx : Nat
  core : Nat
  gid : Nat
  launch : Nat
  /-- the split that issued it; 4 for the handler -/
  split : Nat
  /-- splits of the group for which the request is earlier in program order (R322) -/
  splits : BitVec 5
  /-- those among them that run another path of a divergence now, whose events it does not precede -/
  aside : BitVec 5 := 0
  /-- the first request of its instruction (R322) -/
  instr : Nat := 0
  /-- 0 relaxed, 1 acquire, 2 release, 3 both (Table 3.9) -/
  order : Nat
  scope : Nat
  /-- the request is to scratch: each access is performed in its thread's cycle -/
  scratch : Bool := false
  accs : List Acc
  /-- lane, destination registers, and the accessing lane (R297) -/
  dst : List (Nat × List Nat × Nat)
  /-- 0, or the width to which the value is extended: 8 or 16; signed -/
  ext : Nat := 0
  signed : Bool := false
  /-- the workgroups of which its agent holds a live thread (14 Table 14.1) -/
  wgs : List Nat := []
  /-- a write later in program order has been performed before this request: no cut may come between them (14 R335) -/
  overtaken : Bool := false
  /-- TIME at which its accesses outside this device were sent (15 R350) -/
  sent : Option Nat := none
  deriving DecidableEq, Repr

/-- A release of a scope narrower than device that has been performed before what it orders: its bytes, its agent, its thread's
workgroup and those of its agent, and the requests that come before it (14 R323, R325, R331). -/
structure EarlyRel where
  pa : Nat
  n : Nat
  core : Nat
  gid : Nat
  wg : Nat
  wgs : List Nat
  scope : Nat
  ids : List Nat
  deriving DecidableEq, Repr

/-- Writes of the device among which the order of their making is kept. -/
inductive Chan where
  /-- the owner's fault queue (19 R427) -/
  | faultQueue
  /-- the page-fault ring (18 R407) -/
  | pageFaults
  /-- a die's migration ring (15 R356) -/
  | migration (die : Nat)
  /-- a launch record or an event counter -/
  | word (pa : Nat)
  /-- a line of a context to which the device writes: a snapshot descriptor, with the EVENT after its STATUS (16 R372), or a
  spill area (17 R391) -/
  | descriptor (ctx : Nat) (va : DWord)
  deriving DecidableEq, Repr

/-- What follows a write of the device once it has been performed. -/
inductive Follow where
  | nothing
  /-- FQHEAD goes forward -/
  | fqHead
  /-- PFHEAD goes forward -/
  | pfHead
  /-- MIGHEAD goes forward -/
  | migHead (die : Nat)
  /-- 1 is added to the counter at an EVENT or DONE address -/
  | signal (ctx : Nat) (va : DWord)
  /-- a `snap` completes: its split gets its value (16 R369) -/
  | snapDone (core gid split v : Nat)
  deriving DecidableEq, Repr

/-- A write that the device itself makes, until it is performed at its home. -/
structure DevWrite where
  id : Nat
  /-- the context with whose kill it is discarded (09 R227) -/
  ctx : Option Nat := none
  chan : Chan
  pa : Nat
  /-- the virtual address through which a context's memory is written (18 R463) -/
  va : DWord := 0
  /-- its page's entry is S-exempt (16 R364) -/
  sx : Bool := false
  bytes : List Byte
  /-- the bytes are added to the word that is there -/
  add : Bool := false
  follow : Follow := .nothing
  deriving DecidableEq, Repr

/-- A pending class-F result (07 R153). -/
structure SfuRes where
  id : Nat
  core : Nat
  gid : Nat
  splits : BitVec 5
  lane : Nat
  reg : Nat
  value : Word
  flags : Word
  due : Nat
  deriving DecidableEq, Repr

/-- What a parked access of a split is. -/
inductive ParkKind where
  /-- an instruction at the split's PC -/
  | instruction
  /-- the fetch of the word at the split's PC -/
  | fetch
  deriving DecidableEq, Repr

/-- Who waits for a page (18 R406 to R408, R463). -/
inductive Waiter where
  | split (core gid split : Nat) (kind : ParkKind) (lanes : Mask)
  | copy (id : Nat)
  | fill (pmma block : Nat)
  /-- the launch unit's reads of a launch -/
  | launchRead (launch : Nat)
  /-- an EVENT or DONE add at a virtual address of a context -/
  | event (va : DWord)
  /-- a write to a snapshot descriptor or a spill area, and what follows it -/
  | write (va : DWord) (bytes : List Byte) (then_ : Follow)
  deriving DecidableEq, Repr

/-- A parked access: its waiter, its pages and what each waits for. -/
structure Park where
  id : Nat
  who : Waiter
  ctx : Nat
  /-- pages, each with the KIND bits of Table 18.3 and whether it is a light fault -/
  pages : List (DWord × Nat × Bool)
  core : Nat
  /-- every wait has ended: the replay is due -/
  due : Bool := false
  deriving DecidableEq, Repr

/-- An outstanding fault record (R407, R408). -/
structure FaultRec where
  seq : Nat
  ctx : Nat
  va : DWord
  core : Nat
  /-- TIME at which the frame-exhaustion timer expires -/
  timer : Option Nat := none
  deriving DecidableEq, Repr

/-- A fault that waits because the ring is full. -/
structure Unposted where
  ctx : Nat
  va : DWord
  kind : Nat
  core : Nat
  deriving DecidableEq, Repr

/-- A line that `pref` has requested and that its home cannot serve yet (13 R317): by core, context and address. -/
structure Prefetch where
  core : Nat
  ctx : Nat
  va : DWord
  line : Nat
  /-- it goes into the core's L1 too -/
  l1 : Bool
  deriving DecidableEq, Repr

/-- A bulk copy (13 R310 to R316). -/
structure Copy where
  id : Nat
  ctx : Nat
  core : Nat
  gid : Nat
  tok : Nat
  scope : Nat
  /-- workgroups that hold the scratch sides; none for a destination that has retired (R315) -/
  srcWg : Nat
  dstWg : Option Nat
  dir : Nat
  esz : Nat
  tr : Nat
  x : Nat
  y : Nat
  z : Nat
  src : DWord
  srow : Int
  splane : Int
  dst : DWord
  drow : Int
  dplane : Int
  /-- pans of either scratch side whose state at issue was not 0, as workgroup and compute index (R275) -/
  refused : List (Nat × Nat)
  /-- requests po-before the copy (R313) -/
  after : List Nat
  /-- compute pans whose state at issue was 0 and that an access of the copy may reach, as workgroup and index (R273) -/
  reaches : List (Nat × Nat) := []
  /-- elements already moved -/
  moved : Nat := 0
  /-- a pan has refused an access: PR is set at the completion (R275) -/
  pr : Bool := false
  /-- the line that its next access waits for -/
  waits : Option Nat := none
  /-- the lines of its last read and of its last write -/
  readLine : Option Nat := none
  writeLine : Option Nat := none
  /-- bytes written of lines that it has not written whole -/
  filled : FMap (BitVec 64) := []
  /-- what a peer or the host has answered for the copy's sides outside this device: source bytes in element order -/
  outside : Option (List Byte) := none
  /-- the answer carries poison -/
  outsideBad : Bool := false
  /-- TIME at which its request outside this device was sent (15 R350) -/
  sent : Option Nat := none
  deriving DecidableEq, Repr

/-- A row of a `pmma` that has a thread: row, group, lane, row scale and accumulator registers. -/
structure PmmaRow where
  row : Nat
  gid : Nat
  lane : Nat
  rho : Word
  regs : List Nat
  acc : List Word
  deriving DecidableEq, Repr

/-- An issued `pmma` (12 R279 to R286). -/
structure Pmma where
  id : Nat
  ctx : Nat
  core : Nat
  wg : Nat
  /-- members: group and token -/
  members : List (Nat × Nat)
  rows : List PmmaRow
  fmt : Word
  n : Nat
  desc : List Byte
  /-- physical pans of the set, in chain order -/
  set : List Nat
  /-- bit 0 the low half, bit 1 the high half -/
  halves : Nat
  mirrored : Bool
  /-- the cycle of its issue and its members' lowest WGPOS: the order of issue (R282, R283) -/
  at_ : Nat
  pos : Nat
  /-- scale blocks that it has taken, by block number (11 R265) -/
  got : FMap (List Byte) := []
  /-- cycle at which conversion and writes end, once it has its halves -/
  due : Option Nat
  /-- TIME at which its request for a scale block outside this device was sent (15 R350) -/
  sent : Option Nat := none
  deriving DecidableEq, Repr

/-- A page-table entry held by a TLB (18 R404). Level 0: a core's L1 TLB; 1: a team's; 2: a die's. -/
structure TlbEntry where
  level : Nat
  unit : Nat
  ctx : Nat
  /-- first virtual page number and number of 4 KiB pages -/
  vpn : Nat
  pages : Nat
  /-- the leaf entry -/
  pte : DWord
  deriving DecidableEq, Repr

/-- A shadow frame (16 R364 to R366): where it lies, by PA / 4096, the page and the generations it serves. Its bytes lie in
memory. -/
structure Shadow where
  frame : Nat
  page : Nat
  lo : Nat
  hi : Nat
  /-- lines of the page that were poisoned -/
  bad : List Nat := []
  deriving DecidableEq, Repr

/-- A drain in progress (R373): next page rank per engine, and the pages included, ascending. -/
structure Drain where
  gen : Nat
  /-- pages still to pass, by engine -/
  left0 : List Nat
  left1 : List Nat
  /-- included pages in ascending address (incremental drains) -/
  included : List Nat
  deriving DecidableEq, Repr

/-- A generation that a `snap` made (R369 to R373): its descriptor and options. -/
structure GenRec where
  gen : Nat
  ctx : Nat
  va : DWord
  status : Nat
  abandon : Bool
  incr : Bool
  autodrop : Bool
  baseGen : Nat
  rbase : Nat
  rlen : Nat
  dest : Nat
  index : Nat
  event : DWord
  drained : Nat := 0
  errPages : Nat := 0
  /-- pages that the spool has drained -/
  passed : List Nat := []
  /-- its context has been killed: nothing is written for it any more (09 R227) -/
  mute : Bool := false
  deriving DecidableEq, Repr

/-- A `snap` at the barrier unit whose group has been killed (R369): context, descriptor address and bytes. -/
structure Orphan where
  ctx : Nat
  va : DWord
  desc : List Byte
  mute : Bool := false
  deriving DecidableEq, Repr

/-- A seal table entry (18 R417). -/
structure SealEntry where
  ctx : Nat
  start : DWord
  granules : Nat
  deriving DecidableEq, Repr

/-- Launch rings of a class (17 R375, Table 17.1). -/
structure Ring where
  obase : DWord := 0
  osize : Word := 0
  owptr : Word := 0
  orptr : Word := 0
  dbase : DWord := 0
  dsize : Word := 0
  dwptr : Word := 0
  drptr : Word := 0
  /-- the device ring is next in the alternation (R376) -/
  devNext : Bool := false
  deriving DecidableEq, Repr

/-- A C-die's registers, access counters and condition (15, 19). -/
structure Die where
  migBase : DWord := 0
  migSize : Word := 0
  migHead : Word := 0
  migTail : Word := 0
  migThr : Word := 0x000040C0
  migEpoch : Word := 1000
  migDrop : Word := 0
  migSeq : Nat := 0
  /-- lines held by the die's L2, the oldest first (10 R245) -/
  l2 : List Nat := []
  /-- TIME since which the die has had no handshake with a management processor (R345) -/
  lost : Option Nat := none
  /-- TIME of the last halving (R355) -/
  epochAt : Nat := 0
  /-- access counter of (region, die) at 8 * region + die (R355) -/
  access : FMap Nat := []
  /-- disarmed pairs, same key (R356) -/
  disarmed : FMap Bool := []
  eccCor : Word := 0
  eccUnc : Word := 0
  mirRetry : Word := 0
  deadLane : Word := 0
  mCheck : Word := 0
  /-- the die has fenced itself (R345) -/
  fenced : Bool := false
  deriving DecidableEq, Repr

/-- Directory states (15 R340, Table 15.1). -/
inductive DirSt where
  | i
  | s
  | e
  | m
  | o
  deriving DecidableEq, Repr

/-- A directory entry. -/
structure DirEntry where
  st : DirSt := .i
  owner : Nat := 0
  sharers : BitVec 8 := 0
  poison : Bool := false
  /-- the generation in which the line's data was last written or obtained (16 R361) -/
  lg : Nat := 1
  /-- the owner has written an E copy (R341) -/
  written : Bool := false
  deriving DecidableEq, Repr

/-- An invalidation that has not been acknowledged (15 R342 to R344). -/
structure Inval where
  line : Nat
  die : Nat
  /-- route in use: 0 along the row first, 1 across first, 2 any -/
  route : Nat
  received : Bool
  /-- cycle of the last send -/
  sent : Nat
  /-- the die that is to own the line; none for an operation at the home slice -/
  forDie : Option Nat := none
  deriving DecidableEq, Repr

/-- A bias flip in progress or waiting (R353). -/
structure Flip where
  page : Nat
  toHost : Bool
  /-- lines of the page whose host response is still outstanding -/
  waitingLines : List Nat
  deriving DecidableEq, Repr

/-- A host request that waits (R352), or the data that the host writes back in its answer to a back-invalidation. -/
structure HostReq where
  addr : Nat
  write : Option (List Byte)
  back : Bool := false
  deriving DecidableEq, Repr

/-- What the host or a peer was answered with. -/
inductive Reply where
  | data (addr : Nat) (bytes : List Byte)
  | written (addr : Nat)
  | poison (addr : Nat)
  | refused (addr : Nat) (why : Refused)
  deriving DecidableEq, Repr

/-- An attestation report (19 R431). -/
structure Report where
  rom : BitVec 384
  firmware : BitVec 384
  config : BitVec 384
  owner : Nat
  nonce : BitVec 256
  sigs : List (List Byte)
  deriving DecidableEq, Repr

/-- The instruction being issued: the group, the split and the word (02 R34, R50). -/
structure Cur where
  core : Nat
  gid : Nat
  split : Nat
  /-- address of the word that holds it, BASE (R167) -/
  base : DWord
  /-- PC, which is BASE + 2 for the second code of a pair (R34) -/
  pc : DWord
  /-- PC of the next instruction -/
  next : DWord
  w0 : Word
  w1 : Word
  /-- it is a dictionary code, and whether a valid second code follows it (R171) -/
  dict : Bool
  secondFollows : Bool
  deriving DecidableEq, Repr

/-- CLOCK, TIME and the core clock rate (R14, R94, R95): one CLOCK and one rate for all cores, the model's choice
(notes/assumptions/44.md). -/
structure Clocks where
  clock : Nat := 0
  time : Nat := 0
  /-- remainder of the conversion from core cycles to nanoseconds -/
  timeRem : Nat := 0
  mhz : Nat := 1900
  deriving DecidableEq, Repr

/-- The launch unit, the distributors and the queue engines (17). -/
structure Queues where
  launches : FMap Launch := []
  waiting : List WaitUnit := []
  restores : List RestoreReq := []
  accepted : Nat := 0
  fifos : List Fifo := []
  transit : List Transit := []
  /-- node workgroups formed, per team (R393) -/
  nodeSeq : FMap Nat := []
  /-- (team, launch) pairs in a QUEUE_FULL episode (R391) -/
  queueFull : List (Nat × Nat) := []
  /-- cycle of the next exchange (R395) -/
  exchangeAt : Nat := 1024
  rings : FMap Ring := []
  deriving DecidableEq, Repr

/-- What is in flight. -/
structure Flight where
  reqs : List Req := []
  /-- scratch instructions with a lane whose cycle is still to come (12 R275) -/
  scratch : List Req := []
  early : List EarlyRel := []
  writes : List DevWrite := []
  /-- the oldest first -/
  prefs : List Prefetch := []
  sfu : List SfuRes := []
  parks : List Park := []
  copies : List Copy := []
  pmmas : List Pmma := []
  /-- the exchanges of `pswap` in the present cycle, as workgroup and P (12 R289) -/
  swaps : List (Nat × Nat) := []
  deriving DecidableEq, Repr

/-- What writes where a shadow frame is missing. -/
inductive Writer where
  | req (id lane : Nat)
  | copy (id : Nat)
  /-- a write that the device makes -/
  | device (id : Nat)
  /-- a request of a peer or the host, or the host's write-back -/
  | outside
  /-- a write to a table: a page-table entry, a bias bit, an image, a launch ring -/
  | table
  deriving DecidableEq, Repr

/-- A write that waits for a shadow frame (16 R367), with its page, and its context and core for the event. -/
structure FrameWait where
  who : Writer
  page : Nat
  ctx : Nat := 0xFF
  core : Nat := 0xFFFF
  /-- the exhaustion that it met has abandoned what it abandons -/
  tried : Bool := false
  deriving DecidableEq, Repr

/-- An advance that the barrier unit has broadcast and that some unit has not received (R369): the generation that it
closes, the descriptor, and the split that waits, on core 0xFFFF where its group has gone. -/
structure Advance where
  rec_ : GenRec
  core : Nat
  gid : Nat
  split : Nat
  deriving DecidableEq, Repr

/-- Generation state (16). -/
structure Gens where
  cur : Nat := 1
  base : Nat := 1
  retained : List GenRec := []
  /-- the last STATUS of generations no longer retained, within the window -/
  stat : FMap Nat := []
  /-- the generation that a page's tag names; an unlisted page's tag names B (R358) -/
  tag : FMap Nat := []
  shadows : List Shadow := []
  drains : List Drain := []
  poolGib : Nat := 64
  snapCtx : DWord := 0
  /-- tag lines whose uncorrectable error a use of their tags has met in the present step (R374) -/
  tagLost : List Nat := []
  /-- the advance in progress, and the units whose generation register still holds Gc − 1: core c as c, slice i of die d as
  2048 + 160 d + i, the controller of stack k as 4096 + k (R360) -/
  advance : Option Advance := none
  /-- `snap` requests at the barrier unit whose group has been killed (R369) -/
  orphans : List Orphan := []
  late : List Nat := []
  /-- writes that wait for a shadow frame (R367) -/
  copyWait : List FrameWait := []
  /-- the POOL_PRESSURE event of the present wait has been posted -/
  pressed : Bool := false
  deriving DecidableEq, Repr

/-- Translation state (18). -/
structure Xlat where
  tlb : List TlbEntry := []
  ctxBase : DWord := 0
  pfBase : DWord := 0
  pfSize : Word := 0
  pfHead : Word := 0
  pfTail : Word := 0
  pfReply : Word := 0
  pfSeq : Nat := 0
  fxTime : Word := 1000000
  faults : List FaultRec := []
  unposted : List Unposted := []
  splBase : DWord := 0
  splCnt : Word := 0
  splReq : DWord := 0
  splCtx : Word := 0
  splStat : Word := 0
  /-- a splinter in progress has not swapped its parent entry yet (R410) -/
  splOpen : Bool := false
  /-- context and pool of the splinter in progress: SPLCTX and SPLBASE as they were at its request -/
  splUse : Nat × DWord := (0, 0)
  /-- requests that a splinter in progress waits for after the swap (R410) -/
  splWait : List Nat := []
  /-- frames that have been taken from the splinter pool, by PA / 4096 (R410, 10 R231) -/
  splPages : List Nat := []
  biasBase : DWord := 0
  /-- the 256 entries of the seal table, by number (R417) -/
  seals : FMap SealEntry := []
  deriving DecidableEq, Repr

/-- Dies, directory, boundaries, host and peers (15). -/
structure Coherence where
  dies : FMap Die := []
  /-- directory by PA / 64; an unlisted line is in I -/
  dir : FMap DirEntry := []
  invals : List Inval := []
  /-- boundaries that are down, as pairs of dies -/
  down : List (Nat × Nat) := []
  /-- dies marked for quarantine (R345) -/
  marked : List Nat := []
  flips : List Flip := []
  /-- requests of the host and of peers that wait, the oldest first (R341, R352) -/
  hostReqs : List HostReq := []
  peerReqs : List PeerReq := []
  /-- lines whose back-invalidation the host has answered, true for a BISnpInv and false for a BISnpData (R352) -/
  snooped : List (Nat × Bool) := []
  /-- lines that the home has invalidated for an operation of its own, which goes first (R341) -/
  claimed : List Nat := []
  /-- answers sent to the host and to peers, newest first -/
  replies : List Reply := []
  quar : Word := 0
  quarCnt : Word := 0
  deriving DecidableEq, Repr

/-- The owner's fault queue (19 R427). -/
structure FaultQueue where
  base : DWord := 0
  size : Word := 0
  head : Word := 0
  tail : Word := 0
  drop : Word := 0
  seq : Nat := 0
  deriving DecidableEq, Repr

/-- Custody, firmware and identity (19 R428 to R432). -/
structure Custody where
  owner : Nat := 0
  /-- an offer that has not lapsed: target and the TIME of the offer -/
  handover : Option (Nat × Nat) := none
  handoverReg : Word := 0
  attach : BitVec 5 := 0b10001
  ranks : FMap Nat := [(1, 1), (2, 2), (3, 3), (4, 4)]
  fuseVersion : Nat := 0
  firmware : List Byte := []
  config : List Byte := []
  /-- identity keys, one for each signature scheme (R431) -/
  keys : List (BitVec 384) := [Config.deriveKey Config.pufSeed 0, Config.deriveKey Config.pufSeed 1]
  /-- the configuration block names the device as the bridging device of its group (01 R13) -/
  bridging : Bool := true
  keysErased : Bool := false
  /-- ports whose link is down, each with the TIME since when (R428) -/
  portDown : FMap Nat := []
  eraseOnAlarm : Bool := false
  reports : List Report := []
  deriving DecidableEq, Repr

/-- The package. -/
structure State where
  clk : Clocks
  dev : Nat
  /-- inputs and choices still to come, first first: the model's own (notes/assumptions/2.md) -/
  agenda : List Instr
  /-- choices among what may happen next: the model's own -/
  turns : List Nat
  /-- the instruction being issued -/
  cur : Option Cur
  /-- counter of keys: the model's own -/
  fresh : Nat
  /-- memory by physical address, 52 bits (15 R348) -/
  mem : FMap Byte
  /-- poisoned lines by PA / 64, and lines with a latent uncorrectable error (19 R426) -/
  poisoned : List Nat
  latent : List Nat
  /-- lines with an error that ECC corrects -/
  soft : List Nat
  cores : FMap CoreSt
  wgs : FMap Wg
  q : Queues
  fly : Flight
  gen : Gens
  xl : Xlat
  coh : Coherence
  fq : FaultQueue
  cust : Custody
  /-- contexts being killed (09 R227) -/
  killing : List Nat
  /-- images with a unit that is not restored yet -/
  kept : List KeptImage
  deriving DecidableEq, Repr

/-- Reset values (R357, Tables 4.1, 4.7, 9.4, 15.7, 16.2, 17.1, 18.1, 19.3, 19.5, 19.7, as the fields' defaults give
them; the values that no rule gives are those of notes/assumptions/1.md, 6.md, 7.md, 9.md and 12.md). -/
def State.reset : State :=
  { clk := {}, dev := 0, agenda := [], turns := [], cur := none, fresh := 0, mem := [], poisoned := [], latent := [], soft := [],
    cores := [], wgs := [], q := {}, fly := {}, gen := {}, xl := {}, coh := {}, fq := {}, cust := {}, killing := [], kept := [] }

end Sys2Proof.Machine
end

