-- ==== Sys2Proof/Machine/Ops.lean ====
section
/-! DEFINITION. The named operations over the state: finding and updating its parts, device registers that many rules
touch, the owner's fault queue, group kill, taking an exception and returning from one. -/

namespace Sys2Proof.Machine

/-- The outcome of a step of the machine. -/
abbrev Out := Host.Outcome State Fault Refusal

/-- The core clock (R94). -/
def State.now (s : State) : Nat := s.clk.clock

/-- A core's state. -/
def State.core (s : State) (c : Nat) : CoreSt := (FMap.find s.cores c).getD {}

/-- Replace a core's state. -/
def State.setCore (s : State) (c : Nat) (k : CoreSt) : State := { s with cores := FMap.put s.cores c k }

/-- Update a core's state. -/
def State.updCore (s : State) (c : Nat) (f : CoreSt → CoreSt) : State := s.setCore c (f (s.core c))

/-- A resident group. -/
def State.group (s : State) (c g : Nat) : Option Group := FMap.find (s.core c).groups g

/-- Put a group in a core's slot. -/
def State.setGroup (s : State) (c g : Nat) (x : Group) : State :=
  s.updCore c fun k => { k with groups := FMap.put k.groups g x }

/-- Update a resident group; nothing where the slot is free. -/
def State.updGroup (s : State) (c g : Nat) (f : Group → Group) : State :=
  match s.group c g with
  | some x => s.setGroup c g (f x)
  | none => s

/-- Take a group out of its slot. -/
def State.dropGroup (s : State) (c g : Nat) : State :=
  s.updCore c fun k => { k with groups := FMap.erase k.groups g }

/-- A split of a group. -/
def Group.split (g : Group) (k : Nat) : Option Split := FMap.find g.splits k

/-- Update a split. -/
def Group.updSplit (g : Group) (k : Nat) (f : Split → Split) : Group :=
  match g.split k with
  | some x => { g with splits := FMap.put g.splits k (f x) }
  | none => g

/-- An operation on every split of a group. -/
def Group.mapSplits (g : Group) (f : Split → Split) : Group := { g with splits := g.splits.map fun e => (e.1, f e.2) }

/-- What a split of a resident group waits for. -/
def State.waitOf (s : State) (c g k : Nat) : Option Wait :=
  match s.group c g with
  | some x => match x.split k with
    | some p => some p.wait
    | none => none
  | none => none

/-- Update a split of a resident group. -/
def State.updSplit (s : State) (c g k : Nat) (f : Split → Split) : State :=
  s.updGroup c g fun x => x.updSplit k f

/-- A thread of a group. -/
def Group.thread (g : Group) (l : Nat) : Thread := (FMap.find g.lanes l).getD {}

/-- Update a thread of a group. -/
def Group.updThread (g : Group) (l : Nat) (f : Thread → Thread) : Group :=
  { g with lanes := FMap.put g.lanes l (f (g.thread l)) }

/-- Live lanes of a group. -/
def Group.live (g : Group) : Mask := ~~~g.dead

/-- A workgroup. -/
def State.wg (s : State) (w : Nat) : Option Wg := FMap.find s.wgs w

/-- Update a workgroup. -/
def State.updWg (s : State) (w : Nat) (f : Wg → Wg) : State :=
  match s.wg w with
  | some x => { s with wgs := FMap.put s.wgs w (f x) }
  | none => s

/-- A launch. -/
def State.launch (s : State) (l : Nat) : Option Launch := FMap.find s.q.launches l

/-- Update a launch. -/
def State.updLaunch (s : State) (l : Nat) (f : Launch → Launch) : State :=
  match s.launch l with
  | some x => { s with q := { s.q with launches := FMap.put s.q.launches l (f x) } }
  | none => s

/-- The kernel header that a group runs under. -/
def State.hdr (s : State) (g : Group) : Header :=
  match s.launch g.launch with
  | some l => l.hdr
  | none => {}

/-- The kernel address of a group. -/
def State.kernel (s : State) (g : Group) : DWord :=
  match s.launch g.launch with
  | some l => l.lr.kernel
  | none => 0

/-- A C-die's registers. -/
def State.die (s : State) (d : Nat) : Die := (FMap.find s.coh.dies d).getD {}

/-- Update a C-die's registers. -/
def State.updDie (s : State) (d : Nat) (f : Die → Die) : State :=
  { s with coh := { s.coh with dies := FMap.put s.coh.dies d (f (s.die d)) } }

/-- A ring's registers (R375). -/
def State.ring (s : State) (c : Nat) : Ring := (FMap.find s.q.rings c).getD {}

/-- Update a ring's registers. -/
def State.updRing (s : State) (c : Nat) (f : Ring → Ring) : State :=
  { s with q := { s.q with rings := FMap.put s.q.rings c (f (s.ring c)) } }

/-- Team and die of a core (R11). -/
def teamOf (core : Nat) : Nat := core / 16
/-- C-die of a core (R11). -/
def dieOf (core : Nat) : Nat := core / 256
/-- Home C-die of a physical address of device memory (R230). -/
def homeDie (pa : Nat) : Nat := pa / 2 ^ 37 % 8
/-- Track of a group identifier (R16). -/
def trackOf (gid : Nat) : Nat := gid / 8

/-- A fresh key. -/
def State.newKey (s : State) : Nat × State := (s.fresh, { s with fresh := s.fresh + 1 })

/-- Add 1 to a 32-bit counter that saturates (R425, R427). -/
def satInc (w : Word) : Word := if w = 0xFFFFFFFF#32 then w else w + 1

/-! ## Memory by physical address -/

/-- Bytes of memory. -/
def State.read (s : State) (pa n : Nat) : List Byte := bytesAt s.mem pa n

/-- A little-endian value of memory (R3). -/
def State.readN (s : State) (pa n : Nat) : Nat := ofBytes (s.read pa n)

/-- Lines that `n` bytes from `pa` cover whole. -/
def wholeLines (pa n : Nat) : List Nat :=
  ((List.range (n / 64 + 1)).map fun i => (pa + 63) / 64 + i).filter fun l => decide (l * 64 + 64 ≤ pa + n)

/-- A directory entry whose poison a full-line write clears (R347). -/
def clearPoison (d : FMap DirEntry) (l : Nat) : FMap DirEntry :=
  match FMap.find d l with
  | some e => if e.poison then FMap.put d l { e with poison := false } else d
  | none => d

/-- Store bytes. A write that covers a whole 64-byte line clears its poison (R426, R347). -/
def State.store (s : State) (pa : Nat) (bs : List Byte) : State :=
  let whole := wholeLines pa bs.length
  { s with mem := putBytes s.mem pa bs,
           poisoned := s.poisoned.filter (fun l => !whole.contains l),
           latent := s.latent.filter (fun l => !whole.contains l),
           soft := s.soft.filter (fun l => !whole.contains l),
           coh := { s.coh with dir := whole.foldl clearPoison s.coh.dir } }

/-- A read of this line is an uncorrectable error: poison, a latent error, a poisoned directory entry or a stack homed
on a quarantined die (R347, R426). -/
def State.badLine (s : State) (line : Nat) : Bool :=
  s.poisoned.contains line || s.latent.contains line ||
    (match FMap.find s.coh.dir line with | some e => e.poison | none => false) ||
    (decide (line < 2 ^ 34) && s.coh.quar.getLsbD (homeDie (line * 64)))

/-! ## Counters -/

/-- The event of a performance counter's selection counts (R422): CF restricts events that have a context. -/
def pmcMatch (sel : Word) (ev : Nat) (ctx : Option Nat) : Bool :=
  sel.toNat % 256 = ev && ev != 0 && ev ≤ 0x10 &&
    (sel.toNat / 2 ^ 14 % 2 = 0 || ctx.isNone || ctx = some (sel.toNat / 256 % 64))

/-- Add `n` events to a core's performance counters (R422). -/
def CoreSt.countNow (k : CoreSt) (ev n : Nat) (ctx : Option Nat) : CoreSt :=
  { k with pmcCnt := (List.range 8).foldl (fun m i =>
      if pmcMatch (FMap.get 0#32 k.pmcSel i) ev ctx then FMap.set 0#64 m i (FMap.get 0#64 m i + BitVec.ofNat 64 n)
      else m) k.pmcCnt }

/-- Events of a core in the present cycle: they are counted at its end, under the selections that then stand (R423). -/
def CoreSt.count (k : CoreSt) (ev n : Nat) (ctx : Option Nat) : CoreSt :=
  if n = 0 then k else { k with pmcNow := k.pmcNow ++ [(ev, n, ctx)] }

/-- The events of the cycle that ends are counted (R423). -/
def CoreSt.countAll (k : CoreSt) : CoreSt :=
  { k.pmcNow.foldl (fun (k : CoreSt) e => k.countNow e.1 e.2.1 e.2.2) k with pmcNow := [], pmcOwner := [] }

/-- Count events on a core. -/
def State.count (s : State) (core ev n : Nat) (ctx : Option Nat) : State := s.updCore core (·.count ev n ctx)

/-- Count events when a condition holds. -/
def State.countIf (s : State) (b : Bool) (core ev n : Nat) (ctx : Option Nat) : State :=
  if b then s.count core ev n ctx else s

/-! ## Writes that the device makes -/

/-- Hand over a write that the device makes: it is performed at its home once its line and its page allow it
(`State.settleWrites`), in the order of its channel. -/
def State.deviceWrite (s : State) (w : DevWrite) : State :=
  { s with fresh := s.fresh + 1, fly := { s.fly with writes := s.fly.writes ++ [{ w with id := s.fresh }] } }

/-- Writes of a channel that are still to be performed. -/
def State.queued (s : State) (c : Chan) : Nat := (s.fly.writes.filter fun w => w.chan = c).length

/-! ## The owner's fault queue (19 R427) -/

/-- Ring sizes that do not disable a ring: powers of two from `lo` to `hi`. -/
def ringSizeOk (w : Word) (lo hi : Nat) : Bool :=
  decide (lo ≤ w.toNat) && decide (w.toNat ≤ hi) && (w &&& (w - 1)) == 0

/-- Post a record of Table 19.8, or drop it and count FQDROP when the ring is full; nothing when posting is disabled. -/
def State.post (s : State) (kind code detail ctx core : Nat) (pc : DWord) (tid : Word) : State :=
  if s.fq.base = 0 || !ringSizeOk s.fq.size 16 65536 then s
  else if s.fq.head + BitVec.ofNat 32 (s.queued .faultQueue) - s.fq.tail = s.fq.size then
    { s with fq := { s.fq with drop := satInc s.fq.drop } }
  else
    let at_ := s.fq.base.toNat + 32 * ((s.fq.head.toNat + s.queued .faultQueue) % s.fq.size.toNat)
    let bs := toBytes 1 kind ++ toBytes 1 code ++ toBytes 1 detail ++ toBytes 1 ctx ++ toBytes 2 core ++
      toBytes 2 s.fq.seq ++ toBytes 8 pc.toNat ++ toBytes 4 tid.toNat ++ toBytes 4 0 ++ toBytes 8 s.clk.time
    let s := s.deviceWrite { id := 0, chan := .faultQueue, pa := at_, bytes := bs, follow := .fqHead }
    { s with fq := { s.fq with seq := s.fq.seq + 1 } }

/-! ## Splits, tracks and waits -/

/-- Update a track of a core. -/
def State.updTrack (s : State) (core t : Nat) (f : Track → Track) : State :=
  s.updCore core fun k => { k with tracks := FMap.put k.tracks t (f ((FMap.find k.tracks t).getD {})) }

/-- A track of a core. -/
def State.track (s : State) (core t : Nat) : Track := (FMap.find (s.core core).tracks t).getD {}

/-- The track no longer issues the split: a track-free event (R24). -/
def State.freeTrack (s : State) (core gid : Nat) : State :=
  s.updTrack core (trackOf gid) fun t =>
    match t.issuing with
    | some (g, _) => if g = gid then { t with issuing := none } else t
    | none => t

/-- Occupy the group's track for `n` cycles more (R22). -/
def State.occupy (s : State) (core gid n : Nat) : State :=
  s.updTrack core (trackOf gid) fun t => { t with busyUntil := Nat.max s.now t.busyUntil + n }

/-- Stop the issuing split to wait; `resume` is where it goes on, none to run the instruction at PC again. -/
def State.stall (s : State) (c : Cur) (w : Wait) (resume : Option DWord) : State :=
  (s.updSplit c.core c.gid c.split fun p => { p with wait := w, resume := resume, pass := 0 }).freeTrack c.core c.gid

/-- One instruction of the clause is done: where the clause has none left it ends (R38). -/
def Split.countDown (p : Split) (now : Nat) : Split :=
  match p.clause with
  | some k => if k.left ≤ 1 then { p with clause := none, clauseEnd := now } else { p with clause := some { k with left := k.left - 1 } }
  | none => p

/-- Set the split past its instruction to `pc`. -/
def Split.goPast (p : Split) (pc : DWord) (now : Nat) : Split :=
  let q := p.countDown now
  { q with pc := pc, issued := false, replay := none, seen := none, only := none, wait := if q.clause.isNone then .held else .ready, resume := none,
           rt := now, pass := 0 }

/-- The cycle at which the group's track is free. -/
def State.freeAt (s : State) (core gid : Nat) : Nat := Nat.max s.now (s.track core (trackOf gid)).busyUntil

/-- The instruction is done: the split goes on with the next instruction of its clause, or its clause ends. -/
def State.advance (s : State) (c : Cur) : State :=
  let now := s.freeAt c.core c.gid
  let s := s.updSplit c.core c.gid c.split (·.goPast c.next now)
  match s.group c.core c.gid with
  | some g =>
    match g.split c.split with
    | some p => if p.clause.isNone then s.freeTrack c.core c.gid else s
    | none => s.freeTrack c.core c.gid
  | none => s

/-- A taken transfer: the clause ends and the split stands before the header at `target` (R38, R39). -/
def State.jump (s : State) (c : Cur) (target : DWord) : State :=
  let now := s.freeAt c.core c.gid
  (s.updSplit c.core c.gid c.split fun p =>
    { p with pc := target, clause := none, clauseEnd := now, issued := false, replay := none, seen := none, only := none,
             wait := .held, resume := none, rt := now, pass := 0 }).freeTrack c.core c.gid

/-! ## Signatures (09 R213) -/

/-- One bit of the reflected CRC-32C step. -/
def crcBit (c : Word) (b : Bool) : Word :=
  if (c.getLsbD 0).xor b then (c >>> 1) ^^^ 0x82F63B78#32 else c >>> 1

/-- `crc32c_update`. -/
def crc32c (c w : Word) : Word := (List.range 32).foldl (fun c i => crcBit c (w.getLsbD i)) c

/-! ## Dead lanes, kills -/

/-- Live threads of a group that belong to a workgroup (R465). -/
def Group.liveIn (g : Group) (w : Nat) : Nat := (g.lanes.filter fun t => t.2.wg = w && !g.dead.getLsbD t.1).length

/-- Live threads of a workgroup, wherever they stand (R465): in resident groups and in groups already saved. -/
def State.liveOf (s : State) (w : Nat) : Nat :=
  match s.wg w with
  | none => 0
  | some x =>
    (s.core x.core).groups.foldl (fun n e => n + e.2.liveIn w) 0 + (s.core x.core).saved.foldl (fun n e => n + e.group.liveIn w) 0

/-- Forget what is in flight for a group whose threads are gone: pending results are discarded (R78), and a killed
group's writes not yet performed are discarded (R227). -/
def Flight.dropGroup (f : Flight) (core gid : Nat) (keepWrites : Bool) : Flight :=
  { f with
    reqs := f.reqs.filter fun r => !(r.core = core && r.gid = gid && (!keepWrites)),
    scratch := f.scratch.filter fun r => !(r.core = core && r.gid = gid),
    sfu := f.sfu.filter fun r => !(r.core = core && r.gid = gid),
    parks := f.parks.filter fun p =>
      match p.who with
      | .split c g _ _ _ => !(c = core && g = gid)
      | _ => true }

/-- A token loses 1, never below 0 (R91). -/
def Group.tokDec (g : Group) (k : Nat) : Group := { g with tok := FMap.set 0 g.tok k (FMap.get 0 g.tok k - 1) }

/-- A token gains 1 (R91). -/
def Group.tokInc (g : Group) (k : Nat) : Group := { g with tok := FMap.set 0 g.tok k (FMap.get 0 g.tok k + 1) }

/-- Release the tokens of a list of (group, token) pairs of a core. -/
def State.releaseTokens (s : State) (core : Nat) (ms : List (Nat × Nat)) : State :=
  ms.foldl (fun s m => s.updGroup core m.1 (·.tokDec m.2)) s

/-- The operations that a kill of a group cancels: its copies and the whole of each `pmma` it is a member of. -/
def Flight.cancel (f : Flight) (core gid : Nat) : Flight :=
  { f.dropGroup core gid false with
    copies := f.copies.filter (fun x => !(x.core = core && x.gid = gid)),
    pmmas := f.pmmas.filter (fun x => !(x.core = core && x.members.any fun m => m.1 = gid)) }

/-- Members of the `pmma` operations that a group's kill cancels (R285). -/
def Flight.membersWith (f : Flight) (core gid : Nat) : List (Nat × Nat) :=
  (f.pmmas.filter fun x => x.core = core && x.members.any fun m => m.1 = gid).flatMap (·.members)

/-- The advance is that of a split. -/
def Advance.is (a : Advance) (core gid split : Nat) : Bool := a.core == core && a.gid == gid && a.split == split

/-- The `snap` requests of a group that the barrier unit has stay with it when the group is killed (16 R369). -/
def State.leaveSnaps (s : State) (core gid : Nat) (g : Group) : State :=
  let left : List Orphan := g.splits.filterMap fun e =>
    match e.2.wait with
    | .snap va desc _ => if s.gen.advance.any (·.is core gid e.1) then none else some { ctx := g.ctx, va := va, desc := desc }
    | _ => none
  let adv := s.gen.advance.map fun (a : Advance) =>
    if a.core = core ∧ a.gid = gid then { a with core := 0xFFFF, gid := 0, split := 0 } else a
  { s with gen := { s.gen with orphans := s.gen.orphans ++ left, advance := adv } }

/-- Kill one group (R217, R227): it leaves its slot, its operations are cancelled, one event is posted. -/
def State.killGroup (s : State) (core gid code detail : Nat) (pc : DWord) (tid : Word) : State :=
  match s.group core gid with
  | none => s
  | some g =>
    let others := s.fly.membersWith core gid
    let s := (((s.leaveSnaps core gid g).freeTrack core gid).dropGroup core gid).releaseTokens core others
    let s := { s with fly := s.fly.cancel core gid }
    s.post 0x01 code detail g.ctx core pc tid

/-! ## Program order of requests (14 R322) -/

/-- What a control event changes in program order for the requests of a group (14 R322). -/
inductive Reorder where
  /-- the requests of some splits are earlier for split `m` from now on -/
  | into (splits : BitVec 5) (m : Nat)
  /-- split `k` goes over to another path of a divergence: its requests from number `since` on are unrelated to that path -/
  | aside (k since : Nat)
  /-- the divergence of split `k` ends: its requests from number `since` on are earlier again -/
  | back (k since : Nat)
  deriving DecidableEq, Repr

/-- Changes of program order, the first first. -/
abbrev Renames := List Reorder

/-- A change of program order for one request: its number, the splits for which it is earlier, and those that run another
path. -/
def Reorder.apply (id : Nat) (m : BitVec 5 × BitVec 5) : Reorder → BitVec 5 × BitVec 5
  | .into ks t => if (m.1 ||| m.2) &&& ks = 0 then m else (m.1 ||| ((1#5) <<< t), m.2)
  | .aside k n => if n ≤ id ∧ m.1.getLsbD k then (m.1 &&& ~~~((1#5) <<< k), m.2 ||| ((1#5) <<< k)) else m
  | .back k n => if n ≤ id ∧ m.2.getLsbD k then (m.1 ||| ((1#5) <<< k), m.2 &&& ~~~((1#5) <<< k)) else m

/-- The handler's requests come before every event of every split after `rte` (14 R322): no path is set aside from them. -/
def Reorder.forHandler : Reorder → Bool
  | .into _ _ | .back _ _ => true
  | .aside _ _ => false

/-- Changes of program order for one request. -/
def Req.reorder (rs : Renames) (r : Req) : Req :=
  let m := (if r.split = 4 then rs.filter Reorder.forHandler else rs).foldl (Reorder.apply r.id) (r.splits, r.aside)
  { r with splits := m.1, aside := m.2 }

/-- Changes of program order for one pending class-F result. -/
def SfuRes.reorder (rs : Renames) (r : SfuRes) : SfuRes := { r with splits := (rs.foldl (Reorder.apply 0) (r.splits, 0)).1 }

/-- Apply changes of program order to what is in flight. -/
def State.rename (s : State) (core gid : Nat) (rs : Renames) : State :=
  { s with fly := { s.fly with
      reqs := s.fly.reqs.map (fun r => if r.core = core ∧ r.gid = gid then r.reorder rs else r),
      sfu := s.fly.sfu.map (fun r => if r.core = core ∧ r.gid = gid then r.reorder rs else r) } }

/-! ## Taking an exception and returning from one (09 R201 to R211) -/

/-- What an exception records: code and DETAIL, elected lane, fault lanes, INFO, the words. -/
structure Trap where
  code : Nat
  detail : Nat := 0
  elected : Nat
  lanes : Mask
  info : DWord := 0
  w0 : Word
  w1 : Word
  deriving DecidableEq, Repr

/-- h0 (Table 9.2). -/
def Trap.h0 (t : Trap) (split : Nat) (hrep : Bool) : Word :=
  BitVec.ofNat 32 (t.code + t.elected * 2 ^ 8 + split * 2 ^ 13 + (if hrep then 2 ^ 15 else 0) + t.detail * 2 ^ 16)

/-- h0 to h7 of the fault record; h8 to h15 keep their values (R93). -/
def Trap.record (t : Trap) (h : FMap Word) (split : Nat) (hrep : Bool) (pc : DWord) : FMap Word :=
  let put := fun (m : FMap Word) (kv : Nat × Word) => FMap.set 0#32 m kv.1 kv.2
  [(0, t.h0 split hrep), (1, pc.setWidth 32), (2, (pc >>> 32).setWidth 32), (3, t.lanes), (4, t.info.setWidth 32),
   (5, (t.info >>> 32).setWidth 32), (6, t.w0), (7, t.w1)].foldl put h

/-- The handler split: the elected lane alone, at kernel address + HANDLER, with the faulting split's FMT (R205).
The STALL of its first clause counts from the entry: the model's choice (01 R24; notes/assumptions/46.md). -/
def handlerSplit (entry : DWord) (t : Trap) (p : Split) (now : Nat) : Split :=
  { pc := entry, active := bitMask t.elected, fmt := p.fmt, sig := p.sig, wait := .held, cls := p.cls, rt := now,
    clauseEnd := now }

/-- Clear full bits. -/
def Thread.drain (t : Thread) (rs : List Nat) : Thread :=
  { t with empty := rs.foldl (fun e r => e ||| ((1#128) <<< r)) t.empty }

/-- Set full bits. -/
def Thread.fill (t : Thread) (rs : List Nat) : Thread :=
  { t with empty := rs.foldl (fun e r => e &&& ~~~((1#128) <<< r)) t.empty }

/-- A trap that a replay meets sets the full bits of the destinations that the unfinished lanes left empty (02 R54). -/
def Group.fillReplay (g : Group) (p : Split) : Group :=
  match p.replay with
  | some y => y.dst.foldl (fun (acc : Group) d => acc.updThread d.1 (·.fill d.2)) g
  | none => g

/-- TAKING AN EXCEPTION (R205, R207): the precise trap `t` of a split whose next instruction lies at `pc` and is
followed at `next`. The group enters its handler in one step; with HANDLER 0, or in handler mode already, it is
killed and one event is posted. The other splits stop being ready: their PASS is 0 (17 R384). The
handler's accesses come after the faulting split's (14 R322). -/
def State.takeTrap (s : State) (core gid split : Nat) (pc next : DWord) (t : Trap) : State :=
  match s.group core gid with
  | none => s
  | some g =>
    match g.split split with
    | none => s
    | some p =>
      let tid := (g.thread t.elected).tid
      if g.handler.isSome then s.killGroup core gid t.code (t.detail ||| 0x80) pc tid
      else if (s.hdr g).handler = 0 then s.killGroup core gid t.code t.detail pc tid
      else
        let now := s.freeAt core gid
        let entry := s.kernel g + BitVec.ofNat 64 (s.hdr g).handler
        let g := ((g.fillReplay p).mapSplits fun q => { q with pass := 0 }).updSplit split fun q =>
          { q with wait := .ready, resume := none, issued := false, replay := none, seen := none }
        let g := { g with
          h := t.record g.h split p.only.isSome pc,
          splits := FMap.put g.splits 4 (handlerSplit entry t p now),
          handler := some { split := split, lane := t.elected, pc := pc, next := next, only := p.only } }
        ((s.setGroup core gid g).freeTrack core gid).rename core gid [.into ((1#5) <<< split) 4]

/-- Raise the trap of the issuing split. -/
def State.trap (s : State) (c : Cur) (t : Trap) : State := s.takeTrap c.core c.gid c.split c.pc c.next t

/-- A write to FLAGS: a flag that an event sets in the same cycle stays set (04 R90). -/
def Group.writeFlags (g : Group) (v : Word) : Group :=
  { (g.mapSplits fun p => { p with seen := p.seen.map fun _ => v }) with flags := v ||| g.recent, sync := g.sync &&& g.recent }

/-- RETURNING FROM ONE (R211), the group's side that the three choices share: the handler's writes to FLAGS, TEN,
RRB, SIG and FMT take effect (a flag that an event sets in the same cycle stays set, 04 R90), the handler split ends and
handler mode with it, and the other ready splits become ready again in cycle `now` (17 R384). -/
def Group.leaveHandler (g : Group) (h : Handler) (now : Nat) : Group :=
  let g := (g.mapSplits fun p => { p with rt := Nat.max p.rt now }).updSplit h.split fun p =>
    { p with sig := h.sig.getD p.sig, fmt := h.fmt.getD p.fmt }
  let g := match h.flags with | some v => g.writeFlags v | none => g
  { g with ten := h.ten.getD g.ten, rrb := h.rrb.getD g.rrb, splits := FMap.erase g.splits 4, handler := none }

/-- The faulting split stands at `pc` after `rte`; inside its clause when `keep` is set (R39, R211). -/
def Split.resumeAt (p : Split) (pc : DWord) (keep : Bool) (only : Option Mask) (now : Nat) : Split :=
  { p with pc := pc, only := only, wait := if keep && p.clause.isSome then .ready else .held, resume := none,
           issued := only.isSome, replay := none, seen := none, clause := if keep then p.clause else none,
           clauseEnd := if keep then p.clauseEnd else now, rt := now, pass := 0 }

end Sys2Proof.Machine
end

