-- ==== Sys2Proof/Machine/Home.lean ====
section
/-! DEFINITION. The home of a line of device memory: its slice and its directory entry, the sharer signatures and the L1
and L2 that hold copies (10_memories_and_pans.md R230, R241 to R245; 15_coherence_and_host.md R340 to R342, R352), the
generation in which a write is performed and the copy of its page (16_generations.md R360, R364 to R366), and the writes
that the device itself makes. -/

namespace Sys2Proof.Machine

/-! ## Physical addresses (15 R348) -/

/-- Pages of a stack below its tag area, of 4 MiB at its top (10 R231). -/
def tagBase : Nat := 2 ^ 24 - 2 ^ 10

/-- The page lies in the tag area of its stack. -/
def inTagArea (page : Nat) : Bool := decide (page < 2 ^ 28) && decide (tagBase ≤ page % 2 ^ 24)

/-- What a 52-bit physical address names. -/
inductive Target where
  | device (pa : Nat)
  | peer (dev pa : Nat)
  | host (pa : Nat)
  | nothing
  deriving DecidableEq, Repr

/-- Table 15.4. A peer's address that names this device is local. An address of a tag area names nothing: no translation
maps a frame there (10 R231); that one which a table names takes PROTECT is the model's choice (notes/assumptions/33.md). -/
def State.target (s : State) (pa : Nat) : Target :=
  match pa / 2 ^ 48 with
  | 0 => if pa < 2 ^ 40 ∧ inTagArea (pa / 4096) = false then .device pa else .nothing
  | 1 =>
    if pa / 2 ^ 46 % 4 ≠ 0 then .nothing
    else if pa / 2 ^ 40 % 64 = s.dev then if inTagArea (pa % 2 ^ 40 / 4096) then .nothing else .device (pa % 2 ^ 40)
    else .peer (pa / 2 ^ 40 % 64) (pa % 2 ^ 40)
  | 2 => .host (pa % 2 ^ 48)
  | _ => .nothing

/-- The key under which memory holds a physical address: the local one for an address that names this device. -/
def State.memKey (s : State) (pa : Nat) : Nat :=
  match s.target pa with
  | .device a => a
  | _ => pa

/-- The address lies in this device's memory. -/
def State.isDevice (s : State) (pa : Nat) : Bool :=
  match s.target pa with
  | .device _ => true
  | _ => false

/-! ## The grid of C-dies (01 R10, 15 R344) -/

/-- C-dies. -/
def dies8 : List Nat := List.range 8

/-- Dies next to a die in the 2 by 4 grid (01 R10). -/
def neighbours (d : Nat) : List Nat :=
  (if d % 4 = 0 then [] else [d - 1]) ++ (if d % 4 = 3 then [] else [d + 1]) ++ [(d + 4) % 8]

/-- The boundary between two dies. -/
def boundary (a b : Nat) : Nat × Nat := (Nat.min a b, Nat.max a b)

/-- Dies reachable over boundaries that are up. -/
def reachFrom (down : List (Nat × Nat)) : Nat → List Nat → List Nat
  | 0, ds => ds
  | n + 1, ds =>
    reachFrom down n (dies8.filter fun d =>
      ds.contains d || (neighbours d).any fun e => ds.contains e && !down.contains (boundary d e))

/-- The part of the boundary graph that holds a die. -/
def partOf (down : List (Nat × Nat)) (d : Nat) : List Nat := reachFrom down 8 [d]

/-- Two dies reach each other over boundaries that are up. -/
def State.reach (s : State) (a b : Nat) : Bool := s.coh.down.isEmpty || (partOf s.coh.down a).contains b

/-! ## Slices and the L2 (10 R230, R245) -/

/-- Home slice of a line by PA / 64 (R230): (PA[45:6] XOR PA[45:20]) mod 160. -/
def sliceOf (line : Nat) : Nat := Nat.xor (line % 2 ^ 40) (line / 2 ^ 14 % 2 ^ 26) % 160

/-- Two lines share a set of their L2 slice. Which of the 512 sets of a slice takes a line is the model's choice
(notes/assumptions/33.md). -/
def sameL2Set (a b : Nat) : Bool := sliceOf a == sliceOf b && a % 512 == b % 512

/-- Lines that lie in `n` bytes from `pa`. -/
def linesIn (pa n : Nat) : List Nat :=
  ((List.range (n / 64 + 2)).map (· + pa / 64)).filter fun l => decide (l * 64 < pa + n)

/-! ## Generation registers (16 R360) -/

/-- The generation register of a slice of a die. -/
def sliceUnit (die line : Nat) : Nat := 2048 + 160 * die + sliceOf line

/-- The generation registers of a line's home: its slice's and its stack's controller's. -/
def homeUnits (line : Nat) : List Nat := [sliceUnit (homeDie (line * 64)) line, 4096 + line / 2 ^ 30]

/-- The generation of a write to which these units contribute: Gc once one of them holds Gc, for the messages between them
raise the others (R360). -/
def Gens.genAt (g : Gens) (us : List Nat) : Nat :=
  if !g.late.isEmpty && us.all g.late.contains then g.cur - 1 else g.cur

/-- Messages between units raise each to the highest (R360). -/
def Gens.exchange (g : Gens) (us : List Nat) : Gens :=
  if us.all g.late.contains then g else { g with late := g.late.filter fun u => !us.contains u }

/-- Messages between units of the package. -/
def State.exchange (s : State) (us : List Nat) : State := { s with gen := s.gen.exchange us }

/-! ## Conditions of a line and of a die -/

/-- An invalidation of the line has not been acknowledged. -/
def State.transient (s : State) (line : Nat) : Bool := s.coh.invals.any fun v => v.line = line

/-- A die can serve: it has not fenced itself. -/
def State.dieUp (s : State) (die : Nat) : Bool := !(s.die die).fenced

/-! ## The L1 and its sharer signatures (10 R241 to R244) -/

/-- Bucket of a line in a sharer signature (R243). -/
def bucketOf (line : Nat) : Nat :=
  let f := fun lo n => line * 64 / 2 ^ lo % 2 ^ n
  (BitVec.ofNat 9 (f 6 9) ^^^ BitVec.ofNat 9 (f 15 9) ^^^ BitVec.ofNat 9 (f 24 9) ^^^ BitVec.ofNat 9 (f 33 7)).toNat

/-- The core's signature at a slice. -/
def CoreSt.sig (k : CoreSt) (slice : Nat) : BitVec 512 := FMap.get 0 k.sigs slice

/-- The core's signature at a line's slice has the line's bucket. -/
def CoreSt.mayHold (k : CoreSt) (line : Nat) : Bool := (k.sig (sliceOf line)).getLsbD (bucketOf line)

/-- Cores of a die that the line's slice must invalidate before a write. -/
def State.bucketCores (s : State) (die line : Nat) : List Nat :=
  s.cores.filterMap fun c => if dieOf c.1 = die ∧ c.2.mayHold line = true then some c.1 else none

/-- A core drops every line of a bucket, and the slice clears its bit (R243). -/
def CoreSt.dropBucket (k : CoreSt) (slice b : Nat) : CoreSt :=
  { k with l1 := k.l1.filter (fun l => bucketOf l.line ≠ b), sigs := FMap.set 0 k.sigs slice (k.sig slice &&& ~~~((1#512) <<< b)) }

/-- A core receives the invalidation of a bucket from a slice of its die and acknowledges it (R243, 16 R360). -/
def State.dropBucketOf (s : State) (core slice bucket : Nat) : State :=
  ((s.updCore core (·.dropBucket slice bucket)).count core 0x08 1 none).exchange [core, 2048 + 160 * dieOf core + slice]

/-- The cores of a die receive a line's signature invalidation. -/
def State.dropL1 (s : State) (die line : Nat) : State :=
  (s.bucketCores die line).foldl (fun (s : State) c => s.dropBucketOf c (sliceOf line) (bucketOf line)) s

/-- L1 pans of a core, ascending. -/
def CoreSt.l1Pans (k : CoreSt) : List Nat := (List.range 32).filter fun p => k.pl1.getLsbD p

/-- The L1 holds a line. -/
def CoreSt.inL1 (k : CoreSt) (line : Nat) : Bool := k.l1.any fun x => x.line = line

/-- Way of a set that takes a new line: the lowest L1 pan without a line of the set, or that of the set's oldest line. -/
def CoreSt.l1Way (k : CoreSt) (line : Nat) : Option Nat :=
  let mine := k.l1.filter fun x => x.line % 256 = line % 256
  match k.l1Pans.find? fun p => !mine.any fun x => x.pan = p with
  | some p => some p
  | none => mine.head?.map (·.pan)

/-- A line comes into the L1 (R241), and the slice that serves it notes the bucket (R243). -/
def CoreSt.install (k : CoreSt) (line : Nat) : CoreSt :=
  if k.inL1 line then k
  else
    match k.l1Way line with
    | none => k
    | some p =>
      { k with l1 := (k.l1.filter fun x => !(x.pan = p && x.line % 256 = line % 256)) ++ [{ pan := p, line := line }],
               sigs := FMap.set 0 k.sigs (sliceOf line) (k.sig (sliceOf line) ||| ((1#512) <<< bucketOf line)) }

/-- A block comes into the instruction cache: 64 sets of four, the oldest of a full set going (R229). -/
def CoreSt.fetchBlock (k : CoreSt) (b : Nat) : CoreSt :=
  if k.icache.contains b then k
  else
    let mine := k.icache.filter fun x => x % 64 = b % 64
    let gone := if mine.length < 4 then none else mine.head?
    { k with icache := k.icache.filter (fun x => some x ≠ gone) ++ [b] }

/-! ## The directory (15 R340, R341) -/

/-- A line's directory entry. -/
def State.entry (s : State) (line : Nat) : DirEntry := (FMap.find s.coh.dir line).getD {}

/-- Put a directory entry; a line in I without poison is not listed. -/
def State.setEntry (s : State) (line : Nat) (e : DirEntry) : State :=
  { s with coh := { s.coh with dir :=
      if e.st = .i ∧ !e.poison then FMap.erase s.coh.dir line else FMap.put s.coh.dir line e } }

/-- One die has the only current data, or dirty data. -/
def DirEntry.owned (e : DirEntry) : Bool := e.st == .e || e.st == .m || e.st == .o

/-- A die holds a copy. -/
def DirEntry.holds (e : DirEntry) (d : Nat) : Bool :=
  ((e.st == .s || e.st == .o) && e.sharers.getLsbD d) || (e.owned && e.owner == d)

/-- The owner gives its copy up: S with the sharers left, or I. -/
def DirEntry.evicted (e : DirEntry) : DirEntry :=
  { e with st := if e.sharers = 0 then .i else .s, owner := 0, written := false }

/-- OWNER's data is in memory, and it keeps a clean copy: S with it in SHARERS. -/
def DirEntry.recalled (e : DirEntry) : DirEntry :=
  if e.owned then { e with st := .s, sharers := e.sharers ||| ((1#8) <<< e.owner), owner := 0, written := false } else e

/-- A die other than the home has a copy of a line in its L2: one that the directory tracks, or, where `frozen` says that the
line is sealed, an untracked replica (10 R245). -/
def State.hasCopy (s : State) (die line : Nat) (frozen : Bool) : Bool :=
  (s.die die).l2.contains line && ((s.entry line).holds die || (frozen && !(s.entry line).owned))

/-- A die's L2 gives a line up: WriteBack or CleanEvict of one that it owns, after which its L1s hold it no longer (the
model's choice, notes/assumptions/33.md), and silence for any other. The data of a WriteBack was written in a generation
that its page's tag has reached (notes/assumptions/41.md), so that the home has nothing to copy for it (16 R364). -/
def State.l2Evict (s : State) (die line : Nat) : State :=
  let s := s.updDie die fun d => { d with l2 := d.l2.filter (· ≠ line) }
  let e := s.entry line
  if e.owned && e.owner == die then
    ((s.exchange (sliceUnit die line :: homeUnits line)).dropL1 die line).setEntry line e.evicted
  else s

/-- A die's L2 can give a line up now: one that it owns goes to its home, which it must reach and which must have no
invalidation of the line outstanding (15 R341, R344). -/
def State.evictable (s : State) (die line : Nat) : Bool :=
  !((s.entry line).owned && (s.entry line).owner == die) ||
    (!s.transient line && s.dieUp (homeDie (line * 64)) && s.reach die (homeDie (line * 64)))

/-- Lines of a die's L2 in the set of a line. -/
def State.l2Set (s : State) (die line : Nat) : List Nat := (s.die die).l2.filter (sameL2Set line)

/-- A die's L2 has room for a line: it holds it, or a way of the set is free, or one of its lines can go. -/
def State.l2Room (s : State) (die line : Nat) : Bool :=
  (s.die die).l2.contains line || decide ((s.l2Set die line).length < 16) || (s.l2Set die line).any (s.evictable die)

/-- A die's L2 takes a line; of a full set of 16 the oldest line that can go goes. Without room the line is served and not
kept. -/
def State.l2Fill (s : State) (die line : Nat) : State :=
  let keep := fun (s : State) => s.updDie die fun d => { d with l2 := d.l2 ++ [line] }
  if (s.die die).l2.contains line then s
  else if (s.l2Set die line).length < 16 then keep s
  else match (s.l2Set die line).find? (s.evictable die) with
    | some v => keep (s.l2Evict die v)
    | none => s

/-- The use of a line finds its errors (19 R425, R426): a latent uncorrectable one is counted and the line is poisoned; one that
ECC corrects is counted, and the corrected data is written back. -/
def State.detect (s : State) (line : Nat) : State :=
  if s.latent.contains line then
    { (s.updDie (homeDie (line * 64)) fun d => { d with eccUnc := satInc d.eccUnc }) with
      latent := s.latent.filter (fun l => l ≠ line), poisoned := line :: s.poisoned }
  else if s.soft.contains line then
    { (s.updDie (homeDie (line * 64)) fun d => { d with eccCor := satInc d.eccCor }) with soft := s.soft.filter (fun l => l ≠ line) }
  else s

/-- The lines that `n` bytes cover are used. -/
def State.detectAt (s : State) (pa n : Nat) : State :=
  if s.latent.isEmpty && s.soft.isEmpty then s else (linesIn pa n).foldl State.detect s

/-- A write of a whole line clears its errors (19 R426, 15 R347). -/
def State.cleanLine (s : State) (line : Nat) : State :=
  { s with poisoned := s.poisoned.filter (· ≠ line), latent := s.latent.filter (· ≠ line), soft := s.soft.filter (· ≠ line),
           coh := { s.coh with dir := clearPoison s.coh.dir line } }

/-- A line's data is an uncorrectable error from now on (19 R426). -/
def State.poisonLine (s : State) (line : Nat) : State := { s with poisoned := line :: s.poisoned.filter (· ≠ line) }

/-! ## When the home may serve an access (15 R341, R342, R352, R353) -/

/-- Bias bit of a page of device memory (18 R414). -/
def State.biasBit (s : State) (page : Nat) : Bool :=
  s.xl.biasBase != 0 && (s.readN (s.xl.biasBase.toNat + page / 8) 1) / 2 ^ (page % 8) % 2 == 1

/-- Whether the home may serve a device access to a line now: its page is not flipping, and under host bias the host has
answered BISnpInv for the line, or BISnpData where the access reads (R352, R353). -/
def State.served (s : State) (line : Nat) (writes : Bool) : Bool :=
  !(s.coh.flips.any fun f => f.page = line / 64) &&
    (!s.biasBit (line / 64) || s.coh.snooped.contains (line, true) || (!writes && s.coh.snooped.contains (line, false)))

/-- The home serves a device access: the host's answer is used up. -/
def State.useSnoop (s : State) (line : Nat) : State :=
  { s with coh := { s.coh with snooped := s.coh.snooped.filter (·.1 ≠ line) } }

/-- Every access of the request has been performed. -/
def Req.done (r : Req) : Bool := r.accs.all (·.performed)

/-- Every request of a list is performed. -/
def State.reqsDone (s : State) (ids : List Nat) : Bool := s.fly.reqs.all fun r => !ids.contains r.id || r.done

/-- A release that was performed early wrote some of `n` bytes from `pa`. -/
def EarlyRel.touches (e : EarlyRel) (pa n : Nat) : Bool := decide (e.pa < pa + n) && decide (pa < e.pa + e.n)

/-- No release has written in the line before what it orders is performed (14 R331): device memory shows an engine, a peer and
the host nothing of it until then. -/
def State.earlyFree (s : State) (line : Nat) : Bool :=
  s.fly.early.all fun e => !e.touches (64 * line) 64 || s.reqsDone e.ids

/-- Memory is current at the home of a line, and the line is in no transient state (R341). -/
def State.lineAtHome (s : State) (line : Nat) : Bool :=
  s.dieUp (homeDie (line * 64)) && !s.transient line && !(s.entry line).owned

/-- A read at the home slice can be served now. -/
def State.lineCurrent (s : State) (line : Nat) : Bool := s.served line false && s.lineAtHome line && s.earlyFree line

/-- An operation at the home slice can be performed now: no remote copy is left, and no L1 of the home die may hold the
line (R341, R342, 10 R243). -/
def State.lineFree (s : State) (line : Nat) : Bool :=
  s.dieUp (homeDie (line * 64)) && s.served line true && !s.transient line && (s.entry line).st == .i &&
    (s.bucketCores (homeDie (line * 64)) line).isEmpty

/-! ## Generations: registers, tags and copies (16 R358, R360, R364 to R366) -/

/-- The generation that a page's tag names (R358). -/
def Gens.tagOf (g : Gens) (page : Nat) : Nat := Nat.max g.base ((FMap.find g.tag page).getD g.base)

/-- The line of the tag area that holds a page's tag (10 R231, R358). -/
def tagLineOf (page : Nat) : Nat := page / 2 ^ 24 * 2 ^ 30 + (2 ^ 30 - 2 ^ 16) + page % 2 ^ 24 / 256

/-- Set a page's tag. -/
def Gens.setTag (g : Gens) (page t : Nat) : Gens := { g with tag := FMap.put g.tag page t }

/-- Generations whose images are kept: the retained ones, and the one that an advance in progress closes (R369). -/
def Gens.keeps (g : Gens) : List Nat := g.retained.map (·.gen) ++ g.advance.toList.map (·.rec_.gen)

/-- Some kept generation lies in `lo` to `hi - 1`. -/
def Gens.needs (g : Gens) (lo hi : Nat) : Bool := g.keeps.any fun n => decide (lo ≤ n ∧ n < hi)

/-- Frames of one stack's share of the shadow pool (R366). -/
def Gens.shareFrames (g : Gens) : Nat := g.poolGib * 2 ^ 30 / 4096 / 16

/-- Shadow frames of a stack in use. -/
def Gens.used (g : Gens) (stack : Nat) : Nat := (g.shadows.filter fun f => f.page / 2 ^ 24 = stack).length

/-- Free shadow frames in all shares, POOLFREE (Table 16.2). -/
def Gens.poolFree (g : Gens) : Nat := g.poolGib * 2 ^ 18 - g.shadows.length

/-- The page lies in its stack's share of the shadow pool, directly below the tag area (R366). -/
def Gens.inShare (g : Gens) (page : Nat) : Bool :=
  decide (page < 2 ^ 28) && decide (page % 2 ^ 24 < tagBase) && decide (tagBase ≤ page % 2 ^ 24 + g.shareFrames)

/-- The page is a frame of the splinter pool: one of those that SPLBASE lists, or one taken from it (18 R410). -/
def State.inSplinterPool (s : State) (page : Nat) : Bool :=
  s.xl.splPages.contains page ||
    (List.range s.xl.splCnt.toNat).any fun i => s.readN (s.xl.splBase.toNat + 8 * i) 8 / 4096 == page

/-- Device memory that keeps generations: not the tag area, the shadow pool or the splinter pool (R358). -/
def State.tagged (s : State) (page : Nat) : Bool :=
  decide (page < 2 ^ 28) && !inTagArea page && !s.gen.inShare page && !s.inSplinterPool page

/-- The lowest free frame of a stack's share. -/
def Gens.freeFrame (g : Gens) (stack : Nat) : Option Nat :=
  if g.shareFrames ≤ g.used stack then none
  else
    let first := 2 ^ 24 * stack + tagBase - g.shareFrames
    ((List.range (g.used stack + 1)).map (first + ·)).find? fun f => !g.shadows.any fun x => x.frame = f

/-- Shadow frames that are still needed (R365): one whose range holds a kept generation for which the spool has not drained
the page. -/
def Gens.freeFrames (g : Gens) : Gens :=
  { g with shadows := g.shadows.filter fun f => (g.keeps.any fun n => decide (f.lo ≤ n) && decide (n ≤ f.hi) &&
      !(g.retained.any fun r => r.gen = n && r.passed.contains f.page)) }

/-- A page's bytes with another page's in their place. -/
def copyPage (m : FMap Byte) (src dst : Nat) : FMap Byte :=
  (m.filter fun e => e.1 / 4096 = src).foldl (fun m e => FMap.put m (4096 * dst + e.1 % 4096) e.2)
    (m.filter fun e => e.1 / 4096 ≠ dst)

/-- Lines of a page. -/
def pageLines (page : Nat) : List Nat := (List.range 64).map (64 * page + ·)

/-- Directory entries of a page with a remote owner, by line. -/
def State.ownedIn (s : State) (page : Nat) : FMap DirEntry := s.coh.dir.filter fun e => e.1 / 64 = page && e.2.owned

/-- The home can recall every remote dirty copy of a page: it reaches the owners, and none has fenced itself (15 R344, R345). -/
def State.recallable (s : State) (page : Nat) : Bool :=
  (s.ownedIn page).all fun e => s.dieUp e.2.owner && s.reach (homeDie (page * 4096)) e.2.owner

/-- The remote dirty copies of a page are in memory (R364, R373). -/
def State.recallPage (s : State) (page : Nat) : State :=
  (s.ownedIn page).foldl
    (fun (s : State) e => (s.setEntry e.1 e.2.recalled).exchange (sliceUnit e.2.owner e.1 :: homeUnits e.1)) s

/-- Lines of a page that cannot be read, counted from its first. -/
def State.badLines (s : State) (page : Nat) : List Nat := (List.range 64).filter fun k => s.badLine (64 * page + k)

/-- Copy a page to a frame of its share, for generations `lo` to `hi` (R364). The frame's own lines are written whole. -/
def State.copyTo (s : State) (page frame lo hi : Nat) : State :=
  let s := (s.recallPage page).detectAt (4096 * page) 4096
  let f : Shadow := { frame := frame, page := page, lo := lo, hi := hi, bad := s.badLines page }
  let s := (pageLines frame).foldl State.cleanLine s
  { s with mem := copyPage s.mem page frame, gen := { s.gen with shadows := f :: s.gen.shadows } }

/-- Tags whose line has an uncorrectable error are used: the retained generations are lost, and what they would have needed is
needed no more (R374). -/
def State.useTags (s : State) (lines : List Nat) : State :=
  { s with gen := { s.gen with tagLost := s.gen.tagLost ++ lines.filter fun l => s.latent.contains l && !s.gen.tagLost.contains l } }

/-- A write of generation `g` to a page needs a copy of it first (R364). -/
def State.needsCopy (s : State) (g page : Nat) (sx : Bool) : Bool :=
  !sx && s.tagged page && !s.latent.contains (tagLineOf page) && decide (s.gen.tagOf page < g) && s.gen.needs (s.gen.tagOf page) g

/-- Prepare a write of generation `g` to a page (R364): retag it, or copy it first into a shadow frame of its stack's share;
none where a copy is needed and the share is exhausted. A copy that nothing needs any more is freed at once (R365). -/
def State.cowAt (s : State) (g page : Nat) (sx : Bool) : Option State :=
  let t := s.gen.tagOf page
  if sx || !s.tagged page then some s
  else if s.latent.contains (tagLineOf page) then some (s.useTags [tagLineOf page])
  else if decide (g ≤ t) then some s
  else if !s.gen.needs t g then some { s with gen := s.gen.setTag page g }
  else
    match s.gen.freeFrame (page / 2 ^ 24) with
    | none => none
    | some f =>
      let s := s.copyTo page f t (g - 1)
      some { s with gen := (s.gen.setTag page g).freeFrames }

/-! ## Writes at the home -/

/-- A write waits for a shadow frame. -/
def Gens.awaits (g : Gens) (w : FrameWait) : Bool := g.copyWait.any fun x => x.who = w.who && x.page = w.page

/-- A write begins to wait for a shadow frame (R367). -/
def State.noteFrame (s : State) (w : FrameWait) : State :=
  if s.gen.awaits w then s else { s with gen := { s.gen with copyWait := s.gen.copyWait ++ [w] } }

/-- A write waits no longer. -/
def State.frameDone (s : State) (who : Writer) : State :=
  { s with gen := { s.gen with copyWait := s.gen.copyWait.filter fun x => x.who ≠ who } }

/-- How a write at the home goes: performed, or it waits for a shadow frame, or for its lines. -/
inductive Written where
  | done (s : State)
  | frame
  | wait

/-- A write to a stack whose die is quarantined is discarded and posted (15 R347). -/
def State.lostStack (s : State) (pa : Nat) : Bool := s.isDevice pa && s.coh.quar.getLsbD (homeDie pa)

/-- Prepare the page of a write of some units and perform it, where its page allows it: a page that is to be copied waits for
its dirty lines. -/
def State.prepared (s : State) (us : List Nat) (page : Nat) (sx : Bool) (k : State → State) : Written :=
  if s.needsCopy (s.gen.genAt us) page sx && !s.recallable page then .wait
  else match s.cowAt (s.gen.genAt us) page sx with
    | some t => .done (k (t.exchange us))
    | none => .frame

/-- A write of bytes of one page at its home, by an engine, a peer or the host (15 R341, 16 R361): by an engine of a core
where `core` names one. -/
def State.homeWrite (s : State) (ctx core pa : Nat) (bs : List Byte) (sx : Bool) : Written :=
  let ls := linesIn pa bs.length
  let from_ := if core < 2048 then [core] else []
  if s.lostStack pa then .done (s.post 0x0A 0 0 ctx core (BitVec.ofNat 64 pa) 0)
  else if !ls.all (fun l => s.lineFree l && s.earlyFree l) then .wait
  else s.prepared (from_ ++ ls.flatMap homeUnits) (pa / 4096) sx fun t => ls.foldl State.useSnoop (t.store pa bs)

end Sys2Proof.Machine
end

