-- ==== Sys2Proof/Machine/Flags.lean ====
section
/-! DEFINITION. The flags of FLAGS (04_register_state.md Table 4.3) and every integer flag computation: checked
arithmetic (05 R104), saturation (R117), division by zero (R118), predicates from carries (R113). The flags of
rounding are computed with the rounding itself, in Num.lean. -/

namespace Sys2Proof.Machine

/-- NV, bit 0. -/
def flagNV : Nat := 0x1
/-- DZ, bit 1. -/
def flagDZ : Nat := 0x2
/-- OF, bit 2. -/
def flagOF : Nat := 0x4
/-- UF, bit 3. -/
def flagUF : Nat := 0x8
/-- NX, bit 4. -/
def flagNX : Nat := 0x10
/-- SAT, bit 5. -/
def flagSAT : Nat := 0x20
/-- IV, bit 6. -/
def flagIV : Nat := 0x40
/-- PR, bit 7. -/
def flagPR : Nat := 0x80
/-- UV, bit 8. -/
def flagUV : Nat := 0x100
/-- LD, bit 9. -/
def flagLD : Nat := 0x200
/-- MC, bit 10. -/
def flagMC : Nat := 0x400

/-- A set of flags when a condition holds. -/
def flagIf (b : Bool) (f : Nat) : Nat := if b then f else 0

/-- OR flags into the group's FLAGS (R89), as an instruction of one of its splits does. -/
def Group.setFlags (g : Group) (f : Nat) : Group :=
  { g with flags := g.flags ||| BitVec.ofNat 32 f, recent := g.recent ||| BitVec.ofNat 32 f,
           sync := g.sync ||| BitVec.ofNat 32 f }

/-- A completion sets flags: a `tfence` that has begun to wait does not see them (R90). -/
def Group.raiseFlags (g : Group) (f : Nat) : Group :=
  { g with flags := g.flags ||| BitVec.ofNat 32 f, recent := g.recent ||| BitVec.ofNat 32 f }

/-- Splits that wait at a `tfence` have seen the flags set by splits until now. -/
def Group.foldSeen (g : Group) : Group :=
  { (g.mapSplits fun p => { p with seen := p.seen.map (· ||| g.sync) }) with sync := 0 }

/-- The flags that a waiting `tfence` sees when it goes on (09 R209): those of FLAGS that no completion alone has set since. -/
def Group.seenBy (g : Group) (p : Split) : Word :=
  match p.seen with
  | some w => g.flags &&& (w ||| g.sync)
  | none => g.flags

/-- IV of checked arithmetic (R104): `sx` is the exact result over signed sources, `ux` over unsigned sources. -/
def checkIV (ck : Nat) (sx ux : Int) : Nat :=
  if ck = 1 then flagIf (decide (sx < -2 ^ 31 ∨ 2 ^ 31 ≤ sx)) flagIV
  else if ck = 2 then flagIf (decide (ux < 0 ∨ 2 ^ 32 ≤ ux)) flagIV
  else 0

/-- IV of `iabs` and `ineg` (R116): CK 1 and the source is 0x8000_0000. -/
def checkMinIV (ck : Nat) (a : Nat) : Nat := flagIf (decide (ck = 1 ∧ a = 2 ^ 31)) flagIV

/-- The clamp of `iadds`, `isubs` and the dot products, and SAT when it changes the result (R117, R155). -/
def clampSAT (x lo hi : Int) : Int × Nat := (satI x lo hi, flagIf (decide (satI x lo hi ≠ x)) flagSAT)

/-- DZ of `idivn` and `iremn` (R118). -/
def divideDZ (b : Nat) : Nat := flagIf (b == 0) flagDZ

/-- Carry out of `iaddc` (R113). -/
def carryOut (t : Nat) : Bool := decide (2 ^ 32 ≤ t)

/-- Borrow out of `isubb` (R113). -/
def borrowOut (t : Int) : Bool := decide (t < 0)

/-- The bits of FLAGS that `swr` stores (Table 5.2). -/
def flagsMask : Word := 0x7FF#32
/-- The bits of TEN that `swr` and a launch store (Table 4.3). -/
def tenMask : Word := 0x107FF#32

end Sys2Proof.Machine
end

