-- ==== Sys2Proof/Machine/Operands.lean ====
section
/-! DEFINITION. Every operand form: participating lanes (R21, R47), direct fields with rotation, indexed fields, pairs
and runs (R44, R46, R80 to R84), small immediates, the uniform bit (R23); the checks of stages 2 to 4 (R202); and the
shared shape of the instructions that work on a thread's own registers. -/

namespace Sys2Proof.Machine

/-! ## Registers of a thread -/

/-- A v-register (R78). -/
def Thread.reg (t : Thread) (r : Nat) : Word := FMap.get 0#32 t.v r

/-- Write a v-register. -/
def Thread.setReg (t : Thread) (r : Nat) (w : Word) : Thread := { t with v := FMap.set 0#32 t.v r w }

/-- The value of a run of registers, the first register lowest (R3, R292). -/
def Thread.regsVal (t : Thread) : List Nat → Nat
  | [] => 0
  | r :: rs => (t.reg r).toNat + 2 ^ 32 * t.regsVal rs

/-- Write a value into a run of registers. -/
def Thread.setRegs (t : Thread) : List Nat → Nat → Thread
  | [], _ => t
  | r :: rs, n => (t.setReg r (BitVec.ofNat 32 n)).setRegs rs (n / 2 ^ 32)

/-- A register is empty (R52). -/
def Thread.isEmpty (t : Thread) (r : Nat) : Bool := t.empty.getLsbD r

/-- Predicate k; p7 reads 1 (R85). -/
def Thread.pred (t : Thread) (k : Nat) : Bool := k = 7 || t.p.getLsbD k

/-- Write predicate k; a write to p7 changes nothing (R85). -/
def Thread.setPred (t : Thread) (k : Nat) (b : Bool) : Thread :=
  if k < 7 then { t with p := if b then t.p ||| ((1#7) <<< k) else t.p &&& ~~~((1#7) <<< k) } else t

/-- x_k (R82). -/
def Thread.xreg (t : Thread) (k : Nat) : Byte := FMap.get 0#8 t.x k

/-- Write x_k. -/
def Thread.setX (t : Thread) (k : Nat) (b : Byte) : Thread := { t with x := FMap.set 0#8 t.x k b }

/-! ## Operand fields -/

/-- The storage register of a direct field under rotation (R80). -/
def rotated (h : Header) (rrb n : Nat) : Nat :=
  if h.rotSize ≠ 0 ∧ h.rotBase ≤ n ∧ n < h.rotBase + h.rotSize then h.rotBase + (n - h.rotBase + rrb) % h.rotSize
  else n

/-- What a field names in one thread: storage registers, an immediate, or the code of a failed check. -/
inductive Named where
  | regs (rs : List Nat)
  | imm
  | bad (code : Nat)
  deriving DecidableEq, Repr

/-- RESOURCE, 0x02. -/
def cRESOURCE : Nat := 0x02
/-- REGIDX, 0x03. -/
def cREGIDX : Nat := 0x03

/-- The registers that a field of `w` registers names in a thread (R44, R46, R80, R82). `rot` applies rotation to each
register of a direct run; `al` is the multiple that the first register must be. -/
def nameRegs (h : Header) (rrb : Nat) (t : Thread) (x : Fld) (w al : Nat) (rot : Bool) : Named :=
  match x.mode with
  | .direct =>
    if x.f.toNat + w > h.regs then .bad cRESOURCE
    else .regs ((List.range w).map fun i => if rot then rotated h rrb (x.f.toNat + i) else x.f.toNat + i)
  | .indexed =>
    let n := (t.xreg (x.f.toNat % 4)).toNat + x.f.toNat / 4
    if n % al ≠ 0 ∨ n + w > h.regs then .bad cREGIDX else .regs ((List.range w).map (n + ·))
  | .small => .imm

/-- One register operand of an instruction. -/
structure Slot where
  fld : Fld
  w : Nat
  al : Nat
  reads : Bool
  writes : Bool
  rot : Bool
  deriving DecidableEq, Repr

/-- The register operand that a field kind makes, if it makes one. -/
def slotOf (k : Opnd) (x : Fld) : Option Slot :=
  match k with
  | .src w | .srcReg w => some { fld := x, w := w, al := w, reads := true, writes := false, rot := true }
  | .dst w => some { fld := x, w := w, al := w, reads := false, writes := true, rot := true }
  | .upd w => some { fld := x, w := w, al := w, reads := true, writes := true, rot := true }
  | .acc w => some { fld := x, w := w, al := 1, reads := true, writes := true, rot := true }
  | .stor w _ => some { fld := x, w := w, al := w, reads := false, writes := false, rot := false }
  | .unused | .num _ | .raw _ => none

/-- The register operands of an instruction. -/
def slotsOf (i : Instr) : List Slot :=
  [slotOf i.info.d i.view.d, slotOf i.info.a i.view.a, slotOf i.info.b i.view.b, slotOf i.info.c i.view.c].filterMap id

/-! ## Participating lanes and the uniform bit -/

/-- The guard of a thread (R41, R47). -/
def guardOn (t : Thread) (gd : BitVec 3) : Bool := t.pred gd.toNat

/-- Active lanes of a split. -/
def activeLanes (g : Group) (p : Split) : List Nat := maskLanes (p.active &&& ~~~g.dead)

/-- Lanes that execute: active, guard true, and unfinished where an earlier issue finished others (R47, R203). -/
def execLanes (g : Group) (p : Split) (gd : BitVec 3) : List Nat :=
  (activeLanes g p).filter fun l => guardOn (g.thread l) gd && (match p.only with | some m => m.getLsbD l | none => true)

/-- UCHK of TEN (Table 4.3). -/
def uchk (g : Group) : Bool := g.ten.getLsbD 16

/-- Instructions of class A or M on which U has no effect: `lget` and `lset` (R208), `enq` (R385), `snapq` (R368) and
`pmc` (R424). -/
def ignoresU (i : Instr) : Bool :=
  i.info.op == 0x11 || i.info.op == 0x12 || i.info.op == 0xD3 || i.info.op == 0xD9 || i.info.op == 0xE3

/-- U has effect on classes A, W, F and M alone (R23), and not on every row of these. -/
def uniform (i : Instr) : Bool :=
  i.view.u && !ignoresU i && (match i.info.tm with | .a | .w | .f | .m => true | .p | .c => false)

/-- Lanes whose sources the track reads (R23, R53, R83). -/
def readLanes (g : Group) (i : Instr) (ls : List Nat) : List Nat := if uniform i && !uchk g then ls.take 1 else ls

/-! ## Stages 2 to 4 -/

/-- ILLEGAL, 0x01. -/
def cILLEGAL : Nat := 0x01
/-- EMPTY, 0x04. -/
def cEMPTY : Nat := 0x04

/-- Lanes at which a register number of an operand is out of range, with the code (stage 3). -/
def badNumbers (h : Header) (g : Group) (i : Instr) (ls : List Nat) : List (Nat × Nat) :=
  (slotsOf i).flatMap fun sl =>
    (if sl.writes || !sl.reads then ls else readLanes g i ls).filterMap fun l =>
      match nameRegs h g.rrb (g.thread l) sl.fld sl.w sl.al sl.rot with
      | .bad code => some (code, l)
      | _ => none

/-- An empty register that an instruction reads or writes: the lane that executes, the lane that holds the register, and
whether an empty-trap bit covers it. -/
structure EmptyReg where
  lane : Nat
  holder : Nat
  reg : Nat
  trap : Bool
  deriving DecidableEq, Repr

/-- Empty registers of the executing lanes that the instruction reads or writes. -/
def empties (h : Header) (g : Group) (i : Instr) (ls : List Nat) : List EmptyReg :=
  (slotsOf i).flatMap fun sl =>
    (if sl.writes then ls else if sl.reads then readLanes g i ls else []).flatMap fun l =>
      match nameRegs h g.rrb (g.thread l) sl.fld sl.w sl.al sl.rot with
      | .regs rs =>
        let t := g.thread l
        (rs.filter t.isEmpty).map fun r =>
          { lane := l, holder := l, reg := r, trap := sl.reads && sl.fld.trap && (readLanes g i ls).contains l }
      | _ => []

/-- The lowest lane of a list of lanes, or lane 0. -/
def lowLane (ls : List Nat) : Nat := ls.foldl Nat.min 31

/-- A trap of the instruction being issued. -/
def trapOf (c : Cur) (code detail : Nat) (lanes : List Nat) (info : DWord) : Trap :=
  { code := code, detail := detail, elected := lowLane lanes, lanes := maskOf lanes, info := info, w0 := c.w0, w1 := c.w1 }

/-- Instructions that are ILLEGAL in handler mode (09 R206). -/
def bannedInHandler (i : Instr) : Bool :=
  i.info.cls == .pan || (decide (0x09 ≤ i.info.op) && decide (i.info.op ≤ 0x0F)) ||
    (decide (0x13 ≤ i.info.op) && decide (i.info.op ≤ 0x15)) || (decide (0xD0 ≤ i.info.op) && decide (i.info.op ≤ 0xD4))

/-- A selector that `srd` accepts (Table 4.5). -/
def srdLegal (handler : Bool) (sel : Nat) : Bool :=
  decide (sel ≤ 0x1E) || (handler && decide (0x30 ≤ sel) && decide (sel ≤ 0x3F))

/-- A selector that `swr` accepts: those whose Access is RW (Table 4.5). -/
def swrLegal (handler : Bool) (sel : Nat) : Bool :=
  (decide (0x19 ≤ sel) && decide (sel ≤ 0x1C)) || (handler && decide (0x30 ≤ sel) && decide (sel ≤ 0x3F))

/-- What stage 2 decides beyond the word's own form: handler-mode rules, special-register selectors, the place of a
call among dictionary codes (R93, R94, R171, R206, R208). -/
def contextLegal (c : Cur) (g : Group) (i : Instr) : Bool :=
  (if g.handler.isSome then !bannedInHandler i else !(decide (0x10 ≤ i.info.op) && decide (i.info.op ≤ 0x12))) &&
    (if i.info.op = 0x22 then srdLegal g.handler.isSome i.view.a.f.toNat
     else if i.info.op = 0x23 then swrLegal g.handler.isSome i.view.d.f.toNat else true) &&
    !((i.info.op = 0x05 || i.info.op = 0x06) && c.secondFollows) && i.wf

/-- The code of an opcode's engine class (Table 2.3). -/
def classCode : EngineClass → Nat
  | .alu => 1
  | .sfu => 2
  | .mem => 3
  | .pan => 4
  | .ctl => 5
  | .sys => 6

/-- The instruction's class agrees with its clause's CLASS: 0 is MIX (R37). -/
def classAdmits (p : Split) (i : Instr) : Bool :=
  match p.clause with
  | some k => k.cls == 0 || k.cls == classCode i.info.cls
  | none => true

/-- What stages 2 to 4 decide. -/
inductive Gate where
  /-- the lanes that execute -/
  | go (lanes : List Nat)
  | stop (t : Trap)
  | wait (regs : List (Nat × Nat))
  deriving DecidableEq, Repr

/-- What stage 3 reports of out-of-range numbers: the lowest code, and the threads that take it. The first thread in
ascending order alone takes REGIDX (R83); every thread with it takes another code (R202). -/
def numberFault (bad : List (Nat × Nat)) : Option (Nat × List Nat) :=
  match bad with
  | [] => none
  | b :: bs =>
    let code := bs.foldl (fun k x => Nat.min k x.1) b.1
    let ls := (bad.filter fun x => x.1 = code).map (·.2)
    some (code, if code = cREGIDX then [lowLane ls] else ls)

/-- What stage 4 decides of the empty registers (R53): a trap where one covers an empty source, else the wait. -/
def fullCheck (c : Cur) (ls : List Nat) (em : List EmptyReg) : Gate :=
  match em.filter (·.trap) with
  | e :: es => .stop (trapOf c cEMPTY 0 ((e :: es).map (·.lane)) 0)
  | [] => if em.isEmpty then .go ls else .wait (em.map fun e => (e.holder, e.reg))

/-- The group with the register rotation that the issue of the split's instruction resolves its fields by: a replay keeps
that of its first issue (R81). -/
def Group.asIssued (g : Group) (p : Split) : Group :=
  match p.replay with
  | some y => { g with rrb := y.rrb }
  | none => g

/-- Stages 2, 3 and 4 for an instruction (R202), with what else its entry checks in stage 3 (codes and lanes) and in
stage 4 (registers). A replay checks no full bit again: its sources were full at the issue and its destinations stay
empty until it writes them (R54). -/
def gateWith (h : Header) (c : Cur) (g : Group) (p : Split) (i : Instr) (extra : List Nat → List (Nat × Nat))
    (more : List Nat → List EmptyReg) : Gate :=
  if !contextLegal c g i || !classAdmits p i then .stop (trapOf c cILLEGAL 0 ((activeLanes g p).take 1) 0)
  else
    let ls := execLanes g p i.view.g
    match numberFault (badNumbers h g i ls ++ extra ls) with
    | some b => .stop (trapOf c b.1 0 b.2 0)
    | none => if p.replay.isSome then .go ls else fullCheck c ls (empties h g i ls ++ more ls)

/-- Stages 2, 3 and 4 for an instruction that checks no full bit but those of its own operands. -/
def gate (h : Header) (c : Cur) (g : Group) (p : Split) (i : Instr) (extra : List Nat → List (Nat × Nat)) : Gate :=
  gateWith h c g p i extra fun _ => []

/-! ## Issue -/

/-- Track occupancy of an instruction (Table 1.6, R23); one cycle per instruction in handler mode (R206). -/
def occupancy (i : Instr) (g : Group) (n : Nat) : Nat :=
  let m := if uniform i && !uchk g then Nat.min n 1 else n
  if g.handler.isSome then 1 else
  match i.info.tm with
  | .a | .f | .m => m
  | .w => 2 * m
  | .p | .c => 1

/-- SIG after the words of an instruction (09 R213). -/
def foldWords (sig w0 w1 : Word) : Word := if w0.toNat / 2 ^ 30 = 1 then crc32c (crc32c sig w0) w1 else crc32c sig w0

/-- SIG after an instruction's fold (09 R213): not in handler mode, not for `sigchk`, not with SIGMODE 0. -/
def foldSig (h : Header) (g : Group) (c : Cur) (i : Instr) (sig : Word) : Word :=
  if !h.sigMode || g.handler.isSome || i.info.op = 0x0C then sig
  else foldWords sig c.w0 c.w1

/-- SIG folds the words and the issue is counted (R213, R422); a replay is not an issue. -/
def State.noteIssue (s : State) (c : Cur) (g : Group) (p : Split) (i : Instr) : State :=
  if p.issued then s
  else
    ((s.updSplit c.core c.gid c.split fun q => { q with sig := foldSig (s.hdr g) g c i q.sig }).count c.core 0x02 1
      (some g.ctx)).countIf (uniform i && !uchk g) c.core 0x04 1 (some g.ctx)

/-- The issue of an instruction whose checks have passed: SIG, the counters, the track's occupancy (R21 to R23, R213,
R422). -/
def State.issue (s : State) (c : Cur) (g : Group) (p : Split) (i : Instr) (n : Nat) : State :=
  let cost := occupancy i g n
  ((s.noteIssue c g p i).countIf (i.info.tm != .p && i.info.tm != .c) c.core 0x03 cost (some g.ctx)).occupy c.core c.gid
    cost

/-- Run a meaning for the split that issues; the model stops where there is none. -/
def withCur (s : State) (k : Cur → Group → Split → Out) : Out :=
  match s.cur with
  | none => .fault .noIssuer
  | some c =>
    match s.group c.core c.gid with
    | none => .fault .noIssuer
    | some g =>
      match g.split c.split with
      | none => .fault .noIssuer
      | some p => k c g p

/-- What the stages have decided: a trap, a wait, or `k` on the lanes that execute. -/
def State.pass (s : State) (c : Cur) (d : Gate) (k : List Nat → Out) : Out :=
  match d with
  | .stop t => .next (s.trap c t)
  | .wait rs => .next (s.stall c (.full rs) none)
  | .go ls => k ls

/-- Stages 2 to 4, with an entry's own checks of stage 3, then `k` on the lanes that execute. -/
def gatedWith (i : Instr) (extra : Header → List Nat → List (Nat × Nat)) (s : State)
    (k : Cur → Group → Split → List Nat → Out) : Out :=
  withCur s fun c g p => s.pass c (gate (s.hdr g) c (g.asIssued p) p i (extra (s.hdr g))) (k c g p)

/-- Stages 2 to 4, then `k` on the lanes that execute. -/
def gated (i : Instr) (s : State) (k : Cur → Group → Split → List Nat → Out) : Out :=
  gatedWith i (fun _ _ => []) s k

/-- RESOURCE for the lowest lane when a number that the word holds exceeds what the header declares (R58). -/
def resourceIf (b : Bool) (ls : List Nat) : List (Nat × Nat) :=
  if b then (ls.take 1).map fun l => (cRESOURCE, l) else []

/-! ## Reading sources -/

/-- How a small immediate widens (R44, R102, R143). -/
inductive Imm where
  | int
  | f32
  | f16
  | bf16
  /-- two halves of a packed operand -/
  | f16x2
  | bf16x2
  deriving DecidableEq, Repr

/-- An integer of magnitude 1 to 128 as a float with `m` mantissa bits, exactly. -/
def smallFloat (m bias width : Nat) (n : Int) : Nat :=
  let k := n.natAbs.log2
  if n = 0 then 0
  else (if n < 0 then 2 ^ (width - 1) else 0) + (k + bias) * 2 ^ m + (n.natAbs - 2 ^ k) * 2 ^ m / 2 ^ k

/-- A small immediate of `w` registers. -/
def immValue (v : Imm) (w : Nat) (f : Byte) : Nat :=
  let n := sextN f.toNat 8
  match v with
  | .int => wrapI n (32 * w)
  | .f32 => smallFloat 23 127 32 n
  | .f16 => smallFloat 10 15 16 n
  | .bf16 => smallFloat 7 127 16 n
  | .f16x2 => smallFloat 10 15 16 n * 65537
  | .bf16x2 => smallFloat 7 127 16 n * 65537

/-- The value of an operand field in a thread. -/
def fieldVal (h : Header) (rrb : Nat) (t : Thread) (k : Opnd) (x : Fld) (v : Imm) : Nat :=
  match slotOf k x with
  | none => x.f.toNat
  | some sl =>
    match nameRegs h rrb t x sl.w sl.al sl.rot with
    | .regs rs => t.regsVal rs
    | .imm => immValue v sl.w x.f
    | .bad _ => 0

/-- The registers that a field names in a thread. -/
def fieldRegs (h : Header) (rrb : Nat) (t : Thread) (k : Opnd) (x : Fld) : List Nat :=
  match slotOf k x with
  | none => []
  | some sl =>
    match nameRegs h rrb t x sl.w sl.al sl.rot with
    | .regs rs => rs
    | _ => []

/-- The sources of one thread. -/
structure LaneIn where
  lane : Nat
  t : Thread
  /-- the prior value of d, for the opcodes that read it -/
  d : Nat
  a : Nat
  b : Nat
  c : Nat
  deriving DecidableEq, Repr

/-- How the small immediates of each source widen. -/
structure Imms where
  a : Imm := .int
  b : Imm := .int
  c : Imm := .int
  deriving DecidableEq, Repr

/-- All sources of one thread, read before anything is written (R100). -/
def laneIn (h : Header) (g : Group) (i : Instr) (im : Imms) (l : Nat) : LaneIn :=
  let t := g.thread l
  { lane := l, t := t, d := fieldVal h g.rrb t i.info.d i.view.d .int, a := fieldVal h g.rrb t i.info.a i.view.a im.a,
    b := fieldVal h g.rrb t i.info.b i.view.b im.b, c := fieldVal h g.rrb t i.info.c i.view.c im.c }

/-- The instruction reads its field d: an updated register, an accumulator, a store's data. -/
def readsD (i : Instr) : Bool :=
  match i.info.d with
  | .upd _ | .acc _ | .src _ | .srcReg _ => true
  | .dst _ | .stor _ _ | .unused | .num _ | .raw _ => false

/-- Predicates and index registers that an instruction of class A reads in a thread (R110, R111, R113, R125 to R127,
R152). The model counts them among the operands that UCHK compares (R23 does not say; notes/assumptions/24.md). -/
def sideReads (i : Instr) (t : Thread) : List Nat :=
  let p := fun k => (t.pred k).toNat
  match i with
  | .sel f => [p f.j]
  | .iaddc f | .isubb f => if f.j = 7 then [] else [p f.j]
  | .isetp f | .isetpn f => if f.bop = 0 then [] else [p f.c.f.toNat]
  | .fsetp f => if f.fbop = 0 then [] else [p (f.c.f.toNat % 8)]
  | .plop f => [p f.a.f.toNat, p f.b.f.toNat, p f.cmp]
  | .pmov _ => (List.range 7).map p
  | .pmovE f => if f.bit 1 = 0 then (List.range 7).map p else []
  | .xadd f => [(t.xreg f.xd.toNat).toNat]
  | _ => []

/-- The source values of two threads are equal, for UV (R23). -/
def LaneIn.same (i : Instr) (x y : LaneIn) : Bool :=
  x.a = y.a && x.b = y.b && x.c = y.c && (!readsD i || x.d = y.d) && sideReads i x.t = sideReads i y.t

/-- UCHK finds that a thread's operands differ from those of the lowest executing thread (R23). -/
def differs (h : Header) (g : Group) (i : Instr) (im : Imms) (ls : List Nat) (l : Nat) : Bool :=
  uniform i && uchk g && !(laneIn h g i im (lowLane ls)).same i (laneIn h g i im l)

/-- UV when U and UCHK are set and some thread's operands differ from the lowest thread's (R23). -/
def uvFlag (h : Header) (g : Group) (i : Instr) (im : Imms) (ls : List Nat) : Nat :=
  flagIf (ls.any (differs h g i im ls)) flagUV

/-! ## Results of one thread -/

/-- What an instruction does to one thread, and the flags it sets. -/
structure LaneOut where
  d : Option Nat := none
  preds : List (Nat × Bool) := []
  x : Option (Nat × Byte) := none
  flags : Nat := 0
  deriving DecidableEq, Repr

/-- Write a thread's results: its destination registers, predicates and index registers (R100). -/
def LaneOut.commit (o : LaneOut) (rs : List Nat) (t : Thread) : Thread :=
  let t := match o.d with
    | some v => t.setRegs rs v
    | none => t
  let t := o.preds.foldl (fun t p => t.setPred p.1 p.2) t
  match o.x with
  | some (k, b) => t.setX k b
  | none => t

/-- The lane whose sources give a lane's result: its own, or the lowest one under U (R23). -/
def sourceLane (i : Instr) (ls : List Nat) (l : Nat) : Nat := if uniform i then lowLane ls else l

/-- The lanes that compute, and so set flags: the lowest alone under U. -/
def computeLanes (i : Instr) (ls : List Nat) : List Nat := if uniform i then ls.take 1 else ls

/-- The results of all executing lanes: every source is read before any destination is written. -/
def commitLanes (h : Header) (g : Group) (i : Instr) (ls : List Nat) (out : Nat → LaneOut) : Group :=
  let g' := ls.foldl (fun (acc : Group) l =>
    acc.updThread l ((out (sourceLane i ls l)).commit (fieldRegs h g.rrb (g.thread l) i.info.d i.view.d))) g
  g'.setFlags ((computeLanes i ls).foldl (fun f l => f ||| (out l).flags) 0)

/-- An instruction of class A or W that works on each thread's own registers (R100, R142): `f` gives a thread's
results from the state at issue and its sources. The split that `f` sees has folded the instruction into SIG (R213). -/
def laneOpAt (i : Instr) (im : Imms) (f : State → Cur → Group → Split → LaneIn → LaneOut) (s : State) : Out :=
  gated i s fun c g p ls =>
    let h := s.hdr g
    let s' := s.issue c g p i ls.length
    let q := { p with sig := if p.issued then p.sig else foldSig h g c i p.sig }
    let s' := s'.updGroup c.core c.gid fun g' =>
      (commitLanes h { g with splits := g'.splits } i ls fun l => f s c g q (laneIn h g i im l)).setFlags
        (uvFlag h g i im ls)
    .next (s'.advance c)

/-- `laneOpAt` where the results depend on the header, the group and the split alone. -/
def laneOp (i : Instr) (im : Imms) (f : Header → Group → Split → LaneIn → LaneOut) (s : State) : Out :=
  laneOpAt i im (fun s _ g p x => f (s.hdr g) g p x) s

/-- An instruction that works on each thread's own registers, its results depending on its sources alone. -/
def aluOp (i : Instr) (im : Imms) (f : LaneIn → LaneOut) (s : State) : Out := laneOp i im (fun _ _ _ x => f x) s

/-- A class-F instruction (R52, R118, R153): destinations are emptied at issue and each thread's result is written
`lat` cycles after its own cycle, with its flags and, where its operands differ under UCHK, with UV (Table 4.4). -/
def sfuOp (i : Instr) (im : Imms) (lat : Nat) (f : Split → LaneIn → Nat × Nat) (s : State) : Out :=
  gated i s fun c g p ls =>
    let h := s.hdr g
    let start := s.freeAt c.core c.gid
    let s := s.issue c g p i ls.length
    let reg := fun l => (fieldRegs h g.rrb (g.thread l) i.info.d i.view.d).headD 0
    let res := ls.mapIdx fun k l =>
      let r := f p (laneIn h g i im (sourceLane i ls l))
      ({ id := s.fresh + k, core := c.core, gid := c.gid, splits := (1#5) <<< c.split, lane := l, reg := reg l,
         value := BitVec.ofNat 32 r.1,
         flags := BitVec.ofNat 32 (r.2 ||| flagIf (differs h g i im ls l) flagUV),
         due := start + (if uniform i && !uchk g then 1 else k + 1) + lat } : SfuRes)
    let s := s.updGroup c.core c.gid fun g' => ls.foldl (fun (acc : Group) l => acc.updThread l (·.drain [reg l])) g'
    let s := { s with fresh := s.fresh + ls.length, fly := { s.fly with sfu := s.fly.sfu ++ res } }
    .next (s.advance c)

/-! ## Instructions that act once per split -/

/-- The value of a uniform operand: that of the lowest executing lane (R168). -/
def uniVal (h : Header) (g : Group) (k : Opnd) (x : Fld) (ls : List Nat) : Nat :=
  fieldVal h g.rrb (g.thread (lowLane ls)) k x .int

/-- UV of a uniform operand: UCHK is set and another executing lane's value differs (R168). -/
def uniUV (h : Header) (g : Group) (k : Opnd) (x : Fld) (ls : List Nat) : Nat :=
  flagIf (uchk g && ls.any fun l => fieldVal h g.rrb (g.thread l) k x .int != uniVal h g k x ls) flagUV

/-- UV over the source operands of an instruction that reads them uniformly. -/
def allUV (h : Header) (g : Group) (i : Instr) (ls : List Nat) : Nat :=
  let one := fun (k : Opnd) (x : Fld) => match k with | .src _ => uniUV h g k x ls | _ => 0
  one i.info.a i.view.a ||| one i.info.b i.view.b ||| one i.info.c i.view.c

/-- Write one value to d of every lane. -/
def Group.writeAll (g : Group) (h : Header) (i : Instr) (ls : List Nat) (v : Nat) : Group :=
  ls.foldl (fun (acc : Group) l =>
    acc.updThread l (·.setRegs (fieldRegs h g.rrb (g.thread l) i.info.d i.view.d) v)) g

/-- Trap at the lowest active lane, for the instructions that act once per split. -/
def State.trapLow (s : State) (c : Cur) (g : Group) (p : Split) (code detail : Nat) (info : DWord) : State :=
  s.trap c (trapOf c code detail ((activeLanes g p).take 1) info)

/-- A group whose live threads belong to more than one workgroup is mixed (08 R193, R465). -/
def Group.mixed (g : Group) : Bool :=
  match (g.lanes.filter fun t => !g.dead.getLsbD t.1).map (·.2.wg) with
  | [] => false
  | w :: ws => ws.any (· != w)

/-- The workgroup of a per-split event: that of the split's lowest active thread (R465, Table 14.1). -/
def wgOf (g : Group) (p : Split) : Nat := (g.thread (lowLane (activeLanes g p))).wg

/-- The workgroups of which a split holds a live thread (14 Table 14.1). -/
def wgsIn (g : Group) (p : Split) : List Nat := ((activeLanes g p).map fun l => (g.thread l).wg).eraseDups

end Sys2Proof.Machine
end

