-- ==== Sys2Proof/Machine/IntAlu.lean ====
section
/-! DEFINITION. The integer, logic, predicate and move instructions (05_integer_instructions.md): one pure function
per computation on the exact integers, and one meaning per row. -/

namespace Sys2Proof.Machine

/-! ## Results -/

/-- A 32-bit result without flags. -/
def LaneOut.val (n : Nat) : LaneOut := { d := some n }

/-- Checked arithmetic of two sources (R104, R112, R114): the wrapped result, and IV by CK. -/
def checked2 (ck : Nat) (op : Int → Int → Int) (x : LaneIn) : LaneOut :=
  { d := some (wrapI (op x.a x.b) 32), flags := checkIV ck (op (sextN x.a 32) (sextN x.b 32)) (op x.a x.b) }

/-- `imad` (R114): the low 32 bits of a * b + c, CK on the exact result. -/
def checkedMad (ck : Nat) (x : LaneIn) : LaneOut :=
  { d := some (wrapI (x.a * x.b + x.c) 32),
    flags := checkIV ck (sextN x.a 32 * sextN x.b 32 + sextN x.c 32) (x.a * x.b + x.c) }

/-- A predicate that PI names as carry-in; 7 means 0 (R113). -/
def carryIn (t : Thread) (pi : Nat) : Nat := if pi ≠ 7 ∧ t.pred pi then 1 else 0

/-- `iaddc` (R113). -/
def addCarry (po pi : Nat) (x : LaneIn) : LaneOut :=
  let t := x.a + x.b + carryIn x.t pi
  { d := some (t % 2 ^ 32), preds := if po = 7 then [] else [(po, carryOut t)] }

/-- `isubb` (R113). -/
def subBorrow (po pi : Nat) (x : LaneIn) : LaneOut :=
  let t : Int := (x.a : Int) - x.b - carryIn x.t pi
  { d := some (wrapI t 32), preds := if po = 7 then [] else [(po, borrowOut t)] }

/-- `imulh` and `imulhn` (R114): bits [63:32] of the exact product. -/
def mulHigh (signed : Bool) (x : LaneIn) : LaneOut :=
  .val (if signed then wrapI (sextN x.a 32 * sextN x.b 32 / 2 ^ 32) 32 else x.a * x.b / 2 ^ 32 % 2 ^ 32)

/-- The b operand of 64-bit arithmetic under BX (R115). -/
def ext64 (bx b : Nat) : Int := if bx = 1 then sextN b 32 else b

/-- `iadd64`, `isub64` (R115): `k` is 1 or -1. -/
def add64 (k : Int) (bx : Nat) (x : LaneIn) : LaneOut := .val (wrapI (x.a + k * ext64 bx x.b) 64)

/-- `lea` (R115): S extends b, SH scales it. -/
def leaVal (sx sh : Nat) (x : LaneIn) : LaneOut := .val (wrapI (x.a + ext64 sx x.b * 2 ^ sh) 64)

/-- `imin` to `imaxn` (R116): the source that `lt` puts first, or the other. -/
def pick (key : Nat → Int) (least : Bool) (x : LaneIn) : LaneOut :=
  .val (if least then (if key x.b < key x.a then x.b else x.a) else (if key x.a < key x.b then x.b else x.a))

/-- The signed value of a register. -/
def sgn (n : Nat) : Int := sextN n 32
/-- The unsigned value of a register. -/
def uns (n : Nat) : Int := n

/-- `iabs` (R116). -/
def absVal (ck : Nat) (x : LaneIn) : LaneOut := { d := some (sgn x.a).natAbs, flags := checkMinIV ck x.a }
/-- `ineg` (R116). -/
def negVal (ck : Nat) (x : LaneIn) : LaneOut := { d := some (wrapI (-(x.a : Int)) 32), flags := checkMinIV ck x.a }

/-- `iadds`, `isubs` (R117): `k` is 1 or -1, NS 1 is unsigned. -/
def satAdd (k : Int) (ns : Nat) (x : LaneIn) : LaneOut :=
  let r := if ns = 0 then clampSAT (sgn x.a + k * sgn x.b) (-2 ^ 31) (2 ^ 31 - 1)
    else clampSAT (x.a + k * x.b) 0 (2 ^ 32 - 1)
  { d := some (wrapI r.1 32), flags := r.2 }

/-- `idivn` (R118): the quotient and its flag. -/
def divN (x : LaneIn) : Nat × Nat := (if x.b = 0 then 2 ^ 32 - 1 else x.a / x.b, divideDZ x.b)
/-- `iremn` (R118): the remainder and its flag. -/
def remN (x : LaneIn) : Nat × Nat := (if x.b = 0 then x.a else x.a % x.b, divideDZ x.b)
/-- SFU latency of divides (R118). -/
def latDiv : Nat := 24

/-- NOT of a 32-bit value. -/
def not32 (n : Nat) : Nat := 2 ^ 32 - 1 - n % 2 ^ 32

/-- `shl` (R120). -/
def shlVal (x : LaneIn) : LaneOut := .val (if x.b < 32 then x.a * 2 ^ x.b % 2 ^ 32 else 0)
/-- `shr` (R120). -/
def shrVal (x : LaneIn) : LaneOut := .val (if x.b < 32 then x.a / 2 ^ x.b else 0)
/-- `sar` (R120). -/
def sarVal (x : LaneIn) : LaneOut := .val (wrapI (sgn x.a / 2 ^ (Nat.min x.b 31)) 32)
/-- `rotl` (R120). -/
def rotlVal (x : LaneIn) : LaneOut :=
  let m := x.b % 32
  .val ((x.a * 2 ^ m + x.a / 2 ^ (32 - m)) % 2 ^ 32)

/-- Position and length of a bit-field control word (R121). -/
def ctlPos (c : Nat) : Nat := c % 256
/-- Length of a bit-field control word (R121). -/
def ctlLen (c : Nat) : Nat := Nat.min (c / 256 % 256) 32

/-- A 32-bit value whose bit i is `f i`. -/
def bitsVal (f : Nat → Bool) : Nat := (lanes32.map fun i => if f i then 2 ^ i else 0).foldl (· + ·) 0

/-- `bfx` and `bfxs` (R121). -/
def bfxVal (signed : Bool) (x : LaneIn) : LaneOut :=
  let pos := ctlPos x.b
  let len := ctlLen x.b
  let fill := signed && x.a.testBit 31
  let at_ := fun i => if pos + i < 32 then x.a.testBit (pos + i) else fill
  .val (bitsVal fun i => if i < len then at_ i else signed && len != 0 && at_ (len - 1))

/-- `bfi` (R121). -/
def bfiVal (x : LaneIn) : LaneOut :=
  let pos := ctlPos x.c
  let len := ctlLen x.c
  .val (bitsVal fun i => if pos ≤ i ∧ i < pos + len then x.a.testBit (i - pos) else x.b.testBit i)

/-- `popc` (R122). -/
def popcVal (x : LaneIn) : LaneOut := .val (lanes32.filter fun i => x.a.testBit i).length
/-- `clz` (R122). -/
def clzVal (x : LaneIn) : LaneOut := .val (if x.a = 0 then 32 else 31 - x.a.log2)
/-- `ctz` (R122). -/
def ctzVal (x : LaneIn) : LaneOut := .val ((lanes32.find? fun i => x.a.testBit i).getD 32)
/-- `brev` (R122). -/
def brevVal (x : LaneIn) : LaneOut := .val (bitsVal fun i => x.a.testBit (31 - i))

/-- Byte j of `bysel` (R123). -/
def byselByte (a b c j : Nat) : Nat :=
  let i := c / 2 ^ (3 * j) % 8
  let y := if i < 4 then a / 256 ^ i % 256 else b / 256 ^ (i - 4) % 256
  if c.testBit (12 + j) then 0 else if c.testBit (16 + j) then (if y < 128 then 0 else 255) else y

/-- `bysel` (R123). -/
def byselVal (x : LaneIn) : LaneOut :=
  .val (((List.range 4).map fun j => byselByte x.a x.b x.c j * 256 ^ j).foldl (· + ·) 0)

/-- `lut3` (R124): the old bit of d is the high bit of the index, b the middle bit, a the low bit. -/
def lut3Val (lut : Nat) (x : LaneIn) : LaneOut :=
  .val (bitsVal fun i => lut.testBit (4 * (x.d.testBit i).toNat + 2 * (x.b.testBit i).toNat + (x.a.testBit i).toNat))

/-- CMP of two exact values (Table 5.4). -/
def cmpInt (cmp : Nat) (a b : Int) : Bool :=
  match cmp with
  | 0 => a = b
  | 1 => a ≠ b
  | 2 => decide (a < b)
  | 3 => decide (a ≤ b)
  | 4 => decide (b < a)
  | _ => decide (b ≤ a)

/-- BOP of a comparison with q (Table 5.4). -/
def combine (bop : Nat) (r q : Bool) : Bool :=
  match bop with
  | 0 => r
  | 1 => r && q
  | 2 => r || q
  | _ => r.xor q

/-- `isetp` and `isetpn` (R125). -/
def setp (f : FormE) (key : Nat → Int) (x : LaneIn) : LaneOut :=
  let q := (x.t.pred f.c.f.toNat).xor (f.bit 1 = 1)
  { preds := [(f.xd.toNat, combine f.bop (cmpInt f.cmp (key x.a) (key x.b)) q)] }

/-- `plop` (R126). -/
def plopVal (f : FormE) (x : LaneIn) : LaneOut :=
  let i := 4 * (x.t.pred f.a.f.toNat).toNat + 2 * (x.t.pred f.b.f.toNat).toNat + (x.t.pred f.cmp).toNat
  { preds := [(f.xd.toNat, f.c.f.toNat.testBit i)] }

/-- `sel` (R110). -/
def selVal (f : FormE) (x : LaneIn) : LaneOut :=
  .val (if (x.t.pred f.j).xor (f.bit 4 = 1) then x.a else x.b)

/-- `pmov` with DIR 0 (R111). -/
def predsVal (x : LaneIn) : LaneOut :=
  .val (((List.range 8).map fun k => if x.t.pred k then 2 ^ k else 0).foldl (· + ·) 0)

/-- `pmov` with DIR 1 (R111). -/
def predsFrom (mask : Nat) (x : LaneIn) : LaneOut :=
  { preds := ((List.range 7).filter mask.testBit).map fun k => (k, x.a.testBit k) }

/-! ## Special registers (R94, R96, R108, R109) -/

/-- The split whose registers `srd` reads, with its index: in handler mode the split that faulted (R96). -/
def srdSplit (c : Cur) (g : Group) (p : Split) : Nat × Split :=
  match g.handler with
  | some hd => (hd.split, (g.split hd.split).getD p)
  | none => (c.split, p)

/-- The SPLIT register (Table 4.6). -/
def splitReg (g : Group) (k : Nat) (p : Split) : Nat :=
  k + 4 * ((g.splits.filter fun e => e.1 < 4).length - 1) + 16 * p.stack.length

/-- The value of a special register (Table 4.5) for a thread in a lane. -/
def srdVal (s : State) (c : Cur) (g : Group) (p : Split) (sel lane : Nat) (t : Thread) : Nat :=
  let q := srdSplit c g p
  let w := (s.wg t.wg).getD { launch := 0, ctx := 0, core := 0, slot := 0, wgid := 0 }
  let args := match s.launch g.launch with | some l => l.lr.args.toNat | none => 0
  match sel with
  | 0x00 => t.tid.toNat
  | 0x01 => lane
  | 0x02 => c.gid
  | 0x03 => w.wgid.toNat
  | 0x04 => w.x.toNat
  | 0x05 => w.y.toNat
  | 0x06 => w.z.toNat
  | 0x07 => g.wgpos
  | 0x08 => w.stage
  | 0x09 => c.core
  | 0x0A => teamOf c.core
  | 0x0B => dieOf c.core
  | 0x0C => s.dev
  | 0x0D => args % 2 ^ 32
  | 0x0E => args / 2 ^ 32
  | 0x0F => q.2.active.toNat
  | 0x10 => g.dead.toNat
  | 0x11 => splitReg g q.1 q.2
  | 0x12 => g.keyu.toNat
  | 0x13 => g.recNo.toNat
  | 0x14 => g.nrec.toNat
  | 0x15 => s.gen.genAt [c.core]
  | 0x16 => s.now
  | 0x17 => s.clk.time
  | 0x18 => q.2.fmt.toNat
  | 0x19 => g.flags.toNat
  | 0x1A => g.ten.toNat
  | 0x1B => q.2.sig.toNat
  | 0x1C => g.rrb
  | 0x1D => g.gang.toNat
  | 0x1E => ((List.range 8).map fun k => FMap.get 0 g.tok k * 256 ^ k).foldl (· + ·) 0
  | n => (FMap.get 0#32 g.h (n - 0x30)).toNat

/-- `srd` (R108). -/
def srdOp (i : Instr) (s : State) : Out :=
  laneOpAt i {} (fun s c g p x => .val (srdVal s c g p i.view.a.f.toNat x.lane x.t)) s

/-- What `swr` stores in the group and in the split `k` that issues (Table 5.2). A flag that an event has set in the same
cycle stays set (R90). In handler mode the write waits for `rte` (R96). -/
def swrInto (h : Header) (k sel : Nat) (v : Word) (g : Group) : Group :=
  match g.handler with
  | some hd =>
    match sel with
    | 0x19 => { g with handler := some { hd with flags := some (v &&& flagsMask) } }
    | 0x1A => { g with handler := some { hd with ten := some (v &&& tenMask) } }
    | 0x1B => if h.sigMode then { g with handler := some { hd with sig := some v } } else g
    | 0x1C => { g with handler := some { hd with rrb := some (if h.rotSize = 0 then 0 else v.toNat % h.rotSize) } }
    | n => { g with h := FMap.set 0#32 g.h (n - 0x30) v }
  | none =>
    match sel with
    | 0x19 => g.writeFlags (v &&& flagsMask)
    | 0x1A => { g with ten := v &&& tenMask }
    | 0x1B => if h.sigMode then g.updSplit k fun p => { p with sig := v } else g
    | _ => { g with rrb := if h.rotSize = 0 then 0 else v.toNat % h.rotSize }

/-- `swr` (R109): the lowest executing thread's source; nothing where no thread executes. -/
def swrOp (i : Instr) (s : State) : Out :=
  gated i s fun c g p ls =>
    let h := s.hdr g
    let uv := uvFlag h g i {} ls
    let v := BitVec.ofNat 32 (uniVal h g i.info.a i.view.a ls)
    let s := s.issue c g p i ls.length
    let s := if ls.isEmpty then s else
      s.updGroup c.core c.gid fun g => swrInto h c.split i.view.d.f.toNat v (g.setFlags uv)
    .next (s.advance c)

/-! ## Meanings -/

/-- `mov`, one-word form: copies a (R106). -/
noncomputable def execMov (f : Form1) (s : State) : Out :=
  aluOp (.mov f) {} (fun x => .val x.a) s

/-- `mov`, E form: copies a (R106). -/
noncomputable def execMovE (f : FormE) (s : State) : Out :=
  aluOp (.movE f) {} (fun x => .val x.a) s

/-- `movi`: writes imm32 (R107). -/
noncomputable def execMovi (f : FormI) (s : State) : Out :=
  aluOp (.movi f) {} (fun _ => .val f.imm.toNat) s

/-- `srd`: reads a special register (R108). -/
noncomputable def execSrd (f : Form1) (s : State) : Out :=
  srdOp (.srd f) s

/-- `srd`: reads a special register (R108). -/
noncomputable def execSrdE (f : FormE) (s : State) : Out :=
  srdOp (.srdE f) s

/-- `swr`: writes a special register (R109). -/
noncomputable def execSwr (f : Form1) (s : State) : Out :=
  swrOp (.swr f) s

/-- `swr`: writes a special register (R109). -/
noncomputable def execSwrE (f : FormE) (s : State) : Out :=
  swrOp (.swrE f) s

/-- `sel`: chooses by a predicate (R110). -/
noncomputable def execSel (f : FormE) (s : State) : Out :=
  aluOp (.sel f) {} (selVal f) s

/-- `pmov`, one-word form: predicates into d (R111). -/
noncomputable def execPmov (f : Form1) (s : State) : Out :=
  aluOp (.pmov f) {} predsVal s

/-- `pmov`, E form: to or from predicates by DIR (R111). -/
noncomputable def execPmovE (f : FormE) (s : State) : Out :=
  aluOp (.pmovE f) {} (fun x => if f.bit 1 = 0 then predsVal x else predsFrom f.b.f.toNat x) s

/-- `iadd`, one-word form: a + b (R112). -/
noncomputable def execIadd (f : Form1) (s : State) : Out :=
  aluOp (.iadd f) {} (checked2 0 (· + ·)) s

/-- `iadd`, E form: a + b (R112). -/
noncomputable def execIaddE (f : FormE) (s : State) : Out :=
  aluOp (.iaddE f) {} (checked2 f.ck (· + ·)) s

/-- `isub`, one-word form: a - b (R112). -/
noncomputable def execIsub (f : Form1) (s : State) : Out :=
  aluOp (.isub f) {} (checked2 0 (· - ·)) s

/-- `isub`, E form: a - b (R112). -/
noncomputable def execIsubE (f : FormE) (s : State) : Out :=
  aluOp (.isubE f) {} (checked2 f.ck (· - ·)) s

/-- `iaddc`: adds with carry (R113). -/
noncomputable def execIaddc (f : FormE) (s : State) : Out :=
  aluOp (.iaddc f) {} (addCarry f.cmp f.j) s

/-- `isubb`: subtracts with borrow (R113). -/
noncomputable def execIsubb (f : FormE) (s : State) : Out :=
  aluOp (.isubb f) {} (subBorrow f.cmp f.j) s

/-- `imul`, one-word form: low half of a * b (R114). -/
noncomputable def execImul (f : Form1) (s : State) : Out :=
  aluOp (.imul f) {} (checked2 0 (· * ·)) s

/-- `imul`, E form: low half of a * b (R114). -/
noncomputable def execImulE (f : FormE) (s : State) : Out :=
  aluOp (.imulE f) {} (checked2 f.ck (· * ·)) s

/-- `imulh`, one-word form: high half of the signed product (R114). -/
noncomputable def execImulh (f : Form1) (s : State) : Out :=
  aluOp (.imulh f) {} (mulHigh true) s

/-- `imulh`, E form: high half of the signed product (R114). -/
noncomputable def execImulhE (f : FormE) (s : State) : Out :=
  aluOp (.imulhE f) {} (mulHigh true) s

/-- `imulhn`: high half of the unsigned product (R114). -/
noncomputable def execImulhn (f : FormE) (s : State) : Out :=
  aluOp (.imulhn f) {} (mulHigh false) s

/-- `imad`: low half of a * b + c (R114). -/
noncomputable def execImad (f : FormE) (s : State) : Out :=
  aluOp (.imad f) {} (checkedMad f.ck) s

/-- `iadd64`, one-word form: 64-bit add (R115). -/
noncomputable def execIadd64 (f : Form1) (s : State) : Out :=
  aluOp (.iadd64 f) {} (add64 1 0) s

/-- `iadd64`, E form: 64-bit add (R115). -/
noncomputable def execIadd64E (f : FormE) (s : State) : Out :=
  aluOp (.iadd64E f) {} (add64 1 f.ck) s

/-- `isub64`, one-word form: 64-bit subtract (R115). -/
noncomputable def execIsub64 (f : Form1) (s : State) : Out :=
  aluOp (.isub64 f) {} (add64 (-1) 0) s

/-- `isub64`, E form: 64-bit subtract (R115). -/
noncomputable def execIsub64E (f : FormE) (s : State) : Out :=
  aluOp (.isub64E f) {} (add64 (-1) f.ck) s

/-- `lea`: base and scaled index (R115). -/
noncomputable def execLea (f : FormE) (s : State) : Out :=
  aluOp (.lea f) {} (leaVal (f.bit 4) f.j) s

/-- `imin`, one-word form: smaller signed source (R116). -/
noncomputable def execImin (f : Form1) (s : State) : Out :=
  aluOp (.imin f) {} (pick sgn true) s

/-- `imin`, E form: smaller signed source (R116). -/
noncomputable def execIminE (f : FormE) (s : State) : Out :=
  aluOp (.iminE f) {} (pick sgn true) s

/-- `iminn`: smaller unsigned source (R116). -/
noncomputable def execIminn (f : FormE) (s : State) : Out :=
  aluOp (.iminn f) {} (pick uns true) s

/-- `imax`, one-word form: larger signed source (R116). -/
noncomputable def execImax (f : Form1) (s : State) : Out :=
  aluOp (.imax f) {} (pick sgn false) s

/-- `imax`, E form: larger signed source (R116). -/
noncomputable def execImaxE (f : FormE) (s : State) : Out :=
  aluOp (.imaxE f) {} (pick sgn false) s

/-- `imaxn`: larger unsigned source (R116). -/
noncomputable def execImaxn (f : FormE) (s : State) : Out :=
  aluOp (.imaxn f) {} (pick uns false) s

/-- `iabs`, one-word form: absolute value (R116). -/
noncomputable def execIabs (f : Form1) (s : State) : Out :=
  aluOp (.iabs f) {} (absVal 0) s

/-- `iabs`, E form: absolute value (R116). -/
noncomputable def execIabsE (f : FormE) (s : State) : Out :=
  aluOp (.iabsE f) {} (absVal f.ck) s

/-- `ineg`, one-word form: negation (R116). -/
noncomputable def execIneg (f : Form1) (s : State) : Out :=
  aluOp (.ineg f) {} (negVal 0) s

/-- `ineg`, E form: negation (R116). -/
noncomputable def execInegE (f : FormE) (s : State) : Out :=
  aluOp (.inegE f) {} (negVal f.ck) s

/-- `iadds`, one-word form: saturating add (R117). -/
noncomputable def execIadds (f : Form1) (s : State) : Out :=
  aluOp (.iadds f) {} (satAdd 1 0) s

/-- `iadds`, E form: saturating add (R117). -/
noncomputable def execIaddsE (f : FormE) (s : State) : Out :=
  aluOp (.iaddsE f) {} (satAdd 1 (f.bit 1)) s

/-- `isubs`, one-word form: saturating subtract (R117). -/
noncomputable def execIsubs (f : Form1) (s : State) : Out :=
  aluOp (.isubs f) {} (satAdd (-1) 0) s

/-- `isubs`, E form: saturating subtract (R117). -/
noncomputable def execIsubsE (f : FormE) (s : State) : Out :=
  aluOp (.isubsE f) {} (satAdd (-1) (f.bit 1)) s

/-- `idivn`, one-word form (R118). -/
noncomputable def execIdivn (f : Form1) (s : State) : Out :=
  sfuOp (.idivn f) {} latDiv (fun _ x => divN x) s

/-- `idivn`, E form (R118). -/
noncomputable def execIdivnE (f : FormE) (s : State) : Out :=
  sfuOp (.idivnE f) {} latDiv (fun _ x => divN x) s

/-- `iremn`, one-word form (R118). -/
noncomputable def execIremn (f : Form1) (s : State) : Out :=
  sfuOp (.iremn f) {} latDiv (fun _ x => remN x) s

/-- `iremn`, E form (R118). -/
noncomputable def execIremnE (f : FormE) (s : State) : Out :=
  sfuOp (.iremnE f) {} latDiv (fun _ x => remN x) s

/-- `and`, one-word form: a AND b (R119). -/
noncomputable def execAnd (f : Form1) (s : State) : Out :=
  aluOp (.and f) {} (fun x => .val (x.a &&& x.b)) s

/-- `and`, E form: a AND b (R119). -/
noncomputable def execAndE (f : FormE) (s : State) : Out :=
  aluOp (.andE f) {} (fun x => .val (x.a &&& x.b)) s

/-- `or`, one-word form: a OR b (R119). -/
noncomputable def execOr (f : Form1) (s : State) : Out :=
  aluOp (.or f) {} (fun x => .val (x.a ||| x.b)) s

/-- `or`, E form: a OR b (R119). -/
noncomputable def execOrE (f : FormE) (s : State) : Out :=
  aluOp (.orE f) {} (fun x => .val (x.a ||| x.b)) s

/-- `xor`, one-word form: a XOR b (R119). -/
noncomputable def execXor (f : Form1) (s : State) : Out :=
  aluOp (.xor f) {} (fun x => .val (x.a ^^^ x.b)) s

/-- `xor`, E form: a XOR b (R119). -/
noncomputable def execXorE (f : FormE) (s : State) : Out :=
  aluOp (.xorE f) {} (fun x => .val (x.a ^^^ x.b)) s

/-- `andn`, one-word form: a AND NOT b (R119). -/
noncomputable def execAndn (f : Form1) (s : State) : Out :=
  aluOp (.andn f) {} (fun x => .val (x.a &&& not32 x.b)) s

/-- `andn`, E form: a AND NOT b (R119). -/
noncomputable def execAndnE (f : FormE) (s : State) : Out :=
  aluOp (.andnE f) {} (fun x => .val (x.a &&& not32 x.b)) s

/-- `orn`, one-word form: a OR NOT b (R119). -/
noncomputable def execOrn (f : Form1) (s : State) : Out :=
  aluOp (.orn f) {} (fun x => .val (x.a ||| not32 x.b)) s

/-- `orn`, E form: a OR NOT b (R119). -/
noncomputable def execOrnE (f : FormE) (s : State) : Out :=
  aluOp (.ornE f) {} (fun x => .val (x.a ||| not32 x.b)) s

/-- `not`, one-word form: NOT a (R119). -/
noncomputable def execNot (f : Form1) (s : State) : Out :=
  aluOp (.not f) {} (fun x => .val (not32 x.a)) s

/-- `not`, E form: NOT a (R119). -/
noncomputable def execNotE (f : FormE) (s : State) : Out :=
  aluOp (.notE f) {} (fun x => .val (not32 x.a)) s

/-- `shl`, one-word form: shift by the whole of b (R120). -/
noncomputable def execShl (f : Form1) (s : State) : Out :=
  aluOp (.shl f) {} shlVal s

/-- `shl`, E form: shift by the whole of b (R120). -/
noncomputable def execShlE (f : FormE) (s : State) : Out :=
  aluOp (.shlE f) {} shlVal s

/-- `shr`, one-word form: shift by the whole of b (R120). -/
noncomputable def execShr (f : Form1) (s : State) : Out :=
  aluOp (.shr f) {} shrVal s

/-- `shr`, E form: shift by the whole of b (R120). -/
noncomputable def execShrE (f : FormE) (s : State) : Out :=
  aluOp (.shrE f) {} shrVal s

/-- `sar`, one-word form: shift by the whole of b (R120). -/
noncomputable def execSar (f : Form1) (s : State) : Out :=
  aluOp (.sar f) {} sarVal s

/-- `sar`, E form: shift by the whole of b (R120). -/
noncomputable def execSarE (f : FormE) (s : State) : Out :=
  aluOp (.sarE f) {} sarVal s

/-- `rotl`, one-word form: shift by the whole of b (R120). -/
noncomputable def execRotl (f : Form1) (s : State) : Out :=
  aluOp (.rotl f) {} rotlVal s

/-- `rotl`, E form: shift by the whole of b (R120). -/
noncomputable def execRotlE (f : FormE) (s : State) : Out :=
  aluOp (.rotlE f) {} rotlVal s

/-- `bfx`: unsigned bit field (R121). -/
noncomputable def execBfx (f : FormE) (s : State) : Out :=
  aluOp (.bfx f) {} (bfxVal false) s

/-- `bfxs`: signed bit field (R121). -/
noncomputable def execBfxs (f : FormE) (s : State) : Out :=
  aluOp (.bfxs f) {} (bfxVal true) s

/-- `bfi`: inserts a bit field (R121). -/
noncomputable def execBfi (f : FormE) (s : State) : Out :=
  aluOp (.bfi f) {} bfiVal s

/-- `popc`, one-word form: counts 1 bits (R122). -/
noncomputable def execPopc (f : Form1) (s : State) : Out :=
  aluOp (.popc f) {} popcVal s

/-- `popc`, E form: counts 1 bits (R122). -/
noncomputable def execPopcE (f : FormE) (s : State) : Out :=
  aluOp (.popcE f) {} popcVal s

/-- `clz`, one-word form: counts leading zeros (R122). -/
noncomputable def execClz (f : Form1) (s : State) : Out :=
  aluOp (.clz f) {} clzVal s

/-- `clz`, E form: counts leading zeros (R122). -/
noncomputable def execClzE (f : FormE) (s : State) : Out :=
  aluOp (.clzE f) {} clzVal s

/-- `ctz`, one-word form: counts trailing zeros (R122). -/
noncomputable def execCtz (f : Form1) (s : State) : Out :=
  aluOp (.ctz f) {} ctzVal s

/-- `ctz`, E form: counts trailing zeros (R122). -/
noncomputable def execCtzE (f : FormE) (s : State) : Out :=
  aluOp (.ctzE f) {} ctzVal s

/-- `brev`, one-word form: reverses the bits (R122). -/
noncomputable def execBrev (f : Form1) (s : State) : Out :=
  aluOp (.brev f) {} brevVal s

/-- `brev`, E form: reverses the bits (R122). -/
noncomputable def execBrevE (f : FormE) (s : State) : Out :=
  aluOp (.brevE f) {} brevVal s

/-- `bysel`: four bytes of eight (R123). -/
noncomputable def execBysel (f : FormE) (s : State) : Out :=
  aluOp (.bysel f) {} byselVal s

/-- `lut3`: three-input truth table (R124). -/
noncomputable def execLut3 (f : FormE) (s : State) : Out :=
  aluOp (.lut3 f) {} (lut3Val f.c.f.toNat) s

/-- `isetp`: signed compare (R125). -/
noncomputable def execIsetp (f : FormE) (s : State) : Out :=
  aluOp (.isetp f) {} (setp f sgn) s

/-- `isetpn`: unsigned compare (R125). -/
noncomputable def execIsetpn (f : FormE) (s : State) : Out :=
  aluOp (.isetpn f) {} (setp f uns) s

/-- `plop`: truth table over predicates (R126). -/
noncomputable def execPlop (f : FormE) (s : State) : Out :=
  aluOp (.plop f) {} (plopVal f) s

/-- `xmov`: writes an index register (R127). -/
noncomputable def execXmov (f : FormE) (s : State) : Out :=
  aluOp (.xmov f) {} (fun x => { x := some (f.xd.toNat, BitVec.ofNat 8 x.a) }) s

/-- `xadd`: adds to an index register (R127). -/
noncomputable def execXadd (f : FormE) (s : State) : Out :=
  aluOp (.xadd f) {} (fun x => { x := some (f.xd.toNat, x.t.xreg f.xd.toNat + BitVec.ofNat 8 x.a) }) s

end Sys2Proof.Machine
end

