-- ==== Sys2Proof/Machine/Num.lean ====
section
/-! DEFINITION. Number formats, exact values and rounding (06_number_formats.md): every format of Table 6.2, `rnd` (R133),
`sr` (R134), conversions (R135, Tables 6.4 and 6.5), and the exact functions of Table 7.3 to a precision at which their
rounding is decided (notes/assumptions/10.md). -/

namespace Sys2Proof.Machine

/-! ## Formats (R129) -/

/-- A format of Table 6.2 but E8M0. -/
structure Fmt where
  eb : Nat
  mb : Nat
  bias : Nat
  /-- encoding of the largest finite value -/
  maxCode : Nat
  inf : Bool
  nan : Option Nat
  deriving DecidableEq, Repr

/-- binary32 -/
def fp32 : Fmt := { eb := 8, mb := 23, bias := 127, maxCode := 0x7F7FFFFF, inf := true, nan := some 0x7FC00000 }
/-- binary16 -/
def fp16 : Fmt := { eb := 5, mb := 10, bias := 15, maxCode := 0x7BFF, inf := true, nan := some 0x7E00 }
/-- BF16 -/
def bf16 : Fmt := { eb := 8, mb := 7, bias := 127, maxCode := 0x7F7F, inf := true, nan := some 0x7FC0 }
/-- E4M3 -/
def e4m3 : Fmt := { eb := 4, mb := 3, bias := 7, maxCode := 0x7E, inf := false, nan := some 0x7F }
/-- E5M2 -/
def e5m2 : Fmt := { eb := 5, mb := 2, bias := 15, maxCode := 0x7B, inf := true, nan := some 0x7E }
/-- E2M1 -/
def e2m1 : Fmt := { eb := 2, mb := 1, bias := 1, maxCode := 0x7, inf := false, nan := none }

/-- Sign weight of a format's encodings. -/
def Fmt.signBit (F : Fmt) (neg : Bool) : Nat := if neg then 2 ^ (F.eb + F.mb) else 0

/-- An exact value: a NaN, an infinity, or the rational (-1)^neg * n / d with d > 0; n = 0 is a signed zero. -/
inductive FV where
  | nan (signalling : Bool)
  | inf (neg : Bool)
  | fin (neg : Bool) (n d : Nat)
  deriving DecidableEq, Repr

/-- (-1)^neg * n * 2^e. -/
def FV.dyadic (neg : Bool) (n : Nat) (e : Int) : FV :=
  if 0 ≤ e then .fin neg (n * 2 ^ e.toNat) 1 else .fin neg n (2 ^ (-e).toNat)

/-- The integer x; 0 is +0. -/
def FV.ofInt (x : Int) : FV := .fin (decide (x < 0)) x.natAbs 1

/-- The value of an encoding (R129, R130). -/
def Fmt.value (F : Fmt) (code : Nat) : FV :=
  let neg := code.testBit (F.eb + F.mb)
  let body := code % 2 ^ (F.eb + F.mb)
  let e := body / 2 ^ F.mb
  let m := body % 2 ^ F.mb
  if F.inf && e == 2 ^ F.eb - 1 then (if m = 0 then .inf neg else .nan (decide (m < 2 ^ (F.mb - 1))))
  else if F.nan = some body then .nan false
  else if e = 0 then .dyadic neg m (1 - F.bias - F.mb)
  else .dyadic neg (2 ^ F.mb + m) (e - F.bias - F.mb)

/-- The value of an E8M0 encoding. -/
def e8m0Value (x : Nat) : FV := if x = 255 then .nan false else .dyadic false 1 (x - 127)

/-- The canonical NaN; E2M1 has none and gives +0 (R135). -/
def Fmt.cnan (F : Fmt) : Nat := F.nan.getD 0

/-- NV of reading operands: one is a signalling NaN (R130). -/
def sigNV (xs : List FV) : Nat := flagIf (xs.any fun x => x == .nan true) flagNV

/-- An operand is a NaN. -/
def FV.isNan : FV → Bool
  | .nan _ => true
  | _ => false

/-- The value with its sign inverted. -/
def FV.negate : FV → FV
  | .nan s => .nan s
  | .inf s => .inf !s
  | .fin s n d => .fin (!s) n d

/-! ## Rounding (R132 to R134) -/

/-- How a value is rounded: a mode (0 RNE, 1 RZ, 2 RU, 3 RD), or stochastically with `r`; `inf` decides the overflow
result under IEEE, which no mode decides. -/
inductive Rnd where
  | mode (m : Nat)
  | sr (r : Nat) (inf : Bool)
  deriving DecidableEq, Repr

/-- Whether a value that lies `rem / den` of a step above the grid value below it in magnitude goes to the next one. -/
def Rnd.up (R : Rnd) (odd neg : Bool) (rem den : Nat) : Bool :=
  match R with
  | .mode 0 => decide (den < 2 * rem) || (2 * rem == den && odd)
  | .mode 1 => false
  | .mode 2 => rem != 0 && !neg
  | .mode _ => rem != 0 && neg
  | .sr r _ => rem != 0 && decide (r * den < rem * 2 ^ 32)

/-- Table 6.3: the overflow result is infinite. -/
def Rnd.overInf (R : Rnd) (neg : Bool) : Bool :=
  match R with
  | .mode 0 => true
  | .mode 1 => false
  | .mode 2 => !neg
  | .mode _ => neg
  | .sr _ inf => inf

/-- floor(log2 (n / d)) for n > 0. -/
def floorLog2 (n d : Nat) : Int :=
  let k : Int := (n.log2 : Int) - d.log2
  let below := if 0 ≤ k then decide (n < d * 2 ^ k.toNat) else decide (n * 2 ^ (-k).toNat < d)
  if below then k - 1 else k

/-- n / d in units of 2^e: quotient, remainder and its denominator. -/
def inUnits (n d : Nat) (e : Int) : Nat × Nat × Nat :=
  if 0 ≤ e then (n / (d * 2 ^ e.toNat), n % (d * 2 ^ e.toNat), d * 2 ^ e.toNat)
  else (n * 2 ^ (-e).toNat / d, n * 2 ^ (-e).toNat % d, d)

/-- The encoding, without sign, of the grid value that is chosen, on the grid extended above the largest finite value;
and whether it differs from n / d. -/
def roundMag (R : Rnd) (F : Fmt) (neg : Bool) (n d : Nat) : Nat × Bool :=
  let emin : Int := 1 - F.bias
  let fl := floorLog2 n d
  let e := if fl < emin then emin else fl
  let u := inUnits n d (e - F.mb)
  let q := if R.up (u.1 % 2 == 1) neg u.2.1 u.2.2 then u.1 + 1 else u.1
  ((e - emin).toNat * 2 ^ F.mb + q, u.2.1 != 0)

/-- `rnd` and `sr` (R133, R134): the encoding and the flags. A NaN gives the canonical NaN, with NV when it is
signalling, or when F has no NaN (R135). A value that lies exactly on the extended grid above the largest finite value
overflows with OF or SAT and without NX, under `sr` too, which states no encoding for it: the model's choice
(notes/assumptions/28.md). -/
def rnd (R : Rnd) (F : Fmt) (sat : Bool) (x : FV) : Nat × Nat :=
  match x with
  | .nan s => (F.cnan, flagIf (s || F.nan.isNone) flagNV)
  | .inf neg =>
    if F.inf && !sat then (F.signBit neg + (2 ^ F.eb - 1) * 2 ^ F.mb, 0)
    else if sat || F.nan.isNone then (F.signBit neg + F.maxCode, flagSAT)
    else (F.cnan, flagNV)
  | .fin neg n d =>
    if n = 0 then (F.signBit neg, 0)
    else
      let y := roundMag R F neg n d
      let nx := flagIf y.2 flagNX
      if y.1 > F.maxCode then
        if sat || F.nan.isNone then (F.signBit neg + F.maxCode, nx ||| flagSAT)
        else if !F.inf then (F.cnan, nx ||| flagOF)
        else (F.signBit neg + (if R.overInf neg then (2 ^ F.eb - 1) * 2 ^ F.mb else F.maxCode), nx ||| flagOF)
      else (F.signBit neg + y.1, nx ||| flagIf (y.2 && decide (y.1 < 2 ^ F.mb)) flagUF)

/-- `rne_fp32`. -/
def rneFp32 (x : FV) : Nat := (rnd (.mode 0) fp32 false x).1

/-- A rational rounded to an integer, and whether it was not one. -/
def roundInt (R : Rnd) (neg : Bool) (n d : Nat) : Int × Bool :=
  let u := inUnits n d 0
  let q := if R.up (u.1 % 2 == 1) neg u.2.1 u.2.2 then u.1 + 1 else u.1
  (if neg then -(q : Int) else q, u.2.1 != 0)

/-- Float to an integer type with range lo to hi (Tables 6.4 and 6.5). -/
def toIntType (R : Rnd) (lo hi : Int) (x : FV) : Int × Nat :=
  match x with
  | .nan _ => (0, flagNV)
  | .inf neg => (if neg then lo else hi, flagNV)
  | .fin neg n d =>
    let y := roundInt R neg n d
    if y.1 < lo then (lo, flagNV) else if hi < y.1 then (hi, flagNV) else (y.1, flagIf y.2 flagNX)

/-- Conversion to E8M0 (R135, Table 6.5). -/
def toE8m0 (R : Rnd) (x : FV) : Nat × Nat :=
  match x with
  | .nan _ | .inf _ => (0xFF, flagNV)
  | .fin neg n d =>
    if neg || n == 0 then (0xFF, flagNV)
    else
      let k := floorLog2 n d
      let u := inUnits n d k
      let exact := u.2.1 == 0
      if 127 < k ∨ (k = 127 ∧ !exact) then (0xFE, flagOF ||| flagNX)
      else if k < -127 then (0x00, flagUF ||| flagNX)
      else
        let up := !exact && (match R with | .mode 0 => decide (u.2.2 ≤ 2 * u.2.1) | .mode 2 => true | _ => false)
        (((if up then k + 1 else k) + 127).toNat, flagIf (!exact) flagNX)

/-! ## Exact sums and products (R148, R155, R156) -/

/-- An exact product that has no NaN factor; none is infinity times zero. -/
def FV.mul (x y : FV) : Option FV :=
  match x, y with
  | .fin s n d, .fin t m e => some (.fin (s.xor t) (n * m) (d * e))
  | .inf s, .fin t m _ => if m = 0 then none else some (.inf (s.xor t))
  | .fin s n _, .inf t => if n = 0 then none else some (.inf (s.xor t))
  | .inf s, .inf t => some (.inf (s.xor t))
  | _, _ => none

/-- Sum of two finite values as a signed numerator over a denominator. -/
def addFin (x : Int × Nat) (v : FV) : Int × Nat :=
  match v with
  | .fin neg n d => (x.1 * d + (if neg then -(n : Int) else n) * x.2, x.2 * d)
  | _ => x

/-- The sign of a finite value. -/
def FV.neg : FV → Bool
  | .fin s _ _ => s
  | .inf s => s
  | .nan _ => false

/-- A finite zero. -/
def FV.isZero : FV → Bool
  | .fin _ n _ => n == 0
  | _ => false

/-- The exact sum of finite terms: an exact zero is +0, or -0 under RD, but a sum of zeros of one sign keeps it. -/
def sumFin (R : Rnd) (ts : List FV) : FV :=
  let x := ts.foldl addFin (0, 1)
  if x.1 = 0 then
    if ts.all FV.isZero && ts.all FV.neg then .fin true 0 1
    else if ts.all FV.isZero && ts.all (!·.neg) then .fin false 0 1
    else .fin (R == .mode 3) 0 1
  else .fin (decide (x.1 < 0)) x.1.natAbs x.2

/-- A sum of products and addends, rounded once, with NaN and infinity cases (R148, R154, R156). -/
def fusedSum (R : Rnd) (F : Fmt) (prods : List (FV × FV)) (adds : List FV) : Nat × Nat :=
  let ops := prods.flatMap (fun p => [p.1, p.2]) ++ adds
  let nv := sigNV ops
  let whole := prods.filter fun p => !p.1.isNan && !p.2.isNan
  let invalid := whole.any fun p => (p.1.mul p.2).isNone
  if ops.any FV.isNan || invalid then (F.cnan, nv ||| flagIf invalid flagNV)
  else
    let ts := whole.filterMap (fun p => p.1.mul p.2) ++ adds
    if ts.contains (.inf true) && ts.contains (.inf false) then (F.cnan, nv ||| flagNV)
    else if ts.contains (.inf true) then rnd R F false (.inf true)
    else if ts.contains (.inf false) then rnd R F false (.inf false)
    else rnd R F false (sumFin R ts)

/-- Exact order of two values that are no NaN; infinities lie outside. -/
def FV.lt (x y : FV) : Bool :=
  let num := fun (s : Bool) (n : Nat) => if s then -(n : Int) else (n : Int)
  match x, y with
  | .fin s n d, .fin t m e => decide (num s n * e < num t m * d)
  | .inf s, .inf t => s && !t
  | .inf s, _ => s
  | _, .inf t => !t
  | _, _ => false

/-- minimumNumber and maximumNumber on encodings (R149): -0 orders below +0. -/
def minMax (F : Fmt) (least : Bool) (a b : Nat) : Nat × Nat :=
  let x := F.value a
  let y := F.value b
  let nv := sigNV [x, y]
  if x.isNan && y.isNan then (F.cnan, nv)
  else if x.isNan then (b, nv)
  else if y.isNan then (a, nv)
  else
    let below := x.lt y || (!y.lt x && x.neg && !y.neg)
    (if below = least then a else b, nv)

/-! ## Functions of Table 7.3 -/

/-- Bits after the binary point in the fixed-point evaluations. -/
def fixBits : Nat := 900
/-- 1 in fixed point. -/
def fixOne : Nat := 2 ^ fixBits

/-- The largest r with r * r ≤ n. -/
def isqrt (n : Nat) : Nat :=
  ((List.range (n.log2 / 2 + 1)).reverse).foldl (fun r b => if (r + 2 ^ b) * (r + 2 ^ b) ≤ n then r + 2 ^ b else r) 0

/-- The square root of n / d: exact, or the middle of the interval of width 2^-160 that holds it. -/
def sqrtVal (n d : Nat) : FV :=
  let r := isqrt (n * 2 ^ 320 / d)
  if r * r * d = n * 2 ^ 320 then .fin false r (2 ^ 160) else .fin false (2 * r + 1) (2 ^ 161)

/-- The sum of t / (2 i + 1) with t divided by k2 at each step, the signs alternating or not. -/
def oddSeries (alt : Bool) (t k2 terms : Nat) : Nat :=
  ((List.range terms).foldl (fun (s : Int × Nat) i =>
    (s.1 + (if alt && i % 2 == 1 then -1 else 1) * (s.2 / (2 * i + 1) : Nat), s.2 / k2)) ((0 : Int), t)).1.toNat

/-- pi / 2 in fixed point, by Machin's formula. -/
def halfPiFix : Nat := 8 * oddSeries true (fixOne / 5) 25 200 - 2 * oddSeries true (fixOne / 239) 57121 60

/-- ln 2 in fixed point, by 2 artanh (1/3). -/
def ln2Fix : Nat := 2 * oddSeries false (fixOne / 3) 9 290

/-- A fixed-point magnitude as an exact value strictly inside the interval that holds the function's value. -/
def ofFix (neg : Bool) (v : Nat) : FV := .fin neg (2 * v + 1) (2 ^ (fixBits + 1))

/-- Taylor series from `t`, each term multiplied by `x2` and divided by (i + j)(i + j + 1), the signs alternating. -/
def sinSeries (t x2 j : Nat) : Nat :=
  ((List.range 100).foldl (fun (s : Int × Nat) i =>
    (s.1 + (if i % 2 == 1 then -1 else 1) * (s.2 : Int), s.2 * x2 / fixOne / ((2 * i + j) * (2 * i + j + 1))))
    ((0 : Int), t)).1.toNat

/-- sin (neg = the argument's sign) or cos of n / d, n > 0, in radians, reduced exactly. -/
def sinCos (cos neg : Bool) (n d : Nat) : FV :=
  let x := n * fixOne / d
  let q := x / halfPiFix
  let r := x % halfPiFix
  let r2 := r * r / fixOne
  let k := (if cos then q + 1 else q) % 4
  let v := if k % 2 = 0 then sinSeries r r2 2 else sinSeries fixOne r2 1
  ofFix ((decide (2 ≤ k)).xor (!cos && neg)) v

/-- e^y for y < 1 in fixed point. -/
def expFix (y : Nat) : Nat :=
  ((List.range 200).foldl (fun (s : Nat × Nat) i => (s.1 + s.2, s.2 * y / fixOne / (i + 1))) (0, fixOne)).1

/-- 2^x for a finite x = (-1)^neg * n / d; beyond every exponent of FP32 a value that rounds the same stands for it. -/
def exp2Val (neg : Bool) (n d : Nat) : FV :=
  if neg ∧ 300 * d ≤ n then .fin false 1 (2 ^ 300)
  else if !neg ∧ 200 * d ≤ n then (if n % d = 0 then .fin false (2 ^ 200) 1 else .fin false (2 ^ 201 + 1) 2)
  else
    let k : Int := if neg then -((n + d - 1) / d : Nat) else (n / d : Nat)
    let f := if neg then (d - n % d) % d else n % d
    if f = 0 then .dyadic false 1 k
    else
      let v := expFix (f * ln2Fix / d)
      .dyadic false (2 * v + 1) (k - (fixBits + 1))

/-- log2 of n / d > 0. -/
def log2Val (n d : Nat) : FV :=
  let k := floorLog2 n d
  let n' := if 0 ≤ k then n else n * 2 ^ (-k).toNat
  let d' := if 0 ≤ k then d * 2 ^ k.toNat else d
  if n' = d' then .ofInt k
  else
    let z := (n' - d') * fixOne / (n' + d')
    let lnm := 2 * ((List.range 290).foldl (fun (s : Nat × Nat) i =>
      (s.1 + s.2 / (2 * i + 1), s.2 * z / fixOne * z / fixOne)) (0, z)).1
    let v : Int := k * fixOne + (lnm * fixOne / ln2Fix : Nat)
    ofFix (decide (v < 0)) v.natAbs

end Sys2Proof.Machine
end

