-- ==== Sys2Proof/Machine/Float.lean ====
section
/-! DEFINITION. Floating-point, conversion and quantization instructions (07_float_and_format_instructions.md). -/

namespace Sys2Proof.Machine

/-! ## Common rules (R143) -/

/-- The rounding mode that RM selects: 0 is FMT.RND of the issuing split (R70, R132, R143). -/
def modeRM (p : Split) (rm : Nat) : Rnd := .mode (if rm = 0 then p.fmt.toNat / 2 ^ 16 % 4 else rm - 1)

/-- Result and flags as a thread's output. -/
def LaneOut.num (r : Nat × Nat) : LaneOut := { d := some r.1, flags := r.2 }

/-- How small immediates widen in FP32 operations. -/
def immF32 : Imms := { a := .f32, b := .f32, c := .f32 }

/-- How small immediates widen in packed operations. -/
def immPacked (half : Bool) : Imms :=
  if half then { a := .f16x2, b := .f16x2, c := .f16x2 } else { a := .bf16x2, b := .bf16x2, c := .bf16x2 }

/-- Element j of a packed operand (R154). -/
def half16 (v j : Nat) : Nat := v / 2 ^ (16 * j) % 2 ^ 16

/-! ## FP32 arithmetic (R148 to R152) -/

/-- `fadd`. -/
def addF (R : Rnd) (F : Fmt) (a b : Nat) : Nat × Nat := fusedSum R F [] [F.value a, F.value b]
/-- `fsub`. -/
def subF (R : Rnd) (F : Fmt) (a b : Nat) : Nat × Nat := fusedSum R F [] [F.value a, (F.value b).negate]
/-- `fmul`. -/
def mulF (R : Rnd) (F : Fmt) (a b : Nat) : Nat × Nat := fusedSum R F [(F.value a, F.value b)] []
/-- `ffma`. -/
def fmaF (R : Rnd) (F : Fmt) (a b c : Nat) : Nat × Nat := fusedSum R F [(F.value a, F.value b)] [F.value c]

/-- `fabs`, `fneg` (R150): a NaN gives the canonical NaN, without a flag. -/
def signOp (neg : Bool) (a : Nat) : Nat :=
  if (fp32.value a).isNan then 0x7FC00000 else if neg then a ^^^ 2 ^ 31 else a % 2 ^ 31

/-- `fclass` (Table 7.2). -/
def classOf (a : Nat) : Nat :=
  match fp32.value a with
  | .nan s => if s then 2 ^ 0 else 2 ^ 1
  | .inf s => if s then 2 ^ 2 else 2 ^ 9
  | .fin s n _ =>
    let sub := a / 2 ^ 23 % 256 == 0
    if n = 0 then (if s then 2 ^ 5 else 2 ^ 6) else if sub then (if s then 2 ^ 4 else 2 ^ 7)
    else if s then 2 ^ 3 else 2 ^ 8

/-- `frnd` (R151). -/
def rndIntegral (R : Rnd) (x a : Nat) : Nat × Nat :=
  match fp32.value a with
  | .nan s => (0x7FC00000, flagIf s flagNV)
  | .inf _ => (a, 0)
  | .fin neg n d =>
    if 2 ^ 23 * d ≤ n ∨ n = 0 then (a, 0)
    else
      let y := roundInt R neg n d
      ((rnd (.mode 1) fp32 false (.fin neg y.1.natAbs 1)).1, flagIf (x == 1 && y.2) flagNX)

/-- CMP of `fsetp` (Table 7.3a). -/
def cmpF (cmp : Nat) (x y : FV) : Bool :=
  let lt := x.lt y
  let gt := y.lt x
  let eq := !lt && !gt
  if x.isNan || y.isNan then cmp == 1 || (decide (7 ≤ cmp) && decide (cmp ≤ 12))
  else
    match cmp with
    | 0 | 8 => eq
    | 1 | 13 => !eq
    | 2 | 9 => lt
    | 3 | 10 => !gt
    | 4 | 11 => gt
    | 5 | 12 => !lt
    | 6 => true
    | _ => false

/-- `fsetp` (R152). -/
def setpF (f : FormE) (x : LaneIn) : LaneOut :=
  let pf := f.c.f.toNat
  let u := fp32.value x.a
  let v := fp32.value x.b
  let q := (x.t.pred (pf % 8)).xor (pf / 8 % 2 = 1)
  { preds := [(f.xd.toNat, combine f.fbop (cmpF f.low4 u v) q)], flags := sigNV [u, v] }

/-! ## SFU (R153, Table 7.3) -/

/-- A NaN operand gives the canonical NaN, with NV when it is signalling. -/
def sfuNan (s : Bool) : Nat × Nat := (0x7FC00000, flagIf s flagNV)
/-- An invalid operation. -/
def sfuBad : Nat × Nat := (0x7FC00000, flagNV)
/-- A signed infinity. -/
def infF (neg : Bool) : Nat := fp32.signBit neg + 0x7F800000
/-- A signed zero. -/
def zeroF (neg : Bool) : Nat := fp32.signBit neg

/-- `fdiv`. -/
def divF (R : Rnd) (a b : Nat) : Nat × Nat :=
  let x := fp32.value a
  let y := fp32.value b
  let s := x.neg.xor y.neg
  if x.isNan || y.isNan then (0x7FC00000, sigNV [x, y])
  else
    match x, y with
    | .inf _, .inf _ => sfuBad
    | .inf _, _ => (infF s, 0)
    | _, .inf _ => (zeroF s, 0)
    | .fin _ n d, .fin _ m e =>
      if m = 0 then (if n = 0 then sfuBad else (infF s, flagDZ))
      else rnd R fp32 false (.fin s (n * e) (d * m))
    | _, _ => sfuBad

/-- `frcp`. -/
def rcpF (R : Rnd) (a : Nat) : Nat × Nat :=
  match fp32.value a with
  | .nan s => sfuNan s
  | .inf s => (zeroF s, 0)
  | .fin s n d => if n = 0 then (infF s, flagDZ) else rnd R fp32 false (.fin s d n)

/-- `frsq`. -/
def rsqF (R : Rnd) (a : Nat) : Nat × Nat :=
  match fp32.value a with
  | .nan s => sfuNan s
  | .inf s => if s then sfuBad else (zeroF false, 0)
  | .fin s n d => if n = 0 then (infF s, flagDZ) else if s then sfuBad else rnd R fp32 false (sqrtVal d n)

/-- `fsqrt`. -/
def sqrtF (R : Rnd) (a : Nat) : Nat × Nat :=
  match fp32.value a with
  | .nan s => sfuNan s
  | .inf s => if s then sfuBad else (infF false, 0)
  | .fin s n d => if n = 0 then (zeroF s, 0) else if s then sfuBad else rnd R fp32 false (sqrtVal n d)

/-- `fex2`. -/
def ex2F (R : Rnd) (a : Nat) : Nat × Nat :=
  match fp32.value a with
  | .nan s => sfuNan s
  | .inf s => (if s then zeroF false else infF false, 0)
  | .fin s n d => if n = 0 then (0x3F800000, 0) else rnd R fp32 false (exp2Val s n d)

/-- `flg2`. -/
def lg2F (R : Rnd) (a : Nat) : Nat × Nat :=
  match fp32.value a with
  | .nan s => sfuNan s
  | .inf s => if s then sfuBad else (infF false, 0)
  | .fin s n d => if n = 0 then (infF true, flagDZ) else if s then sfuBad else rnd R fp32 false (log2Val n d)

/-- `fsin`. -/
def sinF (R : Rnd) (a : Nat) : Nat × Nat :=
  match fp32.value a with
  | .nan s => sfuNan s
  | .inf _ => sfuBad
  | .fin s n d => if n = 0 then (zeroF s, 0) else rnd R fp32 false (sinCos false s n d)

/-- `fcos`. -/
def cosF (R : Rnd) (a : Nat) : Nat × Nat :=
  match fp32.value a with
  | .nan s => sfuNan s
  | .inf _ => sfuBad
  | .fin s n d => if n = 0 then (0x3F800000, 0) else rnd R fp32 false (sinCos true s n d)

/-! ## Packed and dot products (R154 to R156) -/

/-- A packed operation from its operation on one element. -/
def packed (op : Nat → Nat × Nat) : Nat × Nat :=
  let r := fun j => op j
  ((r 0).1 + 2 ^ 16 * (r 1).1, (r 0).2 ||| (r 1).2)

/-- `hadd2`, `badd2`. -/
def add2 (F : Fmt) (R : Rnd) (x : LaneIn) : Nat × Nat := packed fun j => addF R F (half16 x.a j) (half16 x.b j)
/-- `hmul2`, `bmul2`. -/
def mul2 (F : Fmt) (R : Rnd) (x : LaneIn) : Nat × Nat := packed fun j => mulF R F (half16 x.a j) (half16 x.b j)
/-- `hfma2`, `bfma2`. -/
def fma2 (F : Fmt) (R : Rnd) (x : LaneIn) : Nat × Nat :=
  packed fun j => fmaF R F (half16 x.a j) (half16 x.b j) (half16 x.c j)
/-- `hmin2` to `bmax2`. -/
def minMax2 (F : Fmt) (least : Bool) (x : LaneIn) : Nat × Nat :=
  packed fun j => minMax F least (half16 x.a j) (half16 x.b j)

/-- Element i of `w` bits, signed or not. -/
def element (signed : Bool) (w v i : Nat) : Int :=
  if signed then sextN (v / 2 ^ (w * i)) w else (v / 2 ^ (w * i) % 2 ^ w : Nat)

/-- `idp4`, `idp4n`, `idp8` (R155). -/
def idp (w n : Nat) (sa sb : Bool) (sat : Bool) (x : LaneIn) : LaneOut :=
  let t := ((List.range n).map fun i => element sa w x.a i * element sb w x.b i).foldl (· + ·) (sgn x.c)
  if sat then
    let r := clampSAT t (-2 ^ 31) (2 ^ 31 - 1)
    { d := some (wrapI r.1 32), flags := r.2 }
  else .val (wrapI t 32)

/-- `bdp2`, `hdp2` (R156). -/
def dp2 (F : Fmt) (R : Rnd) (x : LaneIn) : Nat × Nat :=
  fusedSum R fp32 [(F.value (half16 x.a 0), F.value (half16 x.b 0)), (F.value (half16 x.a 1), F.value (half16 x.b 1))]
    [fp32.value x.c]

/-! ## Conversions (R157 to R160) -/

/-- The float format of a type code, where it has one of Table 6.2. -/
def floatOf (ty : Nat) : Option Fmt :=
  match ty with
  | 0 => some fp32
  | 1 => some fp16
  | 2 => some bf16
  | 3 => some e4m3
  | 4 => some e5m2
  | 5 => some e2m1
  | _ => none

/-- A type code is an i-type; code 15 is i64 with N64 0 (Table 7.4). -/
def tySigned (ty n64 : Nat) : Bool := ty = 7 || ty = 9 || ty = 11 || ty = 13 || (ty = 15 && n64 == 0)
/-- Smallest value of an integer type. -/
def tyLo (ty n64 : Nat) : Int := if tySigned ty n64 then -2 ^ (tyBits ty - 1) else 0
/-- Largest value of an integer type. -/
def tyHi (ty n64 : Nat) : Int := if tySigned ty n64 then 2 ^ (tyBits ty - 1) - 1 else 2 ^ tyBits ty - 1

/-- Conversions that Table 6.4 makes exact, to a float that holds every value of the source, and those to the same type
(R158). The model's choices (notes/assumptions/28.md): the list in brackets of Table 6.4 decides, so E5M2 to BF16 is not
among them; and `cvtsr` to the same type is, so an infinity stays under SAT. -/
def exactInto (src dst : Nat) : Bool :=
  (dst = 0 && (decide (src ≤ 6))) || (dst = 1 && decide (3 ≤ src ∧ src ≤ 5)) || (dst = 2 && (src = 3 || src = 5)) || src = dst

/-- The width of a register result: i-types sign-extend to 32 bits, all others zero-extend (R157). -/
def tyWrite (ty n64 : Nat) (x : Int) : Nat :=
  if tyBits ty = 64 then wrapI x 64
  else if tySigned ty n64 then wrapI (sextN (wrapI x (tyBits ty)) (tyBits ty)) 32 else wrapI x (tyBits ty)

/-- The exact value of a float source, and of any source. -/
def tyValue (ty n64 v : Nat) : FV :=
  match floatOf ty with
  | some F => F.value (v % 2 ^ tyBits ty)
  | none =>
    if ty = 6 then e8m0Value (v % 256)
    else .ofInt (if tySigned ty n64 then sextN v (tyBits ty) else (v % 2 ^ tyBits ty : Nat))

/-- The conversion of an exact value, of source type `src`, to `dst` (Table 6.4): the value to be written and its
flags. A quiet BF16 NaN that is not canonical gives the canonical NaN of FP32, as R130 and R135 say, and not its bits shifted
as in R136: the model's choice (notes/assumptions/28.md). -/
def convertTo (R : Rnd) (src dst n64 : Nat) (sat : Bool) (x : FV) : Int × Nat :=
  match floatOf dst with
  | some F =>
    let r := rnd R F (sat && !exactInto src dst) x
    ((r.1 : Nat), r.2)
  | none =>
    if dst = 6 then
      if src = 6 then (match x with | .nan _ => (255, 0) | _ => ((toE8m0 R x).1, 0))
      else ((toE8m0 R x).1, (toE8m0 R x).2)
    else if src ≤ 6 then toIntType R (tyLo dst n64) (tyHi dst n64) x
    else
      let v := match x with | .fin s n _ => if s then -(n : Int) else n | _ => 0
      if tyBits src ≤ tyBits dst ∨ !sat then (v, 0) else clampSAT v (tyLo dst n64) (tyHi dst n64)

/-- A type code names a floating-point type, so that a small immediate is its integer value (R143). -/
def tyFloat (ty : Nat) : Bool := decide (ty ≤ 6)

/-- The exact value of a source operand of a conversion. A small immediate of a type that cannot hold its integer is that
integer all the same: the model's choice (R143; notes/assumptions/28.md). -/
def convSource (fld : Fld) (ty n64 v : Nat) : FV :=
  if fld.mode = .small ∧ tyFloat ty then .ofInt (sextN fld.f.toNat 8) else tyValue ty n64 v

/-- `cvt` (R158). -/
def cvtOp (f : FormE) (p : Split) (x : LaneIn) : LaneOut :=
  let r := convertTo (modeRM p f.rm) f.tySrc f.tyDst (f.bit 1) (f.bit 0 == 1) (convSource f.a f.tySrc (f.bit 1) x.a)
  { d := some (tyWrite f.tyDst (f.bit 1) r.1), flags := r.2 }

/-- Sign and lowest terms of an exact value. -/
def FV.lowest (v : FV) : Bool × Nat × Nat :=
  match v with
  | .fin neg n d => (neg, n / Nat.gcd n d, d / Nat.gcd n d)
  | .inf neg => (neg, 1, 0)
  | .nan _ => (false, 0, 0)

/-- `cvtsr` (R159): stochastic; a NaN, infinity or zero as under `rnd`. What it gives above the largest finite value under
IEEE is free, as a function of the exact value, r and the target (R134; notes/assumptions/8.md). -/
def cvtsrOp (f : FormE) (x : LaneIn) : LaneOut :=
  let v := convSource f.a f.tySrc (f.bit 1) x.a
  let R := Rnd.sr x.b (Config.srOverflowsToInf v.lowest x.b f.tyDst)
  let r := convertTo R f.tySrc f.tyDst (f.bit 1) (f.bit 0 == 1) v
  { d := some (tyWrite f.tyDst (f.bit 1) r.1), flags := r.2 }

/-- Put element k of width w of a register. -/
def putElement (v k w e : Nat) : Nat :=
  v % 2 ^ (k * w) + e % 2 ^ w * 2 ^ (k * w) + v / 2 ^ (k * w + w) * 2 ^ (k * w + w)

/-- `pack` (R160). -/
def packOp (f : FormE) (p : Split) (x : LaneIn) : LaneOut :=
  let conv := fun (fld : Fld) v =>
    convertTo (modeRM p f.rm) f.tySrc f.tyDst 0 (f.bit 0 == 1) (convSource fld f.tySrc 0 v)
  let e0 := conv f.a x.a
  let e1 := conv f.b x.b
  let w := tyBits f.tyDst
  { d := some (putElement (putElement x.d (2 * f.j) w (wrapI e0.1 w)) (2 * f.j + 1) w (wrapI e1.1 w)),
    flags := e0.2 ||| e1.2 }

/-- `unpack` (R160). A small immediate a is read as its sign-extended bits: the model's choice (notes/assumptions/28.md). -/
def unpackOp (f : FormE) (p : Split) (x : LaneIn) : LaneOut :=
  let v := x.a / 2 ^ (f.j * tyBits f.tySrc)
  let r := convertTo (modeRM p f.rm) f.tySrc f.tyDst 0 false (tyValue f.tySrc 0 v)
  { d := some (tyWrite f.tyDst 0 r.1), flags := r.2 }

/-! ## Group quantization (R161 to R163) -/

/-- QF: 4-bit codes. -/
def qfFour (qf : Nat) : Bool := decide (2 ≤ qf)
/-- QF: asymmetric. -/
def qfAsym (qf : Nat) : Bool := qf % 2 == 1
/-- Smallest and largest code (Table 7.5). -/
def qMin (qf : Nat) : Int := if qfAsym qf then 0 else if qfFour qf then -8 else -128
/-- Largest code (Table 7.5). -/
def qMax (qf : Nat) : Int :=
  if qfAsym qf then (if qfFour qf then 15 else 255) else if qfFour qf then 7 else 127
/-- Zero point of an entry (R161). -/
def entryZ (qf e : Nat) : Nat := if !qfAsym qf then 0 else if qfFour qf then e / 2 ^ 16 % 16 else e / 2 ^ 16 % 256

/-- Quotient of two values of which neither is a NaN and the divisor is finite and not zero. -/
def FV.div (x y : FV) : FV :=
  match x, y with
  | .inf s, .fin t _ _ => .inf (s.xor t)
  | .fin s n d, .fin t m e => .fin (s.xor t) (n * e) (d * m)
  | x, _ => x

/-- The magnitude of a value. -/
def FV.abs : FV → FV
  | .inf _ => .inf false
  | .fin _ n d => .fin false n d
  | x => x

/-- The larger of two values that are no NaN. -/
def FV.max (x y : FV) : FV := if x.lt y then y else x
/-- The smaller of two values that are no NaN. -/
def FV.min (x y : FV) : FV := if y.lt x then y else x

/-- hi - lo for hi ≥ 0 ≥ lo. -/
def FV.span (hi lo : FV) : FV :=
  match hi, lo with
  | .fin s n d, l => match addFin (if s then -(n : Int) else n, d) l.negate, l with
    | _, .inf _ => .inf false
    | r, _ => .fin false r.1.natAbs r.2
  | h, _ => h

/-- `qparam` (R162). -/
def qparam (R : Rnd) (qf : Nat) (x : LaneIn) : Nat × Nat :=
  let a := fp32.value x.a
  let b := fp32.value x.b
  if a.isNan || b.isNan then (0x7E00, flagNV)
  else
    let zero : FV := .fin false 0 1
    let lo := a.min zero
    let m := if qfAsym qf then (b.max zero).span lo else a.abs.max b.abs
    let s := if m.isZero then (0x3C00, 0) else rnd R fp16 true (m.div (.ofInt (qMax qf)))
    let sc := if s.1 % 2 ^ 15 = 0 then 1 else s.1
    let z : Int := if !qfAsym qf then 0 else
      match lo.negate.div (fp16.value sc) with
      | .fin neg n d => satI (roundInt (.mode 0) neg n d).1 0 (qMax qf)
      | _ => qMax qf
    (z.toNat * 2 ^ 16 + sc, s.2)

/-- `qnt` (R163). -/
def qnt (R : Rnd) (qf : Nat) (x : LaneIn) : LaneOut :=
  let a := fp32.value x.a
  let s := fp16.value (x.b % 2 ^ 16)
  let z : Int := entryZ qf x.b
  let out := fun (q : Int) (fl : Nat) => ({ d := some (wrapI q 32), flags := fl } : LaneOut)
  match a, s with
  | .nan _, _ | _, .nan _ | _, .inf _ => out z flagNV
  | a, .fin t n d =>
    if n = 0 then out z flagNV
    else
      match a.div (.fin t n d) with
      | .fin neg n d =>
        let y := roundInt R neg n d
        let q := clampSAT (y.1 + z) (qMin qf) (qMax qf)
        out q.1 (flagIf y.2 flagNX ||| q.2)
      | y => out (if y.neg then qMin qf else qMax qf) flagSAT

/-- `dqnt` (R163); a signalling scale sets NV (R130). -/
def dqnt (qf : Nat) (x : LaneIn) : LaneOut :=
  let w := if qfFour qf then 4 else 8
  let q : Int := if qfAsym qf then (x.a % 2 ^ w : Nat) else sextN x.a w
  let k := FV.ofInt (q - entryZ qf x.b)
  match fp16.value (x.b % 2 ^ 16) with
  | .nan s => { d := some 0x7FC00000, flags := flagIf s flagNV }
  | s =>
    match s.mul k with
    | some v => .val (rnd (.mode 0) fp32 false v).1
    | none => { d := some 0x7FC00000, flags := flagNV }

/-! ## Microscaling (R137, R138, R164, R165) -/

/-- `mxexp` (R164). -/
def mxexp (fp4 : Bool) (x : LaneIn) : LaneOut :=
  match fp32.value x.a with
  | .nan _ | .inf _ => { d := some 0xFF, flags := flagNV }
  | .fin _ n d =>
    if n = 0 then .val 0 else .val (satI (floorLog2 n d - (if fp4 then 2 else 0) + 127) 0 254).toNat

/-- `mxq` (R138, R165). -/
def mxq (R : Rnd) (fp4 : Bool) (x : LaneIn) : LaneOut :=
  let sc := x.b % 256
  let a := fp32.value x.a
  if a.isNan || sc = 255 then { d := some 0, flags := flagNV }
  else
    let y := a.div (e8m0Value sc)
    if fp4 then .num (rnd R e2m1 true y)
    else
      match y with
      | .fin neg n d =>
        let q := roundInt R neg (64 * n) d
        let c := clampSAT q.1 (-128) 127
        { d := some (wrapI c.1 32), flags := flagIf q.2 flagNX ||| c.2 }
      | y => { d := some (wrapI (if y.neg then -128 else 127) 32), flags := flagSAT }

/-- The value of an MX element code (R137). -/
def mxElement (fp4 : Bool) (code : Nat) : FV :=
  if fp4 then e2m1.value (code % 16)
  else let q := sextN code 8; .fin (decide (q < 0)) q.natAbs 64

/-- `mxdq` (R165). -/
def mxdq (R : Rnd) (fp4 : Bool) (x : LaneIn) : LaneOut :=
  match e8m0Value (x.b % 256) with
  | .nan _ => .val 0x7FC00000
  | s => match (mxElement fp4 x.a).mul s with
    | some v => .num (rnd R fp32 false v)
    | none => .val 0x7FC00000

/-! ## Meanings -/

/-- An FP32 instruction. -/
def fOp (i : Instr) (rm : Nat) (f : Rnd → LaneIn → Nat × Nat) (s : State) : Out :=
  laneOp i immF32 (fun _ _ p x => .num (f (modeRM p rm) x)) s

/-- A packed instruction. -/
def packedOp (i : Instr) (half : Bool) (rm : Nat) (f : Fmt → Rnd → LaneIn → Nat × Nat) (s : State) : Out :=
  laneOp i (immPacked half) (fun _ _ p x => .num (f (if half then fp16 else bf16) (modeRM p rm) x)) s

/-- An SFU function of one source. -/
def sfu1 (i : Instr) (rm lat : Nat) (f : Rnd → Nat → Nat × Nat) (s : State) : Out :=
  sfuOp i immF32 lat (fun p x => f (modeRM p rm) x.a) s

/-- `fmtset` (R146): into the issuing split, or in handler mode into the faulting split at `rte`; nothing where no
thread executes. -/
def fmtsetOp (i : Instr) (v : Header → Group → List Nat → Word) (s : State) : Out :=
  gated i s fun c g p ls =>
    let w := v (s.hdr g) g ls
    let s := s.issue c g p i ls.length
    let s := if ls.isEmpty then s else s.updGroup c.core c.gid fun g =>
      match g.handler with
      | some hd => { g with handler := some { hd with fmt := some w } }
      | none => g.updSplit c.split fun p => { p with fmt := w }
    .next (s.advance c)

/-- `fadd`, one-word form: a + b (R148). -/
noncomputable def execFadd (f : Form1) (s : State) : Out :=
  fOp (.fadd f) 0 (fun R x => addF R fp32 x.a x.b) s

/-- `fadd`, E form: a + b (R148). -/
noncomputable def execFaddE (f : FormE) (s : State) : Out :=
  fOp (.faddE f) f.rm (fun R x => addF R fp32 x.a x.b) s

/-- `fsub`, one-word form: a - b (R148). -/
noncomputable def execFsub (f : Form1) (s : State) : Out :=
  fOp (.fsub f) 0 (fun R x => subF R fp32 x.a x.b) s

/-- `fsub`, E form: a - b (R148). -/
noncomputable def execFsubE (f : FormE) (s : State) : Out :=
  fOp (.fsubE f) f.rm (fun R x => subF R fp32 x.a x.b) s

/-- `fmul`, one-word form: a * b (R148). -/
noncomputable def execFmul (f : Form1) (s : State) : Out :=
  fOp (.fmul f) 0 (fun R x => mulF R fp32 x.a x.b) s

/-- `fmul`, E form: a * b (R148). -/
noncomputable def execFmulE (f : FormE) (s : State) : Out :=
  fOp (.fmulE f) f.rm (fun R x => mulF R fp32 x.a x.b) s

/-- `ffma`, one-word form: a * b + c, fused (R148). -/
noncomputable def execFfma (f : Form1) (s : State) : Out :=
  fOp (.ffma f) 0 (fun R x => fmaF R fp32 x.a x.b x.c) s

/-- `ffma`, E form: a * b + c, fused (R148). -/
noncomputable def execFfmaE (f : FormE) (s : State) : Out :=
  fOp (.ffmaE f) f.rm (fun R x => fmaF R fp32 x.a x.b x.c) s

/-- `fmin`, one-word form: minimumNumber (R149). -/
noncomputable def execFmin (f : Form1) (s : State) : Out :=
  fOp (.fmin f) 0 (fun _ x => minMax fp32 true x.a x.b) s

/-- `fmin`, E form: minimumNumber (R149). -/
noncomputable def execFminE (f : FormE) (s : State) : Out :=
  fOp (.fminE f) 0 (fun _ x => minMax fp32 true x.a x.b) s

/-- `fmax`, one-word form: maximumNumber (R149). -/
noncomputable def execFmax (f : Form1) (s : State) : Out :=
  fOp (.fmax f) 0 (fun _ x => minMax fp32 false x.a x.b) s

/-- `fmax`, E form: maximumNumber (R149). -/
noncomputable def execFmaxE (f : FormE) (s : State) : Out :=
  fOp (.fmaxE f) 0 (fun _ x => minMax fp32 false x.a x.b) s

/-- `fabs`, one-word form: magnitude (R150). -/
noncomputable def execFabs (f : Form1) (s : State) : Out :=
  fOp (.fabs f) 0 (fun _ x => (signOp false x.a, 0)) s

/-- `fabs`, E form: magnitude (R150). -/
noncomputable def execFabsE (f : FormE) (s : State) : Out :=
  fOp (.fabsE f) 0 (fun _ x => (signOp false x.a, 0)) s

/-- `fneg`, one-word form: sign inverted (R150). -/
noncomputable def execFneg (f : Form1) (s : State) : Out :=
  fOp (.fneg f) 0 (fun _ x => (signOp true x.a, 0)) s

/-- `fneg`, E form: sign inverted (R150). -/
noncomputable def execFnegE (f : FormE) (s : State) : Out :=
  fOp (.fnegE f) 0 (fun _ x => (signOp true x.a, 0)) s

/-- `fclass`, one-word form: class mask (R150). -/
noncomputable def execFclass (f : Form1) (s : State) : Out :=
  fOp (.fclass f) 0 (fun _ x => (classOf x.a, 0)) s

/-- `fclass`, E form: class mask (R150). -/
noncomputable def execFclassE (f : FormE) (s : State) : Out :=
  fOp (.fclassE f) 0 (fun _ x => (classOf x.a, 0)) s

/-- `frnd`, one-word form (R151). -/
noncomputable def execFrnd (f : Form1) (s : State) : Out :=
  fOp (.frnd f) 0 (fun R x => rndIntegral R 0 x.a) s

/-- `frnd`, E form, with X (R151). -/
noncomputable def execFrndE (f : FormE) (s : State) : Out :=
  fOp (.frndE f) f.rm (fun R x => rndIntegral R (f.bit 0) x.a) s

/-- `fsetp`: compare into a predicate (R152). -/
noncomputable def execFsetp (f : FormE) (s : State) : Out :=
  aluOp (.fsetp f) immF32 (setpF f) s

/-- `frcp`, one-word form: SFU function (R153). -/
noncomputable def execFrcp (f : Form1) (s : State) : Out :=
  sfu1 (.frcp f) 0 12 rcpF s

/-- `frcp`, E form: SFU function (R153). -/
noncomputable def execFrcpE (f : FormE) (s : State) : Out :=
  sfu1 (.frcpE f) f.rm 12 rcpF s

/-- `frsq`, one-word form: SFU function (R153). -/
noncomputable def execFrsq (f : Form1) (s : State) : Out :=
  sfu1 (.frsq f) 0 12 rsqF s

/-- `frsq`, E form: SFU function (R153). -/
noncomputable def execFrsqE (f : FormE) (s : State) : Out :=
  sfu1 (.frsqE f) f.rm 12 rsqF s

/-- `fsqrt`, one-word form: SFU function (R153). -/
noncomputable def execFsqrt (f : Form1) (s : State) : Out :=
  sfu1 (.fsqrt f) 0 20 sqrtF s

/-- `fsqrt`, E form: SFU function (R153). -/
noncomputable def execFsqrtE (f : FormE) (s : State) : Out :=
  sfu1 (.fsqrtE f) f.rm 20 sqrtF s

/-- `fex2`, one-word form: SFU function (R153). -/
noncomputable def execFex2 (f : Form1) (s : State) : Out :=
  sfu1 (.fex2 f) 0 12 ex2F s

/-- `fex2`, E form: SFU function (R153). -/
noncomputable def execFex2E (f : FormE) (s : State) : Out :=
  sfu1 (.fex2E f) f.rm 12 ex2F s

/-- `flg2`, one-word form: SFU function (R153). -/
noncomputable def execFlg2 (f : Form1) (s : State) : Out :=
  sfu1 (.flg2 f) 0 12 lg2F s

/-- `flg2`, E form: SFU function (R153). -/
noncomputable def execFlg2E (f : FormE) (s : State) : Out :=
  sfu1 (.flg2E f) f.rm 12 lg2F s

/-- `fsin`, one-word form: SFU function (R153). -/
noncomputable def execFsin (f : Form1) (s : State) : Out :=
  sfu1 (.fsin f) 0 16 sinF s

/-- `fsin`, E form: SFU function (R153). -/
noncomputable def execFsinE (f : FormE) (s : State) : Out :=
  sfu1 (.fsinE f) f.rm 16 sinF s

/-- `fcos`, one-word form: SFU function (R153). -/
noncomputable def execFcos (f : Form1) (s : State) : Out :=
  sfu1 (.fcos f) 0 16 cosF s

/-- `fcos`, E form: SFU function (R153). -/
noncomputable def execFcosE (f : FormE) (s : State) : Out :=
  sfu1 (.fcosE f) f.rm 16 cosF s

/-- `fdiv`, one-word form: a / b (R153). -/
noncomputable def execFdiv (f : Form1) (s : State) : Out :=
  sfuOp (.fdiv f) immF32 24 (fun p x => divF (modeRM p 0) x.a x.b) s

/-- `fdiv`, E form: a / b (R153). -/
noncomputable def execFdivE (f : FormE) (s : State) : Out :=
  sfuOp (.fdivE f) immF32 24 (fun p x => divF (modeRM p f.rm) x.a x.b) s

/-- `hadd2`, one-word form: packed add (R154). -/
noncomputable def execHadd2 (f : Form1) (s : State) : Out :=
  packedOp (.hadd2 f) true 0 add2 s

/-- `hadd2`, E form: packed add (R154). -/
noncomputable def execHadd2E (f : FormE) (s : State) : Out :=
  packedOp (.hadd2E f) true f.rm add2 s

/-- `hmul2`, one-word form: packed multiply (R154). -/
noncomputable def execHmul2 (f : Form1) (s : State) : Out :=
  packedOp (.hmul2 f) true 0 mul2 s

/-- `hmul2`, E form: packed multiply (R154). -/
noncomputable def execHmul2E (f : FormE) (s : State) : Out :=
  packedOp (.hmul2E f) true f.rm mul2 s

/-- `hfma2`, one-word form: packed fused multiply-add (R154). -/
noncomputable def execHfma2 (f : Form1) (s : State) : Out :=
  packedOp (.hfma2 f) true 0 fma2 s

/-- `hfma2`, E form: packed fused multiply-add (R154). -/
noncomputable def execHfma2E (f : FormE) (s : State) : Out :=
  packedOp (.hfma2E f) true f.rm fma2 s

/-- `hmin2`, one-word form: packed minimumNumber (R154). -/
noncomputable def execHmin2 (f : Form1) (s : State) : Out :=
  packedOp (.hmin2 f) true 0 (fun F _ x => minMax2 F true x) s

/-- `hmin2`, E form: packed minimumNumber (R154). -/
noncomputable def execHmin2E (f : FormE) (s : State) : Out :=
  packedOp (.hmin2E f) true 0 (fun F _ x => minMax2 F true x) s

/-- `hmax2`, one-word form: packed maximumNumber (R154). -/
noncomputable def execHmax2 (f : Form1) (s : State) : Out :=
  packedOp (.hmax2 f) true 0 (fun F _ x => minMax2 F false x) s

/-- `hmax2`, E form: packed maximumNumber (R154). -/
noncomputable def execHmax2E (f : FormE) (s : State) : Out :=
  packedOp (.hmax2E f) true 0 (fun F _ x => minMax2 F false x) s

/-- `badd2`, one-word form: packed add (R154). -/
noncomputable def execBadd2 (f : Form1) (s : State) : Out :=
  packedOp (.badd2 f) false 0 add2 s

/-- `badd2`, E form: packed add (R154). -/
noncomputable def execBadd2E (f : FormE) (s : State) : Out :=
  packedOp (.badd2E f) false f.rm add2 s

/-- `bmul2`, one-word form: packed multiply (R154). -/
noncomputable def execBmul2 (f : Form1) (s : State) : Out :=
  packedOp (.bmul2 f) false 0 mul2 s

/-- `bmul2`, E form: packed multiply (R154). -/
noncomputable def execBmul2E (f : FormE) (s : State) : Out :=
  packedOp (.bmul2E f) false f.rm mul2 s

/-- `bfma2`, one-word form: packed fused multiply-add (R154). -/
noncomputable def execBfma2 (f : Form1) (s : State) : Out :=
  packedOp (.bfma2 f) false 0 fma2 s

/-- `bfma2`, E form: packed fused multiply-add (R154). -/
noncomputable def execBfma2E (f : FormE) (s : State) : Out :=
  packedOp (.bfma2E f) false f.rm fma2 s

/-- `bmin2`, one-word form: packed minimumNumber (R154). -/
noncomputable def execBmin2 (f : Form1) (s : State) : Out :=
  packedOp (.bmin2 f) false 0 (fun F _ x => minMax2 F true x) s

/-- `bmin2`, E form: packed minimumNumber (R154). -/
noncomputable def execBmin2E (f : FormE) (s : State) : Out :=
  packedOp (.bmin2E f) false 0 (fun F _ x => minMax2 F true x) s

/-- `bmax2`, one-word form: packed maximumNumber (R154). -/
noncomputable def execBmax2 (f : Form1) (s : State) : Out :=
  packedOp (.bmax2 f) false 0 (fun F _ x => minMax2 F false x) s

/-- `bmax2`, E form: packed maximumNumber (R154). -/
noncomputable def execBmax2E (f : FormE) (s : State) : Out :=
  packedOp (.bmax2E f) false 0 (fun F _ x => minMax2 F false x) s

/-- `idp4`, one-word form: c is d (R155). -/
noncomputable def execIdp4 (f : Form1) (s : State) : Out :=
  aluOp (.idp4 f) {} (idp 8 4 true true false) s

/-- `idp4`, E form (R155). -/
noncomputable def execIdp4E (f : FormE) (s : State) : Out :=
  aluOp (.idp4E f) {} (idp 8 4 true true (f.bit 0 == 1)) s

/-- `idp4n`, one-word form: c is d (R155). -/
noncomputable def execIdp4n (f : Form1) (s : State) : Out :=
  aluOp (.idp4n f) {} (idp 8 4 false true false) s

/-- `idp4n`, E form (R155). -/
noncomputable def execIdp4nE (f : FormE) (s : State) : Out :=
  aluOp (.idp4nE f) {} (idp 8 4 false true (f.bit 0 == 1)) s

/-- `idp8`: eight 4-bit products (R155). -/
noncomputable def execIdp8 (f : FormE) (s : State) : Out :=
  aluOp (.idp8 f) {} (idp 4 8 (f.bit 1 == 0) (f.bit 2 == 0) (f.bit 0 == 1)) s

/-- `bdp2`, one-word form: two products and an FP32 addend, rounded once (R156). -/
noncomputable def execBdp2 (f : Form1) (s : State) : Out :=
  laneOp (.bdp2 f) { immPacked false with c := .f32 } (fun _ _ p x => .num (dp2 bf16 (modeRM p 0) x)) s

/-- `bdp2`, E form: two products and an FP32 addend, rounded once (R156). -/
noncomputable def execBdp2E (f : FormE) (s : State) : Out :=
  laneOp (.bdp2E f) { immPacked false with c := .f32 } (fun _ _ p x => .num (dp2 bf16 (modeRM p f.rm) x)) s

/-- `hdp2`, one-word form: two products and an FP32 addend, rounded once (R156). -/
noncomputable def execHdp2 (f : Form1) (s : State) : Out :=
  laneOp (.hdp2 f) { immPacked true with c := .f32 } (fun _ _ p x => .num (dp2 fp16 (modeRM p 0) x)) s

/-- `hdp2`, E form: two products and an FP32 addend, rounded once (R156). -/
noncomputable def execHdp2E (f : FormE) (s : State) : Out :=
  laneOp (.hdp2E f) { immPacked true with c := .f32 } (fun _ _ p x => .num (dp2 fp16 (modeRM p f.rm) x)) s

/-- `cvt` (R158). -/
noncomputable def execCvt (f : FormE) (s : State) : Out :=
  laneOp (.cvt f) {} (fun _ _ p x => cvtOp f p x) s

/-- `cvtsr` (R159). -/
noncomputable def execCvtsr (f : FormE) (s : State) : Out :=
  aluOp (.cvtsr f) {} (cvtsrOp f) s

/-- `pack` (R160). -/
noncomputable def execPack (f : FormE) (s : State) : Out :=
  laneOp (.pack f) {} (fun _ _ p x => packOp f p x) s

/-- `unpack` (R160). -/
noncomputable def execUnpack (f : FormE) (s : State) : Out :=
  laneOp (.unpack f) {} (fun _ _ p x => unpackOp f p x) s

/-- `qnt` (R163). -/
noncomputable def execQnt (f : FormE) (s : State) : Out :=
  laneOp (.qnt f) { a := .f32 } (fun _ _ p x => qnt (modeRM p f.rm) f.c.f.toNat x) s

/-- `dqnt` (R163). -/
noncomputable def execDqnt (f : FormE) (s : State) : Out :=
  aluOp (.dqnt f) {} (dqnt f.c.f.toNat) s

/-- `qparam` (R162). -/
noncomputable def execQparam (f : FormE) (s : State) : Out :=
  laneOp (.qparam f) immF32 (fun _ _ p x => .num (qparam (modeRM p f.rm) f.c.f.toNat x)) s

/-- `mxexp`, one-word form: MXINT8 (R164). -/
noncomputable def execMxexp (f : Form1) (s : State) : Out :=
  aluOp (.mxexp f) immF32 (mxexp false) s

/-- `mxexp`, E form (R164). -/
noncomputable def execMxexpE (f : FormE) (s : State) : Out :=
  aluOp (.mxexpE f) immF32 (mxexp (f.bit 0 == 1)) s

/-- `mxq` (R165). -/
noncomputable def execMxq (f : FormE) (s : State) : Out :=
  laneOp (.mxq f) { a := .f32 } (fun _ _ p x => mxq (modeRM p f.rm) (f.bit 0 == 1) x) s

/-- `mxdq` (R165). -/
noncomputable def execMxdq (f : FormE) (s : State) : Out :=
  laneOp (.mxdq f) {} (fun _ _ p x => mxdq (modeRM p f.rm) (f.bit 0 == 1) x) s

/-- `fmtset`, one-word form (R146). -/
noncomputable def execFmtset (f : Form1) (s : State) : Out :=
  fmtsetOp (.fmtset f) (fun h g ls => BitVec.ofNat 32 (uniVal h g (.src 1) (Fld.reg f.a) ls)) s

/-- `fmtset`, I form (R146). -/
noncomputable def execFmtsetI (f : FormI) (s : State) : Out :=
  fmtsetOp (.fmtsetI f) (fun _ _ _ => f.imm) s

/-- `fmtget`: as `srd` of FMT (R147). -/
noncomputable def execFmtget (f : Form1) (s : State) : Out :=
  laneOpAt (.fmtget f) {} (fun _ c g p _ => .val (srdSplit c g p).2.fmt.toNat) s

end Sys2Proof.Machine
end

