-- ==== Sys2Proof/Machine/Lanes.lean ====
section
/-! DEFINITION. Lane instructions (08_control_lanes_regroup.md R185 to R190). -/

namespace Sys2Proof.Machine

/-- An instruction over the participants: `f` gives a lane's results from the group, the participants and its own
sources (R185). -/
def partOp (i : Instr) (im : Imms) (f : Header → Group → Split → List Nat → LaneIn → LaneOut) (s : State) : Out :=
  laneOpAt i im (fun s _ g p x => f (s.hdr g) g p (execLanes g p i.view.g) x) s

/-- The source lane of `lxch` for lane `l` with b (R186); none outside 0 to 31. -/
def lxchSource (mode l b : Nat) : Option Nat :=
  match mode with
  | 0 => some (b % 32)
  | 1 => some ((l + b % 32) % 32)
  | 2 =>
    let n : Int := (l : Int) + sextN b 32
    if 0 ≤ n ∧ n ≤ 31 then some n.toNat else none
  | _ => some ((BitVec.ofNat 5 l ^^^ BitVec.ofNat 5 b).toNat)

/-- `lxch` (R186). -/
noncomputable def execLxch (f : FormE) (s : State) : Out :=
  let i := Instr.lxch f
  partOp i {} (fun h g _ ls x =>
    match lxchSource f.ck x.lane x.b with
    | none => { d := some x.a }
    | some m =>
      if g.dead.getLsbD m then { d := some 0, flags := flagLD }
      else if ls.contains m then { d := some (fieldVal h g.rrb (g.thread m) i.info.a i.view.a .int) }
      else { d := some x.a }) s

/-- Participants whose predicate XOR NEG is 1 (R187). -/
def pollLanes (f : FormE) (g : Group) (ls : List Nat) : List Nat :=
  ls.filter fun l => ((g.thread l).pred f.a.f.toNat).xor (f.bit 3 = 1)

/-- `lpoll` (R187). -/
noncomputable def execLpoll (f : FormE) (s : State) : Out :=
  partOp (.lpoll f) {} (fun _ g _ ls _ =>
    let q := pollLanes f g ls
    match f.ck with
    | 0 => { d := some (maskOf q).toNat }
    | 1 => { preds := [(f.xd.toNat, q.length = ls.length)] }
    | 2 => { preds := [(f.xd.toNat, !q.isEmpty)] }
    | _ => { d := some q.length }) s

/-- `lpeer` (R188). -/
noncomputable def execLpeer (f : FormE) (s : State) : Out :=
  let i := Instr.lpeer f
  partOp i {} (fun h g _ ls x =>
    let same := ls.filter fun l => fieldVal h g.rrb (g.thread l) i.info.a i.view.a .int = x.a
    match f.ck with
    | 0 => { d := some (maskOf same).toNat }
    | 2 => { d := some (lowLane same) }
    | _ =>
      let all := same.length = ls.length
      { d := some (if all then (maskOf ls).toNat else 0), preds := [(f.c.f.toNat, all)] }) s

/-- One combination of `lfold` (R189). -/
def foldWord (op x y : Nat) : Nat :=
  match op with
  | 0 => (x + y) % 2 ^ 32
  | 1 => if sextN x 32 ≤ sextN y 32 then x else y
  | 2 => if sextN x 32 ≤ sextN y 32 then y else x
  | 3 => Nat.min x y
  | 4 => Nat.max x y
  | 5 => x &&& y
  | 6 => x ||| y
  | _ => x ^^^ y

/-- The fold of a nonempty list of values. -/
def foldList (op : Nat) : List Nat → Nat
  | [] => 0
  | x :: xs => xs.foldl (foldWord op) x

/-- `lfold` (R189). -/
noncomputable def execLfold (f : FormE) (s : State) : Out :=
  let i := Instr.lfold f
  partOp i {} (fun h g _ ls x =>
    let upto := if f.bit 4 = 1 then ls.filter fun l => decide (l ≤ x.lane) else ls
    { d := some (foldList f.j (upto.map fun l => fieldVal h g.rrb (g.thread l) i.info.a i.view.a .int)) }) s

/-- One combination of `flfold` (R190). A value that meets no other passes as it stands, a NaN that is not canonical too: the
model's choice (notes/assumptions/28.md). -/
def combF (R : Rnd) (op : Nat) (x y : Option (Nat × Nat)) : Option (Nat × Nat) :=
  match x, y with
  | none, y => y
  | x, none => x
  | some (a, fa), some (b, fb) =>
    let r := if op = 0 then addF R fp32 a b else minMax fp32 (op == 1) a b
    some (r.1, fa ||| fb ||| r.2)

/-- One level of the tree: neighbours combine. -/
def pairUp (R : Rnd) (op : Nat) : List (Option (Nat × Nat)) → List (Option (Nat × Nat))
  | x :: y :: rest => combF R op x y :: pairUp R op rest
  | xs => xs

/-- `flfold` (R190): five levels over 32 lane positions. -/
noncomputable def execFlfold (f : FormE) (s : State) : Out :=
  let i := Instr.flfold f
  partOp i immF32 (fun h g p ls _ =>
    let e := lanes32.map fun l =>
      if ls.contains l then some (fieldVal h g.rrb (g.thread l) i.info.a i.view.a .f32, 0) else none
    let R := modeRM p f.rm
    match (pairUp R f.j (pairUp R f.j (pairUp R f.j (pairUp R f.j (pairUp R f.j e))))).headD none with
    | some r => .num r
    | none => {}) s

end Sys2Proof.Machine
end

