-- ==== Sys2Proof/Machine/Control.lean ====
section
/-! DEFINITION. Control flow (08_control_lanes_regroup.md R166 to R184, R464): branches, calls, joins, join records, the
reconvergence stack, exits and dead lanes, yields. -/

namespace Sys2Proof.Machine

/-! ## Joins (R174 to R179, R464) -/

/-- SIG after a merge event at `j` (09 R214); with SIGMODE 0 SIG is not kept (R88). -/
def foldMerge (sm : Bool) (sig : Word) (j : DWord) : Word := if sm then crc32c sig (j.setWidth 32) else sig

/-- The innermost join of a split (R174). -/
def Group.innermost (g : Group) (p : Split) : Option DWord :=
  match p.stack with
  | e :: _ => some e.join
  | [] =>
    match p.chain with
    | some q => (FMap.find g.records q).map (·.j)
    | none => none

/-- The records of a chain, innermost first. -/
def chainIds (recs : FMap JoinRecord) : Nat → Option Nat → List Nat
  | 0, _ | _, none => []
  | n + 1, some q =>
    match FMap.find recs q with
    | some r => q :: chainIds recs n r.outer
    | none => []

/-- In every record of a chain, the bits of `old` go out of MEMBERS, and out of ARRIVED on a merge, and bit `m` stands
for them in MEMBERS where one of them was set (R464). -/
def rewriteChain (recs : FMap JoinRecord) (chain : Option Nat) (old : BitVec 4) (m : Nat) : FMap JoinRecord :=
  (chainIds recs 3 chain).foldl (fun rs q =>
    match FMap.find rs q with
    | some r =>
      if r.members &&& old = 0 then FMap.put rs q { r with arrived := r.arrived &&& ~~~old }
      else FMap.put rs q { r with members := (r.members &&& ~~~old) ||| ((1#4) <<< m), arrived := r.arrived &&& ~~~old }
    | none => rs) recs

/-- The indices of a member mask, ascending. -/
def members4 (m : BitVec 4) : List Nat := (List.range 4).filter fun i => m.getLsbD i

/-- A split that a join action has set before the clause header at its PC. -/
def Split.standAt (p : Split) (now : Nat) : Split :=
  { p with clause := none, wait := .held, resume := none, issued := false, replay := none, seen := none, only := none,
           rt := now, pass := 0 }

/-- The stack's action (R177), with the fold of R214 at the final pop. -/
def stackAct (sm : Bool) (dead : Mask) (p : Split) (e : StackEntry) (es : List StackEntry) : Split :=
  if !e.deferred && e.dmask &&& ~~~dead != 0 then
    { p with stack := { e with wmask := e.wmask ||| p.active, deferred := true } :: es, active := e.dmask &&& ~~~dead,
             pc := e.resume, fmt := e.fmt }
  else
    { p with stack := es, active := (e.wmask ||| p.active) &&& ~~~dead, fmt := e.fmt, pc := e.join,
             sig := foldMerge sm p.sig e.join }

/-- What the stack's action of split `k` changes in program order: its paths are unrelated, and the merge that ends them comes
after both (14 R322). -/
def stackMove (dead : Mask) (k : Nat) (e : StackEntry) : Renames :=
  if !e.deferred && e.dmask &&& ~~~dead != 0 then [.aside k e.since] else [.back k e.since]

/-- The lowest split index not in use (R86). -/
def Group.freeSplit (g : Group) : Option Nat := (List.range 4).find? fun i => (g.split i).isNone

/-- A record merges (R178, R464). The STALL of the merged split's next clause counts from the present cycle, as it does after every other
action at a join: the model's choice (R24; notes/assumptions/46.md). -/
def Group.merge (g : Group) (sm : Bool) (now q : Nat) (r : JoinRecord) : Group × Renames :=
  let ks := members4 r.members
  let m := ks.headD 0
  let ps := ks.filterMap g.split
  let act := (ps.foldl (fun a p => a ||| p.active) r.wmask) &&& ~~~g.dead
  let sig := if sm then foldMerge true (ps.foldl (fun x p => x ^^^ p.sig) 0#32) r.j else 0xFFFFFFFF#32
  let g := g.updSplit m fun p =>
    { p.standAt now with active := act, fmt := r.fmt, chain := r.outer, pc := r.j, sig := sig, clauseEnd := now }
  ({ g with splits := (ks.drop 1).foldl FMap.erase g.splits,
            records := rewriteChain (FMap.erase g.records q) r.outer r.members m }, [.into (r.members.setWidth 5) m])

/-- One action of a split that has no active lane (R179, R464); for STALL see notes/assumptions/46.md. -/
def Group.emptyAct (g : Group) (sm : Bool) (now i : Nat) (p : Split) : Group × Renames :=
  match p.stack with
  | e :: es =>
    ({ g with splits := FMap.put g.splits i { (stackAct sm g.dead p e es).standAt now with clauseEnd := now } },
      stackMove g.dead i e)
  | [] =>
    let ended := { g with splits := FMap.erase g.splits i }
    match p.chain with
    | none => (ended, [])
    | some q =>
      match FMap.find g.records q with
      | none => (ended, [])
      | some r =>
        let bit := (1#4) <<< i
        let left := r.members &&& ~~~bit
        if left ≠ 0 then
          let m := (members4 left).headD 0
          let recs := FMap.put g.records q { r with members := left, arrived := r.arrived &&& ~~~bit }
          ({ ended with records := rewriteChain recs r.outer bit m }, [.into (bit.setWidth 5) m])
        else if r.wmask &&& ~~~g.dead = 0 then
          ({ g with records := FMap.erase g.records q,
                    splits := FMap.put g.splits i { p with chain := r.outer } }, [])
        else
          let n := (ended.freeSplit).getD i
          let sp : Split := { pc := r.j, active := r.wmask &&& ~~~g.dead, fmt := r.fmt, chain := r.outer, wait := .held,
                              sig := foldMerge sm 0xFFFFFFFF r.j, cls := p.cls, rt := now, clauseEnd := now }
          ({ ended with splits := FMap.put ended.splits n sp,
                        records := rewriteChain (FMap.erase g.records q) r.outer bit n }, [.into (bit.setWidth 5) n])

/-- What must happen at once: a record whose members have all arrived merges, and a split without active lanes acts;
the innermost record first, until neither is left. -/
def Group.settleJoins (sm : Bool) (now : Nat) : Nat → Group × Renames → Group × Renames
  | 0, x => x
  | n + 1, (g, rs) =>
    match g.splits.find? fun e => decide (e.1 < 4) && e.2.active == 0 with
    | some (i, p) =>
      let y := g.emptyAct sm now i p
      Group.settleJoins sm now n (y.1, rs ++ y.2)
    | none =>
      match g.records.find? fun e => e.2.members != 0 && e.2.members == e.2.arrived with
      | some (q, r) =>
        let y := g.merge sm now q r
        Group.settleJoins sm now n (y.1, rs ++ y.2)
      | none => (g, rs)

/-- Replace a group by its settled form. -/
def State.putSettled (s : State) (core gid : Nat) (g : Group) : State :=
  let y := Group.settleJoins (s.hdr g).sigMode s.now 64 (g, [])
  (s.setGroup core gid y.1).rename core gid y.2

/-- Steps of R177 of the split at its innermost join: the group afterwards. -/
def Group.joinAct (g : Group) (sm : Bool) (now k : Nat) (p : Split) : Group :=
  match p.stack with
  | e :: es => { g with splits := FMap.put g.splits k ((stackAct sm g.dead p e es).standAt now) }
  | [] =>
    match p.chain with
    | none => g
    | some q =>
      match FMap.find g.records q with
      | none => g
      | some r =>
        { g with records := FMap.put g.records q { r with arrived := r.arrived ||| ((1#4) <<< k) },
                 splits := FMap.put g.splits k { p with wait := .record q, clause := none, rt := now } }

/-- What those steps change in program order. -/
def Group.joinMoves (g : Group) (k : Nat) (p : Split) : Renames :=
  match p.stack with
  | e :: _ => stackMove g.dead k e
  | [] => []

/-! ## Dead lanes and retirement (R183, R216, 01 R27, R29) -/

/-- A key under which no group stands: what is in flight for a retired group keeps its effects on memory alone. -/
def noGid : Nat := 128

/-- What is in flight for a group that has retired: its writes are still performed, its results go nowhere. -/
def Flight.orphan (f : Flight) (core gid : Nat) : Flight :=
  { f with
    reqs := f.reqs.map (fun r => if r.core = core ∧ r.gid = gid then { r with gid := noGid } else r),
    sfu := f.sfu.filter (fun r => !(r.core = core && r.gid = gid)),
    copies := f.copies.map (fun c => if c.core = core ∧ c.gid = gid then { c with gid := noGid } else c),
    parks := f.parks.filter fun p =>
      match p.who with
      | .split c g _ _ _ => !(c = core && g = gid)
      | _ => true }

/-- Faults that a token holds when the group ends are discarded, each with one event (12 R286, 13 R315). -/
def State.discardHeld (s : State) (core : Nat) (g : Group) : State :=
  g.held.foldl (fun s f => s.post 0x08 f.code f.detail g.ctx core f.info 0) s

/-- The group has no live thread: it retires, or drains while a pan operation of it is in flight. -/
def State.retireGroup (s : State) (core gid : Nat) (g : Group) : State :=
  let s := s.discardHeld core g
  if s.fly.pmmas.any fun x => x.core = core && x.members.any fun m => m.1 = gid then
    s.setGroup core gid { g with phase := .draining, splits := [], records := [], held := [] }
  else { ((s.freeTrack core gid).dropGroup core gid) with fly := s.fly.orphan core gid }

/-- Lanes die or exit: DEAD is set, they leave ACTIVE, emptied splits act under R179, and a group without a live thread
ends. -/
def State.dropLanes (s : State) (core gid : Nat) (m : Mask) : State :=
  match s.group core gid with
  | none => s
  | some g =>
    let g := { g with dead := g.dead ||| m,
                      splits := g.splits.map fun e => (e.1, { e.2 with active := e.2.active &&& ~~~m }) }
    if g.dead = 0xFFFFFFFF#32 then s.retireGroup core gid g
    else s.putSettled core gid { g with splits := g.splits.filter fun e => !(e.1 = 4 && e.2.active == 0) }

/-! ## The yield request (04 R99, 02 R40, R184, 09 R218) -/

/-- The yield-request flag of a group. -/
def State.yieldFlag (s : State) (core : Nat) (g : Group) : Bool := (s.core core).yreqV && (s.core core).yreqCtx == g.ctx

/-- The group begins to yield; the split that yields stands at `pc`. -/
def State.beginYield (s : State) (core gid split : Nat) (pc : DWord) : State :=
  (s.updGroup core gid fun g =>
    { g.updSplit split (fun p => { p with pc := pc, wait := .yielding, resume := none, issued := false, seen := none }) with
      phase := .yielding }).freeTrack core gid

/-! ## Targets (R167, R172) -/

/-- BASE plus a displacement. -/
def dispTarget (c : Cur) (disp : Word) : DWord := c.base + disp.signExtend 64

/-- Every thread's value of a uniform operand, and UV under UCHK (R168). -/
def uniTarget (i : Instr) (h : Header) (g : Group) (ls : List Nat) : DWord × Nat :=
  (BitVec.ofNat 64 (uniVal h g i.info.a i.view.a ls), uniUV h g i.info.a i.view.a ls)

/-- ILLEGAL with DETAIL 4: a target that is no multiple of 4 (R172). -/
def badTarget (t : DWord) : Bool := t.toNat % 4 != 0

/-- A branch to a displacement: the whole split moves. -/
def branchOp (i : Instr) (disp : Word) (s : State) : Out :=
  gated i s fun c g p ls => .next ((s.issue c g p i ls.length).jump c (dispTarget c disp))

/-- A call: the link pair of every active thread, then the target. -/
def State.callTo (s : State) (c : Cur) (g : Group) (p : Split) (i : Instr) (ls : List Nat) (ra t : DWord) (uv : Nat) :
    State :=
  let h := s.hdr g
  let s := s.issue c g p i ls.length
  (s.updGroup c.core c.gid fun g => (g.writeAll h i ls ra.toNat).setFlags uv).jump c t

/-- Return address: after the words of the call (R171). -/
def returnAddr (c : Cur) (bytes : Nat) : DWord := c.base + BitVec.ofNat 64 (if c.dict then 4 else bytes)

/-- A transfer to a register target: `brx`, `ret`. -/
def branchReg (i : Instr) (s : State) : Out :=
  gated i s fun c g p ls =>
    let t := uniTarget i (s.hdr g) g ls
    if badTarget t.1 then .next (s.trapLow c g p cILLEGAL 4 0)
    else
      let s := (s.issue c g p i ls.length).updGroup c.core c.gid (·.setFlags t.2)
      .next (s.jump c t.1)

/-! ## Divergence (R176, Table 8.4) -/

/-- STACK, 0x0E. -/
def cSTACK : Nat := 0x0E

/-- What a divergent `brc` does to the group; none where its push finds the stack full. `t` are the taken lanes; requests
from number `next` on are those of the paths. -/
def diverge (g : Group) (now next k : Nat) (p : Split) (target j : DWord) (t f : Mask) : Option (Group × Renames) :=
  let inner := g.innermost p
  let here := { p with active := f }
  let put := fun (g : Group) (q : Split) => { g with splits := FMap.put g.splits k q }
  let push := fun (e : StackEntry) =>
    if 8 ≤ p.stack.length then none else some (put g { here with stack := e :: p.stack }, ([] : Renames))
  let fresh := fun (chain : Option Nat) =>
    ({ pc := target, active := t, fmt := p.fmt, sig := p.sig, chain := chain, wait := .held, cls := p.cls, rt := now,
       clauseEnd := now } : Split)
  let later : StackEntry :=
    { resume := target, join := j, dmask := t, wmask := 0, fmt := p.fmt, deferred := false, since := next }
  if target = j then
    if inner = some j then
      match p.stack, p.chain with
      | e :: es, _ => some (put g { here with stack := { e with wmask := e.wmask ||| t } :: es }, [])
      | [], some q =>
        match FMap.find g.records q with
        | some r => some ({ put g here with records := FMap.put g.records q { r with wmask := r.wmask ||| t } }, [])
        | none => none
      | [], none => none
    else push { resume := 0, join := j, dmask := 0, wmask := t, fmt := p.fmt, deferred := false, since := next }
  else
    match p.stack, g.freeSplit, p.chain with
    | [], some n, some q =>
      match decide (inner = some j), FMap.find g.records q, (List.range 3).find? fun i => (FMap.find g.records i).isNone with
      | true, some r, _ =>
        some ({ put g here with splits := FMap.put (put g here).splits n (fresh (some q)),
                                records := FMap.put g.records q { r with members := r.members ||| ((1#4) <<< n) } },
              [.into ((1#5) <<< k) n])
      | _, _, some q' =>
        let r : JoinRecord := { j := j, fmt := p.fmt, members := ((1#4) <<< k) ||| ((1#4) <<< n), arrived := 0, wmask := 0,
                                outer := some q }
        some ({ g with splits := FMap.put (put g { here with chain := some q' }).splits n (fresh (some q')),
                       records := FMap.put g.records q' r }, [.into ((1#5) <<< k) n])
      | _, _, none => push later
    | [], some n, none =>
      match (List.range 3).find? fun i => (FMap.find g.records i).isNone with
      | some q' =>
        let r : JoinRecord := { j := j, fmt := p.fmt, members := ((1#4) <<< k) ||| ((1#4) <<< n), arrived := 0, wmask := 0,
                                outer := none }
        some ({ g with splits := FMap.put (put g { here with chain := some q' }).splits n (fresh (some q')),
                       records := FMap.put g.records q' r }, [.into ((1#5) <<< k) n])
      | none => push later
    | _, _, _ => push later

/-- Lanes whose predicate PS XOR NP is 1. -/
def takenLanes (g : Group) (mod : Nat) (ls : List Nat) : List Nat :=
  ls.filter fun l => ((g.thread l).pred (mod % 8)).xor (mod / 8 % 2 = 1)

/-- `brc` (R176). -/
def brcOp (i : Instr) (f : FormI) (s : State) : Out :=
  gated i s fun c g p ls =>
    let taken := takenLanes g f.mod.toNat ls
    let tm := maskOf taken
    let fm := (maskOf ls) &&& ~~~tm
    if tm = 0 then .next ((s.issue c g p i ls.length).advance c)
    else if fm = 0 then .next ((s.issue c g p i ls.length).jump c (dispTarget c f.imm))
    else
      let s' := s.issue c g p i ls.length
      let ready := do
        let g' ← s'.group c.core c.gid
        let p' ← g'.split c.split
        diverge g' s.now s.fresh c.split p' (dispTarget c f.imm) (c.base + BitVec.ofNat 64 (4 * f.joff)) tm fm
      match ready with
      | none => .next (s.trapLow c g p cSTACK 0 0)
      | some x => .next (((s'.setGroup c.core c.gid x.1).rename c.core c.gid x.2).advance c)

/-! ## Meanings -/

/-- `nop` (R169). -/
noncomputable def execNop (f : Form1) (s : State) : Out :=
  gated (.nop f) s fun c g p ls => .next ((s.issue c g p (.nop f) ls.length).advance c)

/-- `bra` (R170). -/
noncomputable def execBra (f : FormI) (s : State) : Out := branchOp (.bra f) f.imm s

/-- `brc` (R176). -/
noncomputable def execBrc (f : FormI) (s : State) : Out := brcOp (.brc f) f s

/-- `bru` (R170): decided by the lowest active thread's predicate. -/
noncomputable def execBru (f : FormI) (s : State) : Out :=
  gated (.bru f) s fun c g p ls =>
    let taken := takenLanes g f.mod.toNat ls
    let go := taken.contains (lowLane ls)
    let uv := flagIf (uchk g && ls.any fun l => taken.contains l != go) flagUV
    let s := (s.issue c g p (.bru f) ls.length).updGroup c.core c.gid (·.setFlags uv)
    .next (if go then s.jump c (dispTarget c f.imm) else s.advance c)

/-- `brx` (R170, R172). -/
noncomputable def execBrx (f : Form1) (s : State) : Out := branchReg (.brx f) s

/-- `call` (R171). -/
noncomputable def execCall (f : FormI) (s : State) : Out :=
  gated (.call f) s fun c g p ls =>
    .next (s.callTo c g p (.call f) ls (returnAddr c 8) (dispTarget c f.imm) 0)

/-- `callx` (R171, R172). -/
noncomputable def execCallx (f : Form1) (s : State) : Out :=
  gated (.callx f) s fun c g p ls =>
    let t := uniTarget (.callx f) (s.hdr g) g ls
    if badTarget t.1 then .next (s.trapLow c g p cILLEGAL 4 0)
    else .next (s.callTo c g p (.callx f) ls (returnAddr c 4) t.1 t.2)

/-- `ret` (R171, R172). -/
noncomputable def execRet (f : Form1) (s : State) : Out := branchReg (.ret f) s

/-- The counters after `brloop`, per thread. -/
def loopCount (h : Header) (g : Group) (i : Instr) (l : Nat) : Nat :=
  (fieldVal h g.rrb (g.thread l) i.info.d i.view.d .int + 2 ^ 32 - 1) % 2 ^ 32

/-- `brloop` (R182): the counter is resolved before RRB changes. -/
noncomputable def execBrloop (f : FormI) (s : State) : Out :=
  gated (.brloop f) s fun c g p ls =>
    let i := Instr.brloop f
    let h := s.hdr g
    let new := loopCount h g i
    let taken := new (lowLane ls) != 0
    let uv := flagIf (uchk g && ls.any fun l => new l != new (lowLane ls)) flagUV
    let s := (s.issue c g p i ls.length).updGroup c.core c.gid fun g' =>
      let g'' := (ls.foldl (fun (acc : Group) l =>
        acc.updThread l (·.setRegs (fieldRegs h g.rrb (g.thread l) i.info.d i.view.d) (new l))) g').setFlags uv
      if taken && h.rotSize != 0 then { g'' with rrb := (g''.rrb + h.rotSize - 1) % h.rotSize } else g''
    .next (if taken then s.jump c (dispTarget c f.imm) else s.advance c)

/-- `join` (R180): to the innermost join, or as `nop`. -/
noncomputable def execJoin (f : Form1) (s : State) : Out :=
  gated (.join f) s fun c g p ls =>
    let s := s.issue c g p (.join f) ls.length
    match g.innermost p with
    | some j => .next (s.jump c j)
    | none => .next (s.advance c)

/-- `exit` (R183): a split that keeps active lanes goes on; one left with none acts under R179. -/
noncomputable def execExit (f : Form1) (s : State) : Out :=
  gated (.exit f) s fun c g p ls =>
    let m := maskOf ls
    let s := s.issue c g p (.exit f) ls.length
    if p.active &&& ~~~g.dead &&& ~~~m = 0 then .next ((s.freeTrack c.core c.gid).dropLanes c.core c.gid m)
    else .next ((s.dropLanes c.core c.gid m).advance c)

/-- `yield` (R184). -/
noncomputable def execYield (f : Form1) (s : State) : Out :=
  gated (.yield f) s fun c g p ls =>
    let s := s.issue c g p (.yield f) ls.length
    if s.yieldFlag c.core g then .next ((s.advance c).beginYield c.core c.gid c.split c.next) else .next (s.advance c)

/-- GANG, 0x0B. -/
def cGANG : Nat := 0x0B
/-- REGROUP, 0x0F. -/
def cREGROUP : Nat := 0x0F

/-- The workgroup of a group's lowest live thread. -/
def Group.lowWg (g : Group) : Nat := (g.thread (lowLane (maskLanes g.live))).wg

/-- Groups of the workgroup of a group's threads, which a mask over WGPOS may name: those of its launch, or of its own batch
for a node workgroup (R191, 17 R393). -/
def State.groupCount (s : State) (g : Group) : Nat :=
  match (s.wg g.lowWg).bind (·.node), s.launch g.launch with
  | some d, _ => (d.count + 31) / 32
  | none, some l => (l.lr.threads + 31) / 32
  | none, none => 1

/-- 1 bits of a 32-bit value. -/
def popCount (m : Mask) : Nat := (maskLanes m).length

/-- `gang` (R191): the three checks in order. -/
noncomputable def execGang (f : FormE) (s : State) : Out :=
  gated (.gang f) s fun c g p ls =>
    let i := Instr.gang f
    let h := s.hdr g
    let v : Mask := BitVec.ofNat 32 (uniVal h g i.info.a i.view.a ls)
    if g.mixed then .next (s.trapLow c g p cREGROUP 0 0)
    else if h.gangMax < popCount v then .next (s.trapLow c g p cRESOURCE 0 0)
    else if v ≠ 0 ∧ (!v.getLsbD g.wgpos ∨ v.toNat / 2 ^ s.groupCount g ≠ 0) then .next (s.trapLow c g p cGANG 0 0)
    else
      let uv := allUV h g i ls
      let s := (s.issue c g p i ls.length).updGroup c.core c.gid fun g => { g with gang := v }.setFlags uv
      .next (s.advance c)

/-- `rset` (R192). -/
noncomputable def execRset (f : FormE) (s : State) : Out :=
  gated (.rset f) s fun c g p ls =>
    let i := Instr.rset f
    let h := s.hdr g
    let v := uniVal h g i.info.a i.view.a ls
    let r := if h.rotSize = 0 then 0
      else if f.bit 1 = 1 then ((g.rrb + sextN v 32) % h.rotSize).toNat else v % h.rotSize
    let s := (s.issue c g p i ls.length).updGroup c.core c.gid fun g => { g with rrb := r }
    .next (s.advance c)

end Sys2Proof.Machine
end

