-- ==== Sys2Proof/Machine/Translate.lean ====
section
/-! DEFINITION. Translation (18_translation_tables.md): the walk and its checks, the TLBs, physical targets, sealing,
page faults and parking, kills of contexts, the table instructions, splinters and the owner's replies. -/

namespace Sys2Proof.Machine

/-! ## Accesses and outcomes of stage 7 (R403) -/

/-- Kinds of access by what stage 7 asks of them (R401, R403, Table 13.2). -/
inductive Access where
  /-- returns data -/
  | load
  /-- `st`, `st.rel`, bulk-copy writes -/
  | store
  /-- `atom`, `cas`: returns data and writes -/
  | rmw
  /-- the add of `evsig`, DONE and EVENT -/
  | add
  | red
  | redx
  | clrx
  /-- `rdx` -/
  | lineRead
  | fetch
  /-- the page of a granule that `seal` or `unseal` names -/
  | granule
  /-- `pref`: it returns nothing, and NR is not asked -/
  | prefetch
  deriving DecidableEq, Repr

/-- The access writes. -/
def Access.writes : Access → Bool
  | .store | .rmw | .add | .red | .redx | .clrx => true
  | .load | .lineRead | .fetch | .granule | .prefetch => false

/-- The access returns data read from the page (R401 NR). -/
def Access.returns : Access → Bool
  | .load | .rmw | .lineRead => true
  | .store | .add | .red | .redx | .clrx | .fetch | .granule | .prefetch => false

/-- KIND bits of a fault record (Table 18.3). -/
def Access.kind : Access → Nat
  | .fetch => 4
  | .load | .lineRead | .prefetch => 1
  | .store | .clrx | .granule => 2
  | .rmw | .add | .red | .redx => 3

/-- What translation answers. -/
inductive Tr where
  | ok (pa : Nat) (pte : DWord)
  | trap (code detail : Nat)
  | page
  | light
  /-- a context fault: DETAIL 1 or 2 where the walk began with no valid context (R399, R409), 0 where it read a poisoned
  entry (19 R426) -/
  | noContext (detail : Nat)
  /-- the walk waits for a line that its home cannot serve now (15 R341, R352, R353) -/
  | busy (line : Nat)
  deriving DecidableEq, Repr

/-- PAGE, 0x07. -/
def cPAGE : Nat := 0x07
/-- PROTECT, 0x08. -/
def cPROTECT : Nat := 0x08
/-- SEALED, 0x09. -/
def cSEALED : Nat := 0x09
/-- RED_MODE, 0x0A. -/
def cREDMODE : Nat := 0x0A
/-- MISALIGN, 0x05. -/
def cMISALIGN : Nat := 0x05
/-- SCRATCH, 0x06. -/
def cSCRATCH : Nat := 0x06
/-- FRAME_EXHAUSTED, 0x15. -/
def cFRAME : Nat := 0x15

/-- A 57-bit canonical address (R294). -/
def canonical (va : DWord) : Bool := va.toNat / 2 ^ 56 = 0 || va.toNat / 2 ^ 56 = 255

/-- A page-table entry's frame as a physical address. -/
def pteFrame (e : DWord) : Nat := e.toNat / 4096 % 2 ^ 40 * 4096
/-- Bit of a page-table entry. -/
def pteBit (e : DWord) (b : Nat) : Bool := e.getLsbD b
/-- Cache policy CP. -/
def pteCP (e : DWord) : Nat := e.toNat / 256 % 4

/-- A context's ROOT and FLAGS (R399). -/
def State.context (s : State) (ctx : Nat) : Nat × Nat :=
  (s.readN (s.xl.ctxBase.toNat + 16 * ctx) 8, s.readN (s.xl.ctxBase.toNat + 16 * ctx + 8) 4)

/-- The line of a context's entry. -/
def State.contextLine (s : State) (ctx : Nat) : Nat := (s.xl.ctxBase.toNat + 16 * ctx) / 64

/-- The context carries the system mark (03 R68, R399): V governs launches and walks alone. -/
def State.isSystem (s : State) (ctx : Nat) : Bool := s.xl.ctxBase != 0 && (s.context ctx).2 / 2 % 2 == 1

/-- A leaf found by a walk: its entry, where the entry lies, and the level. -/
inductive Leaf where
  | found (pte : DWord) (at_ level : Nat)
  | malformed
  | absent
  | poisoned (line : Nat)
  | busy (line : Nat)
  deriving DecidableEq, Repr

/-- Bytes mapped by a leaf of a level. -/
def leafSize (level : Nat) : Nat := 4096 * 512 ^ (level - 1)

/-- The walk from a table at a level (R401, R403). A table pointer's bits [11:1] are ignored. A line that its home cannot
serve now stops it (15 R341, R352, R353); the host's answer for a line serves a walk without being used up, the model's choice
(notes/assumptions/35.md). -/
def State.walk (s : State) (va : DWord) : Nat → Nat → Leaf
  | 0, _ => .malformed
  | level + 1, table =>
    let at_ := table + 8 * (va.toNat / 2 ^ (12 + 9 * level) % 512)
    let e : DWord := BitVec.ofNat 64 (s.readN at_ 8)
    let lf := pteBit e 52
    if s.badLine (at_ / 64) then .poisoned (at_ / 64)
    else if !s.lineCurrent (at_ / 64) then .busy (at_ / 64)
    else if !pteBit e 0 then .absent
    else if e.toNat / 2 ^ 53 ≠ 0 ∨ (lf ∧ (level = 0 ∨ 2 < level)) then .malformed
    else if level = 0 ∨ lf then
      if (level ≠ 0 ∧ pteBit e 11) ∨ pteFrame e % leafSize (level + 1) ≠ 0 ∨ pteCP e = 3 then .malformed
      else .found e at_ (level + 1)
    else if 2 ^ 40 ≤ pteFrame e then .malformed
    else s.walk va level (pteFrame e)

/-- The leaf of an address in a context, from its ROOT. -/
def State.leaf (s : State) (ctx : Nat) (va : DWord) : Leaf :=
  s.walk va 5 ((s.context ctx).1 / 4096 % 2 ^ 40 * 4096)

/-- Code of the context fault that a walk ends in: UNCORRECTABLE for a poisoned entry (R426), PAGE otherwise (R409). -/
def walkCode (detail : Nat) : Nat := if detail = 0 then 0x14 else cPAGE

/-- A page number of a 57-bit address. -/
def vpnOf (va : DWord) : Nat := va.toNat / 4096 % 2 ^ 45

/-- A TLB entry that serves an address for a core: the core's L1, its team's L2 or its die's last level (R404). -/
def TlbEntry.serves (t : TlbEntry) (core ctx : Nat) (va : DWord) : Bool :=
  t.ctx = ctx && decide (t.vpn ≤ vpnOf va) && decide (vpnOf va < t.vpn + t.pages) &&
    ((t.level = 0 && t.unit = core) || (t.level = 1 && t.unit = teamOf core) || (t.level = 2 && t.unit = dieOf core))

/-- The sealed ranges of a context hold the address (R417). -/
def State.sealed (s : State) (ctx : Nat) (va : DWord) : Bool :=
  s.xl.seals.any fun x => let e := x.2; e.ctx = ctx && decide (e.start.toNat ≤ va.toNat) &&
    decide (va.toNat < e.start.toNat + 65536 * e.granules)

/-- Checks 4 to 7 of R403 on a leaf, and the target of R348. -/
def State.permit (s : State) (ctx : Nat) (va : DWord) (k : Access) (e : DWord) (pa : Nat) : Tr :=
  let r := pteBit e 4
  let dev := s.isDevice pa
  if ((k.writes || k == .granule) && !pteBit e 1) || (k.returns && pteBit e 3) || (k == .fetch && !pteBit e 2) then .trap cPROTECT 2
  else if s.target pa = .nothing then .trap cPROTECT 2
  else if k.writes && s.sealed ctx va then .trap cSEALED 0
  else if r && (k == .store || k == .rmw || k == .add) then .trap cPROTECT 3
  else if r && k == .red then .trap cREDMODE 1
  else if (k == .redx || k == .clrx || k == .lineRead) && (!r || !dev) then .trap cREDMODE 2
  else if k.writes && !pteBit e 6 then .light
  else .ok (s.memKey pa) e

/-- Sixteen level-1 entries around the one at `at_` form a 64 KiB page (R402). -/
def State.bigPage (s : State) (at_ : Nat) : Bool :=
  let es : List DWord := (List.range 16).map fun i => BitVec.ofNat 64 (s.readN (at_ / 128 * 128 + 8 * i) 8)
  let first := es.headD 0
  pteFrame first % 65536 == 0 && (List.range 16).all fun i =>
    let e := es.getD i 0
    pteBit e 0 && pteBit e 11 && decide (e.toNat / 2 ^ 52 = 0) && pteFrame e == pteFrame first + 4096 * i &&
      e.toNat % 4096 == first.toNat % 4096

/-- The TLB entry that a walk to a leaf fills: 64 KiB where sixteen entries form such a page (R402, R405). -/
def State.tlbFor (s : State) (core ctx : Nat) (va e : DWord) (at_ level : Nat) : TlbEntry :=
  let big := level == 1 && pteBit e 11 && s.bigPage at_
  let n := if big then 16 else leafSize level / 4096
  { level := 0, unit := core, ctx := ctx, vpn := vpnOf va / n * n, pages := n,
    pte := if big then BitVec.ofNat 64 (s.readN (at_ / 128 * 128) 8) else e }

/-- Stage 7 for one address of a core's access (R403), with the entry to fill on success. -/
def State.translate (s : State) (core ctx : Nat) (va : DWord) (k : Access) : Tr × Option (TlbEntry) :=
  if !canonical va then (.trap cPROTECT 1, none)
  else
    match s.xl.tlb.find? (·.serves core ctx va) with
    | some t =>
      let base := pteFrame t.pte
      (s.permit ctx va k t.pte (base + va.toNat % (4096 * t.pages)), none)
    | none =>
      if s.xl.ctxBase = 0 then (.noContext 1, none)
      else if s.badLine (s.contextLine ctx) then (.noContext 0, none)
      else if !s.lineCurrent (s.contextLine ctx) then (.busy (s.contextLine ctx), none)
      else if (s.context ctx).2 % 2 = 0 then (.noContext 2, none)
      else
        match s.leaf ctx va with
        | .malformed => (.trap cPROTECT 5, none)
        | .absent => (.page, none)
        | .poisoned _ => (.noContext 0, none)
        | .busy line => (.busy line, none)
        | .found e at_ level =>
          (s.permit ctx va k e (pteFrame e + va.toNat % leafSize level), some (s.tlbFor core ctx va e at_ level))

/-- Two entries lie in one TLB; a die's has a part of its own for 1 GiB pages (R404). -/
def TlbEntry.beside (a b : TlbEntry) : Bool :=
  a.level == b.level && a.unit == b.unit && (a.level != 2 || decide (a.pages < 2 ^ 18) == decide (b.pages < 2 ^ 18))

/-- Entries that the TLB of an entry holds (R404). -/
def TlbEntry.room (t : TlbEntry) : Nat :=
  match t.level with
  | 0 => 64
  | 1 => 2048
  | _ => if t.pages < 2 ^ 18 then 196608 else 384

/-- An entry comes into its TLB; the oldest of a full one goes, newest entries standing first (R404). -/
def putTlb (l : List TlbEntry) (t : TlbEntry) : List TlbEntry :=
  let mine := l.filter t.beside
  match mine.getLast? with
  | some old => if mine.length < t.room then t :: l else t :: l.erase old
  | none => t :: l

/-- A walk that succeeds fills the core's, the team's and the die's TLB (R405). -/
def State.fillTlb (s : State) (core : Nat) (t : Option TlbEntry) : State :=
  match t with
  | none => s
  | some t =>
    let l := putTlb (putTlb s.xl.tlb { t with level := 2, unit := dieOf core }) { t with level := 1, unit := teamOf core }
    { s with xl := { s.xl with tlb := putTlb l { t with level := 0, unit := core } } }

/-! ## Killing a context (09 R227, R228) -/

/-- A pan's owner (04 R97): a workgroup slot, 0xFE or 0xFF. -/
def CoreSt.owner (k : CoreSt) (pan : Nat) : Nat := FMap.get 0xFF k.pown pan

/-- The pans of a slot go back to owner 0xFF (10 R239). -/
def CoreSt.freePans (k : CoreSt) (slot : Nat) : CoreSt :=
  { k with pown := k.pown.filter fun e => e.2 ≠ slot }

/-- A workgroup leaves its core. -/
def State.dropWg (s : State) (w : Nat) : State :=
  match s.wg w with
  | none => s
  | some x => { (s.updCore x.core (·.freePans x.slot)) with wgs := FMap.erase s.wgs w }

/-- The groups of a context on a core, by GID. -/
def CoreSt.groupsOf (k : CoreSt) (ctx : Nat) : List Nat :=
  k.groups.filterMap fun e => if e.2.ctx = ctx then some e.1 else none

/-- Take a group off its core with everything that it has in flight; its fellow `pmma` members lose the token. -/
def State.removeGroup (s : State) (core gid : Nat) : State :=
  let others := s.fly.membersWith core gid
  let s := match s.group core gid with
    | some g => s.leaveSnaps core gid g
    | none => s
  let s := ((s.freeTrack core gid).dropGroup core gid).releaseTokens core others
  { s with fly := s.fly.cancel core gid }

/-- What kills a context ends its `snap` generations' writes (16 R369, 09 R227): nothing is written for them any more. -/
def Gens.silence (g : Gens) (ctx : Nat) : Gens :=
  let quiet := fun (r : GenRec) => if r.ctx = ctx then { r with mute := true } else r
  { g with retained := g.retained.map quiet,
           advance := g.advance.map fun a => { a with rec_ := quiet a.rec_ },
           orphans := g.orphans.map fun o => if o.ctx = ctx then { o with mute := true } else o }

/-- Kill a context (R227): its groups stop and are discarded, its waiters with them, its pan operations and copies are
cancelled, its writes that are not performed are discarded; kill-complete comes later (KILL_COMPLETE). -/
def State.killContext (s : State) (ctx : Nat) : State :=
  if s.killing.contains ctx then s
  else
    let s := s.cores.foldl (fun (s : State) c =>
      (c.2.groupsOf ctx).foldl (fun (s : State) g => s.removeGroup c.1 g) s) s
    let mine := s.q.launches.filterMap fun e => if e.2.lr.ctx = ctx then some e.1 else none
    let s := (s.wgs.filterMap fun e => if e.2.ctx = ctx then some e.1 else none).foldl State.dropWg s
    { s with
      killing := ctx :: s.killing,
      kept := s.kept.filter (fun k => k.ctx ≠ ctx),
      cores := s.cores.map (fun c =>
        (c.1, { c.2 with
          saveFault := c.2.saveFault || (c.2.yreqV && c.2.yreqCtx == ctx),
          saved := c.2.saved.filter (fun g => g.group.ctx ≠ ctx),
          savedWgs := c.2.savedWgs.filter (fun w => w.wg.ctx ≠ ctx) })),
      q := { s.q with
        launches := s.q.launches.map (fun e => if e.2.lr.ctx = ctx then (e.1, { e.2 with st := .killed }) else e),
        waiting := s.q.waiting.filter (fun u => !mine.contains u.launch),
        restores := s.q.restores.filter (fun u => !mine.contains u.launch),
        fifos := s.q.fifos.filter (fun f => !mine.contains f.launch),
        transit := s.q.transit.filter (fun t => !mine.contains t.launch) },
      fly := { s.fly with
        reqs := s.fly.reqs.filter (fun r => r.ctx ≠ ctx),
        scratch := s.fly.scratch.filter (fun r => r.ctx ≠ ctx),
        writes := s.fly.writes.filter (fun w => w.ctx ≠ some ctx),
        prefs := s.fly.prefs.filter (fun p => p.ctx ≠ ctx),
        parks := s.fly.parks.filter (fun p => p.ctx ≠ ctx),
        copies := s.fly.copies.filter (fun c => c.ctx ≠ ctx),
        pmmas := s.fly.pmmas.filter (fun x => x.ctx ≠ ctx) },
      gen := s.gen.silence ctx,
      xl := { s.xl with
        faults := s.xl.faults.filter (fun f => f.ctx ≠ ctx),
        unposted := s.xl.unposted.filter (fun f => f.ctx ≠ ctx) } }

/-- A context fault (R228): the context is killed and one event is posted. -/
def State.contextFault (s : State) (ctx code detail core : Nat) (pc : DWord) (tid : Word) : State :=
  if s.killing.contains ctx then s else (s.killContext ctx).post 0x02 code detail ctx core pc tid

/-- The context fault of a walk (R399, R409, 19 R426): an entry in error is detected, and the event then holds the PC, where there
is one; for PAGE it holds the address. -/
def State.walkFault (s : State) (ctx detail core : Nat) (pc va : DWord) (tid : Word) : State :=
  if detail ≠ 0 then s.contextFault ctx (walkCode detail) detail core va tid
  else
    let entry := match s.leaf ctx va with
      | .poisoned line => [line]
      | _ => []
    ((s.contextLine ctx :: entry).foldl State.detect s).contextFault ctx (walkCode 0) 0 core pc tid

/-! ## Page faults (R407 to R409) -/

/-- A fault ring that can be posted to. -/
def Xlat.postable (x : Xlat) : Bool := x.pfBase != 0 && ringSizeOk x.pfSize 16 4096

/-- The 4 KiB page of an address. -/
def pageOf (va : DWord) : DWord := va &&& ~~~4095#64

/-- Post one fault record (Table 18.3): PFHEAD goes forward once it is written. -/
def State.postFault (s : State) (u : Unposted) : State :=
  let at_ := s.xl.pfBase.toNat + 32 * ((s.xl.pfHead.toNat + s.queued .pageFaults) % s.xl.pfSize.toNat)
  let bs := toBytes 8 u.va.toNat ++ toBytes 1 u.ctx ++ toBytes 1 u.kind ++ toBytes 2 s.xl.pfSeq ++ toBytes 2 u.core ++
    toBytes 2 0 ++ toBytes 8 s.clk.time ++ toBytes 8 0
  let r : FaultRec := { seq := s.xl.pfSeq, ctx := u.ctx, va := u.va, core := u.core }
  let s := s.deviceWrite { id := 0, chan := .pageFaults, pa := at_, bytes := bs, follow := .pfHead }
  { s with xl := { s.xl with pfSeq := (s.xl.pfSeq + 1) % 2 ^ 16, faults := s.xl.faults ++ [r] } }

/-- The ring is full. -/
def State.pfFull (s : State) : Bool :=
  s.xl.pfHead + BitVec.ofNat 32 (s.queued .pageFaults) - s.xl.pfTail == s.xl.pfSize

/-- A PAGE fault: it joins the outstanding record of its context and page, posts one, or waits unposted (R407); one that
cannot be posted is a context fault (R409). -/
def State.pageFault (s : State) (ctx : Nat) (va : DWord) (kind core : Nat) : State :=
  let page := pageOf va
  if s.xl.faults.any (fun f => f.ctx = ctx && f.va = page) then s
  else if !s.xl.postable then s.contextFault ctx cPAGE 1 core va 0
  else if s.xl.unposted.any (fun f => f.ctx = ctx && f.va = page) then s
  else
    let u : Unposted := { ctx := ctx, va := page, kind := kind, core := core }
    if s.pfFull then { s with xl := { s.xl with unposted := s.xl.unposted ++ [u] } } else s.postFault u

/-- Post faults that wait, while there is room. -/
def State.postWaiting (s : State) : Nat → State
  | 0 => s
  | n + 1 =>
    match s.xl.unposted with
    | [] => s
    | u :: us =>
      if s.pfFull || !s.xl.postable then s
      else State.postWaiting ({ s with xl := { s.xl with unposted := us } }.postFault u) n

/-- PFTAIL has gone forward (R407): waiting faults are posted, or end in a context fault where posting has been disabled
since (R409). -/
def State.tailMoved (s : State) : State :=
  if s.xl.postable then s.postWaiting s.xl.unposted.length
  else s.xl.unposted.foldl (fun (s : State) u => s.contextFault u.ctx cPAGE 1 u.core u.va 0) { s with xl := { s.xl with unposted := [] } }

/-- Park a waiter on the pages of addresses under a key: each PAGE posts or joins its record; light faults are served by
LIGHT_FAULT_SERVICE. -/
def State.parkAs (s : State) (id : Nat) (who : Waiter) (ctx core : Nat) (pages : List (DWord × Nat × Bool)) : State :=
  let s := { s with fly := { s.fly with
    parks := s.fly.parks ++ [{ id := id, who := who, ctx := ctx, pages := pages.map fun p => (pageOf p.1, p.2), core := core }] } }
  pages.foldl (fun s p => if p.2.2 then s else s.pageFault ctx p.1 p.2.1 core) s

/-- Park a waiter under a fresh key. -/
def State.park (s : State) (who : Waiter) (ctx core : Nat) (pages : List (DWord × Nat × Bool)) : State × Nat :=
  (s.newKey.2.parkAs s.newKey.1 who ctx core pages, s.newKey.1)

/-! ## Accesses without a group (R463) -/

/-- The outcome of an access that the device makes for a context, at the die's own walker. -/
inductive Groupless where
  /-- it is made, at an address whose page may be S-exempt -/
  | go (pa : Nat) (sx : Bool) (s : State)
  /-- a page, absent or clean -/
  | wait (va : DWord) (kind : Nat) (light : Bool)
  /-- a line that its home cannot serve now -/
  | busy
  | lost (s : State)
  | contextFault (detail : Nat)

/-- Set D of the leaf of an address and remove its translations (R406); the entry is written at its home. -/
def State.setDirty (s : State) (ctx : Nat) (va : DWord) : Written :=
  if s.xl.ctxBase = 0 ∨ (s.context ctx).2 % 2 = 0 then .done s
  else
    match s.leaf ctx va with
    | .found e at_ level =>
      if pteBit e 1 && !pteBit e 6 then
        match s.homeWrite ctx 0xFFFF at_ (toBytes 8 (e ||| 64#64).toNat) false with
        | .done s =>
          let n := leafSize level / 4096
          let first := vpnOf va / n * n
          .done { s.frameDone .table with xl := { s.xl with
            tlb := s.xl.tlb.filter fun t => !(t.ctx = ctx && decide (t.vpn < first + n) && decide (first < t.vpn + t.pages)) } }
        | .frame => .frame
        | .wait => .wait
      else .done s
    | .busy _ => .wait
    | _ => .done s

/-- One access of `n` bytes of a page without a group (R463). A read waits while a line of it cannot be served. -/
def State.groupless (s : State) (ctx : Nat) (va : DWord) (k : Access) (n : Nat) : Groupless :=
  let core := 0xFFFF
  let lost := fun (s : State) code detail => Groupless.lost (s.post 0x10 code detail ctx core va 0)
  let again := fun (s : State) =>
    match (s.translate core ctx va k).1 with
    | .ok pa e =>
      let sx := pteBit e 5
      let ls := linesIn pa n
      if !k.returns || !s.isDevice pa then .go pa sx s
      else if ls.any s.badLine then lost (s.detectAt pa n) 0x14 0
      else if !ls.all s.lineCurrent then .busy
      else .go pa sx (ls.foldl State.useSnoop (s.detectAt pa n))
    | .trap code detail => lost s code detail
    | .page => .wait va (k.kind + 0x20) false
    | .light => .wait va (k.kind + 0x20) true
    | .noContext d => .contextFault d
    | .busy _ => .busy
  match (s.translate core ctx va k).1 with
  | .light =>
    match s.setDirty ctx va with
    | .done t => again t
    | .frame | .wait => again s
  | _ => again s

/-! ## Meanings: the owner's replies, timers, light faults -/

/-- A write is the owner's; another master's is discarded and posted (19 R421). -/
def ownerWrite (s : State) (master off : Nat) (k : State → State) : Out :=
  if s.cust.attach.getLsbD master then
    .next (if master = s.cust.owner then k s else s.post 0x0C 0 0 0xFF 0xFFFF (BitVec.ofNat 64 off) 0)
  else .next s

/-- PFTAIL_WRITE (R407): room in the ring lets waiting faults be posted. -/
noncomputable def execPftailWrite (master : Nat) (value : BitVec 32) (s : State) : Out :=
  ownerWrite s master 0x618 fun s =>
    { s with xl := { s.xl with pfTail := value } }.tailMoved

/-- SEQ of a reply. -/
def replySeq (v : BitVec 32) : Nat := v.toNat % 2 ^ 16
/-- CODE of a reply. -/
def replyCode (v : BitVec 32) : Nat := v.toNat / 2 ^ 16 % 4

/-- The outstanding record that a reply names. -/
def Xlat.named (x : Xlat) (v : BitVec 32) : Option FaultRec := x.faults.find? fun f => f.seq = replySeq v

/-- A page is answered: it goes out of every park, and a park without pages left is due. -/
def Park.served (p : Park) (ctx : Nat) (page : DWord) (light : Bool) : Park :=
  if p.ctx = ctx then
    let left := p.pages.filter fun x => !(x.1 = page && x.2.2 = light)
    { p with pages := left, due := p.due || left.length < p.pages.length }
  else p

/-- Retry of a record (R408 CODE 0): every waiter on the page becomes due. -/
def State.retryRecord (s : State) (f : FaultRec) : State :=
  { s with xl := { s.xl with faults := s.xl.faults.filter (fun g => g.seq ≠ f.seq) },
           fly := { s.fly with parks := s.fly.parks.map fun p => p.served f.ctx f.va false } }

/-- PFREPLY holds its two fields: bits [31:18] are reserved (Table 18.1, 00 R5). -/
def State.setReply (s : State) (v : BitVec 32) : State := { s with xl := { s.xl with pfReply := v &&& 0x3FFFF } }

/-- What an accepted reply does (R408). -/
def State.reply (s : State) (v : BitVec 32) : State :=
  let s := s.setReply v
  match s.xl.named v with
  | none => s
  | some f =>
    match replyCode v with
    | 0 => s.retryRecord f
    | 1 =>
      if f.timer.isSome then s
      else
        let t := s.clk.time + 1000 * s.xl.fxTime.toNat
        let s := { s with xl := { s.xl with
          faults := s.xl.faults.map (fun (g : FaultRec) => if g.seq = f.seq then { g with timer := some t } else g) } }
        s.post 0x05 cFRAME 0 f.ctx f.core f.va 0
    | 2 => s.contextFault f.ctx cFRAME 0 f.core 0 0
    | _ => s

/-- PFREPLY_RETRY (R408): a reply with CODE 0. -/
noncomputable def execPfreplyRetry (master : Nat) (value : BitVec 32) (s : State) : Out :=
  if replyCode value = 0 then ownerWrite s master 0x61C (·.reply value) else .next s

/-- PFREPLY_NO_FRAME (R408): a reply with CODE 1. -/
noncomputable def execPfreplyNoFrame (master : Nat) (value : BitVec 32) (s : State) : Out :=
  if replyCode value = 1 then ownerWrite s master 0x61C (·.reply value) else .next s

/-- PFREPLY_FAIL (R408): a reply with CODE 2. -/
noncomputable def execPfreplyFail (master : Nat) (value : BitVec 32) (s : State) : Out :=
  if replyCode value = 2 then ownerWrite s master 0x61C (·.reply value) else .next s

/-- PFREPLY_IGNORED (R408): CODE 3, or a SEQ that is not outstanding, changes nothing. -/
noncomputable def execPfreplyIgnored (master : Nat) (value : BitVec 32) (s : State) : Out :=
  if replyCode value = 3 ∨ (s.xl.named value).isNone then ownerWrite s master 0x61C (·.setReply value) else .next s

/-- FXTIME_EXPIRY (R408): the timer of a record has run out. -/
noncomputable def execFxtimeExpiry (seq : Nat) (s : State) : Out :=
  match s.xl.faults.find? fun f => f.seq = seq with
  | some f =>
    match f.timer with
    | some t => if t ≤ s.clk.time then .next (s.contextFault f.ctx cFRAME 0 f.core 0 0) else .next s
    | none => .next s
  | none => .next s

/-- The service of one clean page (R406): D is set, the page's translations go, the waiters on it are due. While the entry
cannot be written the service goes on. -/
def State.cleanPage (s : State) (ctx : Nat) (page : DWord) : State :=
  match s.setDirty ctx page with
  | .done s => { s with fly := { s.fly with parks := s.fly.parks.map fun q => q.served ctx page true } }
  | .frame =>
    match s.leaf ctx page with
    | .found _ at_ _ => s.noteFrame { who := .table, page := at_ / 4096 }
    | _ => s
  | .wait => s

/-- LIGHT_FAULT_SERVICE (R406): the pages on which a park waits as clean. -/
noncomputable def execLightFaultService (park : Nat) (s : State) : Out :=
  match s.fly.parks.find? fun p => p.id = park with
  | none => .next s
  | some p => .next ((p.pages.filter (·.2.2)).foldl (fun (s : State) x => s.cleanPage p.ctx x.1) s)

end Sys2Proof.Machine
end

