-- ==== Sys2Proof/Machine/Traps.lean ====
section
/-! DEFINITION. Trap and handler instructions, signatures and dead lanes (09_traps_preemption.md R208 to R217). -/

namespace Sys2Proof.Machine

/-- SIGNATURE, 0x0D. -/
def cSIGNATURE : Nat := 0x0D
/-- ARITH, 0x10. -/
def cARITH : Nat := 0x10
/-- TRAP, 0x11. -/
def cTRAP : Nat := 0x11
/-- BREAK, 0x12. -/
def cBREAK : Nat := 0x12
/-- UNCORRECTABLE, 0x14. -/
def cUNCORRECTABLE : Nat := 0x14

/-- INFO of two words: h4 and h5 (Table 9.2). -/
def info2 (h4 h5 : Word) : DWord := BitVec.ofNat 64 (h4.toNat + 2 ^ 32 * h5.toNat)

/-- A thread dies of an uncorrectable error in data it alone owns (R216); its die counts it (Table 19.5). -/
def State.killLane (s : State) (core gid lane : Nat) : State :=
  match s.group core gid with
  | none => s
  | some g =>
    if g.dead.getLsbD lane then s
    else (s.dropLanes core gid (bitMask lane)).updDie (dieOf core) fun d => { d with deadLane := satInc d.deadLane }

/-- An uncorrectable error in state that the group shares kills the group (R217). -/
def State.killShared (s : State) (core gid : Nat) : State :=
  match s.group core gid with
  | none => s
  | some g => s.killGroup core gid cUNCORRECTABLE 0 ((g.splits.head?.map (·.2.pc)).getD 0) 0

/-- `sigchk` (R215, R88). -/
noncomputable def execSigchk (f : FormI) (s : State) : Out :=
  gated (.sigchk f) s fun c g p ls =>
    if (s.hdr g).sigMode && p.sig != f.imm then
      .next (s.trapLow c g p cSIGNATURE 0 (info2 p.sig f.imm))
    else
      let s' := s.issue c g p (.sigchk f) ls.length
      .next ((s'.updSplit c.core c.gid c.split fun q => { q with sig := 0xFFFFFFFF }).advance c)

/-- SFU results of a group that are pending. -/
def State.pendingSfu (s : State) (c : Cur) : List Nat :=
  (s.fly.sfu.filter fun r => r.core = c.core && r.gid = c.gid).map (·.id)

/-- `tfence` (R209): it waits once, for the results pending when it first issues, and then reads FLAGS: those set at its
issue, those of the results that it waited for, and those that other splits set meanwhile. Any other completion after its
issue sets a flag that it does not see (04 R90). -/
noncomputable def execTfence (f : Form1) (s : State) : Out :=
  gated (.tfence f) s fun c g p ls =>
    let ids := s.pendingSfu c
    let seen := g.seenBy p
    if p.seen.isNone && !ids.isEmpty then
      .next ((s.updGroup c.core c.gid fun x => x.foldSeen.updSplit c.split fun q => { q with seen := some g.flags }).stall c
        (.results ids) none)
    else if seen &&& g.ten &&& flagsMask ≠ 0 then
      .next (s.trap c (trapOf c cARITH 0 (activeLanes g p) (info2 (seen &&& g.ten) 0)))
    else .next ((s.issue c g p (.tfence f) ls.length).advance c)

/-- `trap` (R210): every active thread whose guard is true is a fault lane. -/
noncomputable def execTrap (f : FormI) (s : State) : Out :=
  gated (.trap f) s fun c g p ls =>
    if ls.isEmpty then .next ((s.issue c g p (.trap f) 0).advance c)
    else .next (s.trap c (trapOf c cTRAP 0 ls (info2 f.imm 0)))

/-- `bpt` (R210). -/
noncomputable def execBpt (f : Form1) (s : State) : Out :=
  gated (.bpt f) s fun c g p _ => .next (s.trapLow c g p cBREAK 0 0)

/-- Where `rte` resumes the faulting split (R211). -/
inductive Act where
  | retry
  | skip
  deriving DecidableEq, Repr

/-- The faulting split after `rte`. -/
def Split.afterRte (p : Split) (g : Group) (h : Handler) (act : Act) (now : Nat) : Split :=
  match act with
  | .skip => p.goPast h.next now
  | .retry =>
    let pc : DWord := BitVec.ofNat 64 ((FMap.get 0#32 g.h 1).toNat + 2 ^ 32 * (FMap.get 0#32 g.h 2).toNat)
    if pc = h.pc then p.resumeAt pc true h.only now else p.resumeAt pc false none now

/-- `rte.retry` and `rte.skip` (R211): handler mode ends, the lanes of the exit mask leave the faulting split, and it
resumes. -/
def rteOp (i : Instr) (act : Act) (s : State) : Out :=
  gated i s fun c g p ls =>
    match g.handler with
    | none => .next s
    | some h =>
      let mask : Mask := BitVec.ofNat 32 (fieldVal (s.hdr g) g.rrb (g.thread h.lane) i.info.a i.view.a .int)
      let s := s.issue c g p i ls.length
      let now := s.freeAt c.core c.gid
      let lanes := match g.split h.split with
        | some q => mask &&& q.active &&& ~~~g.dead
        | none => 0
      let s := (s.updGroup c.core c.gid fun x =>
        (x.leaveHandler h now).updSplit h.split fun q => q.afterRte g h act now).freeTrack c.core c.gid
      .next (s.dropLanes c.core c.gid lanes)

/-- `rte.retry` (R211). -/
noncomputable def execRteRetry (f : FormE) (s : State) : Out := rteOp (.rteRetry f) .retry s

/-- `rte.skip` (R211). -/
noncomputable def execRteSkip (f : FormE) (s : State) : Out := rteOp (.rteSkip f) .skip s

/-- `rte.end` (R211): every live lane of the group exits. -/
noncomputable def execRteEnd (f : FormE) (s : State) : Out :=
  gated (.rteEnd f) s fun c g p ls =>
    match g.handler with
    | none => .next s
    | some h =>
      let s := s.issue c g p (.rteEnd f) ls.length
      let now := s.freeAt c.core c.gid
      let s := (s.updGroup c.core c.gid fun x => x.leaveHandler h now).freeTrack c.core c.gid
      .next (s.dropLanes c.core c.gid g.live)

/-- What `lget` and `lset` find of their target (R212). -/
inductive Target212 where
  | idle
  | dead (elected : Nat)
  | live (elected lane : Nat) (regs : List Nat)
  deriving DecidableEq, Repr

/-- The target registers that a storage field of `i` names, in the lane that b names. -/
def storTarget (h : Header) (g : Group) (i : Instr) (k : Opnd) (x : Fld) (ls : List Nat) : Target212 :=
  match ls with
  | [] => .idle
  | e :: _ =>
    let l := fieldVal h g.rrb (g.thread e) i.info.b i.view.b .int % 32
    let rs := fieldRegs h g.rrb (g.thread e) k x
    if g.dead.getLsbD l then .dead e else .live e l rs

/-- The target's empty registers, which stage 4 checks with the instruction's own once b, which names the lane, is full
(R212, R53). -/
def targetEmpties (h : Header) (g : Group) (i : Instr) (k : Opnd) (x : Fld) (ls : List Nat) : List EmptyReg :=
  match storTarget h g i k x ls with
  | .idle | .dead _ => []
  | .live e l rs =>
    if (fieldRegs h g.rrb (g.thread e) i.info.b i.view.b).any (g.thread e).isEmpty then []
    else (rs.filter (g.thread l).isEmpty).map fun r => { lane := e, holder := l, reg := r, trap := x.trap }

/-- Stages 2 to 4 of `lget` and `lset`, the target's full bits among them (R212). -/
def gatedTarget (i : Instr) (o : Instr → Opnd × Fld) (s : State) (k : Cur → Group → Split → List Nat → Out) : Out :=
  withCur s fun c g p =>
    s.pass c (gateWith (s.hdr g) c g p i (fun _ => []) (targetEmpties (s.hdr g) g i (o i).1 (o i).2)) (k c g p)

/-- `lget` (R212). -/
noncomputable def execLget (f : FormE) (s : State) : Out :=
  gatedTarget (.lget f) (fun i => (i.info.a, i.view.a)) s fun c g p ls =>
    let i := Instr.lget f
    let h := s.hdr g
    let done := fun (upd : Group → Group) =>
      Host.Outcome.next (((s.issue c g p i ls.length).updGroup c.core c.gid upd).advance c)
    match storTarget h g i i.info.a i.view.a ls with
    | .idle => done id
    | .dead e => done fun x =>
        (x.updThread e (·.setRegs (fieldRegs h g.rrb (g.thread e) i.info.d i.view.d) 0)).setFlags flagLD
    | .live e l rs => done fun x =>
        x.updThread e (·.setRegs (fieldRegs h g.rrb (g.thread e) i.info.d i.view.d) ((g.thread l).regsVal rs))

/-- `lset` (R212). -/
noncomputable def execLset (f : FormE) (s : State) : Out :=
  gatedTarget (.lset f) (fun i => (i.info.d, i.view.d)) s fun c g p ls =>
    let i := Instr.lset f
    let h := s.hdr g
    let done := fun (upd : Group → Group) =>
      Host.Outcome.next (((s.issue c g p i ls.length).updGroup c.core c.gid upd).advance c)
    match storTarget h g i i.info.d i.view.d ls with
    | .idle => done id
    | .dead _ => done id
    | .live e l rs => done fun x =>
        x.updThread l (·.setRegs rs (fieldVal h g.rrb (g.thread e) i.info.a i.view.a .int))

end Sys2Proof.Machine
end

