-- ==== Sys2Proof/Machine/Memory.lean ====
section
/-! DEFINITION. Memory, atomic and reduction instructions (13_memory_instructions.md R291 to R309, R317), the order in
which requests are performed (14_consistency.md), and the events that perform them. -/

namespace Sys2Proof.Machine

/-! ## Operations on words (R302, R307, R308) -/

/-- `op(old, v)` on a word of `w` bits (R302, Table 3.11). -/
def atomOp (op w old v : Nat) : Nat :=
  match op with
  | 0 => (old + v) % 2 ^ w
  | 1 => (old + 2 ^ w - v % 2 ^ w) % 2 ^ w
  | 2 => if sextN old w < sextN v w then old else v
  | 3 => if sextN old w > sextN v w then old else v
  | 4 => if old < v then old else v
  | 5 => if old > v then old else v
  | 6 => old &&& v
  | 7 => old ||| v
  | 8 => old ^^^ v
  | 9 => v
  | 10 => if old ≥ v then 0 else old + 1
  | _ => if old = 0 ∨ old > v then v else old - 1

/-- The float format of a `redx` SIZE (R72, R293). -/
def redxFmt (size : Nat) : Fmt := if size = 0 then fp32 else if size = 1 then bf16 else fp16

/-- Set a bit of a line. -/
def setLineBit (line b : Nat) : Nat := line ||| 2 ^ b

/-- `redx` on a line (R307). -/
def redxLine (F : Fmt) (line v : Nat) : Nat :=
  match F.value (v % 2 ^ (1 + F.eb + F.mb)) with
  | .nan _ => setLineBit line 496
  | .inf neg => setLineBit line (if neg then 498 else 497)
  | .fin neg n d =>
    let x : Int := ((n * 2 ^ 160 / d : Nat) : Int)
    let t := sextN line 496 + (if neg then -x else x)
    let line := if t < -2 ^ 495 ∨ 2 ^ 495 ≤ t then setLineBit line 499 else line
    line / 2 ^ 496 * 2 ^ 496 + wrapI t 496

/-- The value that `rdx` writes (R308). -/
def rdxValue (line : Nat) : Nat :=
  let bit := fun b => line / 2 ^ b % 2 = 1
  if bit 496 ∨ bit 499 ∨ (bit 497 ∧ bit 498) then 0x7FC00000
  else if bit 497 then 0x7F800000
  else if bit 498 then 0xFF800000
  else
    let a := sextN line 496
    if a = 0 then 0 else rneFp32 (.dyadic (decide (a < 0)) a.natAbs (-160))

/-- Extension of a loaded value: 8 or 16 bits, signed or not; 0 for none (R299). -/
def extendTo (ext : Nat) (signed : Bool) (v : Nat) : Nat :=
  if ext = 0 then v else if signed then wrapI (sextN v ext) 32 else v % 2 ^ ext

/-! ## The scratch window (10 R232, R233, 12 R275) -/

/-- Where a scratch access lies. -/
inductive Scr where
  /-- key of the first byte in the core's pans, and the compute index for the second row of R232 -/
  | at_ (core key : Nat) (compute : Option Nat)
  | bad
  deriving DecidableEq, Repr

/-- First offset of the compute pans. -/
def computeBase : Nat := 0x80000

/-- R232: all bytes of an access lie in one row of its table. -/
def Wg.scratchAt (w : Wg) (h : Header) (off : Int) (n : Nat) : Scr :=
  if off < 0 then .bad
  else
    let o := off.toNat
    if o + n ≤ h.scratch then
      match w.storage[o / 16384]? with
      | some p => .at_ w.core (16384 * p + o % 16384) none
      | none => .bad
    else if computeBase ≤ o ∧ o + n ≤ computeBase + 16384 * h.cpans then
      let i := (o - computeBase) / 16384
      match w.compute[i]? with
      | some p => .at_ w.core (16384 * p + (o - computeBase) % 16384) (some i)
      | none => .bad
    else .bad

/-- State of a pan (Table 4.8). -/
def CoreSt.panState (k : CoreSt) (pan : Nat) : Nat := k.pslu.toNat / 4 ^ pan % 4

/-- State of a workgroup's compute pan. -/
def State.computeState (s : State) (w : Wg) (i : Nat) : Nat :=
  match w.compute[i]? with
  | some p => (s.core w.core).panState p
  | none => 0

/-- A compute pan that an access reaches and that is not in state 0. -/
def State.refusedPan (s : State) (w : Wg) (c : Option Nat) : Bool :=
  match c with
  | some i => s.computeState w i != 0
  | none => false

/-- The byte of the configuration block that holds a compute pan's ATTR, when the byte at `off` is one (Table 12.3). -/
def attrAt (h : Header) (off : Nat) : Option Nat :=
  if 64 ≤ h.scratch ∧ h.scratch - 64 ≤ off ∧ off < h.scratch - 64 + 28 then some (off - (h.scratch - 64)) else none

/-- The byte is an ATTR byte that R271 protects from the new value. -/
def State.protectedByte (s : State) (w : Wg) (h : Header) (off : Nat) (b : Byte) : Bool :=
  match attrAt h off with
  | some i => s.computeState w i != 0 && b != (FMap.find w.attr i).getD 0
  | none => false

/-- Whole rows of a pan that `n` bytes from `key` cover. -/
def wholeRows (key n : Nat) : List Nat := wholeLines key n

/-- Write bytes to pans of a core; a write of a whole row clears its poison (19 R426). -/
def State.panStore (s : State) (core key : Nat) (bs : List Byte) : State :=
  s.updCore core fun k => { k with pans := putBytes k.pans key bs,
                                   badRows := k.badRows.filter fun r => !(wholeRows key bs.length).contains r }

/-- Write bytes from a scratch offset whose pan is in state 0 or a storage pan: protected ATTR bytes are discarded
(R271). The answer says whether PR is set. -/
def State.scratchStore (s : State) (w : Wg) (h : Header) (core key off : Nat) (bs : List (Nat × Byte)) : State × Bool :=
  let ok := bs.filter fun b => !s.protectedByte w h (off + b.1) b.2
  let whole := bs.length = 64 && ok.length = 64
  let s := if whole then s.panStore core key (ok.map (·.2))
    else ok.foldl (fun (s : State) b => s.panStore core (key + b.1) [b.2]) s
  (s, ok.length != bs.length)

/-- Bytes of pans of a core. -/
def State.panRead (s : State) (core key n : Nat) : List Byte := bytesAt (s.core core).pans key n

/-! ## Requests in order (14 R322, R325, R329, 13 R301) -/

/-- `q` is earlier in program order than `r`. -/
def Req.precedes (q r : Req) : Bool :=
  decide (q.id < r.id) && q.instr != r.instr && q.core == r.core && q.gid == r.gid && q.splits.getLsbD r.split

/-- Two accesses share a byte. -/
def Acc.overlaps (x y : Acc) : Bool := decide (x.pa < y.pa + y.n) && decide (y.pa < x.pa + x.n)

/-- The request is an acquire. -/
def Req.acquires (r : Req) : Bool := r.order % 2 == 1
/-- The request is a release. -/
def Req.releases (r : Req) : Bool := decide (2 ≤ r.order)

/-- The request is a release that comes after every earlier access for every reader: one of device or system scope
(R325, R331). One of a narrower scope may be performed before them, and is kept as an `EarlyRel`. -/
def Req.waitsAll (r : Req) : Bool := r.releases && decide (5 ≤ r.scope)

/-- What program order asks before an access may be performed: every earlier acquire has its value, a release comes after
every earlier access, and earlier accesses to the same bytes come first. -/
def State.inOrder (s : State) (r : Req) (a : Acc) : Bool :=
  s.fly.reqs.all fun q =>
    !q.precedes r || q.done ||
      (!q.acquires && !r.waitsAll && q.accs.all fun b => b.performed || !b.overlaps a)

/-! ## Scopes (R323, R325, R331) -/

/-- The instance of an event's scope (Table 14.1) holds an agent: the event by its scope, core, group and its thread's
workgroup, the agent by its core, its group and the workgroups of which it holds a live thread. -/
def inInstance (scope core gid wg core' gid' : Nat) (wgs' : List Nat) : Bool :=
  match scope with
  | 0 => core == core' && gid == gid'
  | 1 => wgs'.contains wg
  | 2 => core == core'
  | 3 => teamOf core == teamOf core'
  | 4 => dieOf core == dieOf core'
  | _ => true

/-- A release and an acquire of scope `scope` by an agent are scope-matched (R323). -/
def EarlyRel.matched (e : EarlyRel) (scope core gid wg : Nat) (wgs : List Nat) : Bool :=
  inInstance e.scope e.core e.gid e.wg core gid wgs && inInstance scope core gid wg e.core e.gid e.wgs

/-- An acquire narrower than device scope that no release performed early is matched with: what it reads orders nothing, and a
fence that could give it an order waits (R325, R326, R331; notes/assumptions/34.md). -/
def EarlyRel.blind (e : EarlyRel) (acquire : Bool) (scope core gid wg : Nat) (wgs : List Nat) : Bool :=
  acquire && decide (scope < 5) && !e.matched scope core gid wg wgs

/-- An access of bytes that releases have written before the accesses they order waits for those, but for a read for which
`free` says otherwise of such a release. So a later write to the bytes comes after them in the total order too (R331). -/
def State.earlyOk (s : State) (pa n : Nat) (free : EarlyRel → Bool) : Bool :=
  s.fly.early.all fun e => !e.touches pa n || s.reqsDone e.ids || free e

/-- A release narrower than device scope may be performed before the accesses it orders, where none of them waits itself for
another such release. -/
def State.mayBeEarly (s : State) (r : Req) : Bool :=
  s.fly.early.isEmpty || s.fly.reqs.all fun q => !q.precedes r || q.accs.all fun b => b.performed || s.earlyFree (b.pa / 64)

/-- What an instruction that waits for a copy or a `pmma` to be answered by a peer or the host calls it (18 R412, R413). -/
def outsideKey (id : Nat) : Nat := 2 ^ 64 + id

/-- Requests, copies, writes of the device and accesses outside this device of a list are performed. -/
def State.allPerformed (s : State) (ids : List Nat) : Bool :=
  ids.all fun id =>
    !(s.fly.reqs.any fun r => r.id = id && !r.done) && !(s.fly.copies.any fun c => c.id = id) &&
      !(s.fly.writes.any fun w => w.id = id) &&
      !(s.fly.copies.any fun c => outsideKey c.id = id && c.sent.isSome && c.outside.isNone) &&
      !(s.fly.pmmas.any fun x => outsideKey x.id = id && x.sent.isSome)

/-- Releases performed early are forgotten once what they order is performed. -/
def State.settleEarly (s : State) : State :=
  { s with fly := { s.fly with early := s.fly.early.filter fun e => !s.reqsDone e.ids } }

/-- A release that is performed leaves what it orders and is not performed yet. -/
def State.noteEarly (s : State) (r : Req) (a : Acc) : State :=
  let ids := (s.fly.reqs.filter fun q => q.precedes r && !q.done).map (·.id)
  if !r.releases || ids.isEmpty then s
  else { s with fly := { s.fly with early := s.fly.early ++
    [{ pa := a.pa, n := a.n, core := r.core, gid := r.gid, wg := a.wg, wgs := r.wgs, scope := r.scope, ids := ids }] } }

/-- A write that is performed overtakes the earlier requests of its split that are not (R335). -/
def State.overtake (s : State) (r : Req) : State :=
  let reqs := s.fly.reqs.map fun (q : Req) => if q.precedes r && !q.done then { q with overtaken := true } else q
  { s with fly := { s.fly with reqs := reqs } }

/-- Earlier requests of a split that are not performed. -/
def State.earlier (s : State) (c : Cur) (p : Req → Bool) : List Nat :=
  (s.fly.reqs.filter fun q => q.core = c.core && q.gid = c.gid && q.splits.getLsbD c.split && !q.done && p q).map (·.id)

/-! ## Coherence of a line (15 R340 to R353, 10 R243) -/

/-- A line can be read at a die: at its home while memory is current and no invalidation of it is outstanding, or from the die's
own copy in its L2, which for a sealed line no entry shows (10 R245), or, where `hit` says so, from the L1 of the core that reads.
`home` says that the page's cache policy allows the home slice only. -/
def State.readable (s : State) (die line : Nat) (home frozen hit : Bool) : Bool :=
  s.served line false &&
    (hit || (if homeDie (line * 64) = die || home then !s.transient line && !(s.entry line).owned else s.hasCopy die line frozen))

/-- A line can be written at a die: at its home while no remote copy exists, or in the die's own M or E copy, whose grant has
taken every other copy away, those in the L1s of the home's die too; no L1 behind the slice may hold it (R342, 10 R243). -/
def State.writable (s : State) (die line : Nat) (home : Bool) : Bool :=
  if homeDie (line * 64) = die || home then s.lineFree line
  else
    let e := s.entry line
    s.served line true && !s.transient line && (e.st == .m || e.st == .e) && e.owner == die && s.hasCopy die line false &&
      (s.bucketCores die line).isEmpty

/-- A region's access counter key (15 R355). -/
def accessKey (line die : Nat) : Nat := 8 * (line / 2 ^ 15) + die

/-- A migration record (Table 15.8). -/
def State.migRecord (s : State) (home region die : Nat) : List Byte :=
  let d := s.die home
  toBytes 8 (region * 2 ^ 21) ++ toBytes 1 home ++ toBytes 1 die ++ toBytes 2 d.migSeq ++ toBytes 4 0 ++
    (List.range 8).flatMap (fun i => toBytes 1 (FMap.get 0 d.access (8 * region + i))) ++ toBytes 8 s.clk.time

/-- A counted request of a die for a line (R355), and the record of R356 when the pair's counter reaches HI: MIGHEAD goes
forward once the record is written. -/
def State.countAccess (s : State) (die line : Nat) : State :=
  let home := homeDie (line * 64)
  let key := accessKey line die
  let s := s.updDie home fun d => { d with access := FMap.set 0 d.access key (Nat.min 255 (FMap.get 0 d.access key + 1)) }
  let d := s.die home
  if die = home ∨ (FMap.get false d.disarmed key) = true ∨ FMap.get 0 d.access key < d.migThr.toNat % 256 ∨ d.migBase = 0 ∨
      !ringSizeOk d.migSize 16 65536 then s
  else if d.migHead + BitVec.ofNat 32 (s.queued (.migration home)) - d.migTail = d.migSize then s.updDie home fun d => { d with migDrop := satInc d.migDrop }
  else
    let at_ := d.migBase.toNat + 32 * ((d.migHead.toNat + s.queued (.migration home)) % d.migSize.toNat)
    let s := s.deviceWrite { id := 0, chan := .migration home, pa := at_, bytes := s.migRecord home (line / 2 ^ 15) die,
                             follow := .migHead home }
    s.updDie home fun d => { d with migSeq := (d.migSeq + 1) % 2 ^ 16,
                                    disarmed := FMap.set false d.disarmed key true }

/-! ## Issue of a memory instruction -/

/-- What a memory instruction asks of its accesses. -/
structure MemShape where
  kind : ReqKind
  access : Access
  /-- bytes accessed, and the multiple that the address must be -/
  n : Nat
  order : Nat := 0
  scope : Nat := 5
  ext : Nat := 0
  signed : Bool := false
  /-- the instruction has destination registers -/
  returns : Bool
  deriving DecidableEq, Repr

/-- Offset and operands of one lane. -/
structure LaneMem where
  off : LaneIn → Int
  op1 : LaneIn → Nat := fun _ => 0
  op2 : LaneIn → Nat := fun _ => 0

/-- Lanes with a code, most important first. -/
abbrev LaneCodes := List (Nat × Nat × Nat)

/-- The trap of a stage from each lane's code and DETAIL: the lowest code wins (R202). -/
def stageTrap (c : Cur) (bad : LaneCodes) (info : Nat → DWord) : Option Trap :=
  match bad with
  | [] => none
  | b :: bs =>
    let code := bs.foldl (fun k x => Nat.min k x.1) b.1
    let mine := bad.filter fun x => x.1 = code
    let lanes := mine.map (·.2.2)
    let e := lowLane lanes
    let detail := ((mine.find? fun x => x.2.2 = e).map (·.2.1)).getD 0
    some (trapOf c code detail lanes (info e))

/-- Bytes of one lane's store that no higher lane of the instruction writes (R296). -/
def storeBytes (n v : Nat) (pa : Nat) (higher : List (Nat × Nat)) : List (Nat × Byte) :=
  ((toBytes n v).mapIdx fun k b => (k, b)).filter fun b =>
    !higher.any fun h => decide (h.1 ≤ pa + b.1) && decide (pa + b.1 < h.1 + h.2)

/-- Lanes whose destinations an accessing lane fills (R297). -/
def dstLanes (i : Instr) (ls : List Nat) (l : Nat) : List Nat := if uniform i then ls else [l]

/-- Add a request to those in flight. -/
def State.addReq (s : State) (r : Req) : State :=
  { s with fresh := s.fresh + 1, fly := { s.fly with reqs := s.fly.reqs ++
      [{ r with id := s.fresh, instr := if r.instr = 0 then s.fresh else r.instr }] } }

/-- The mask of splits for which a split's request is earlier: its own, or all for the handler (R322). -/
def splitMask (k : Nat) : BitVec 5 := if k = 4 then 0b11111#5 else (1#5) <<< k

/-- The first request of the instruction that a split replays; 0 where it has none. -/
def Group.replayOf (g : Group) (k : Nat) : Nat := (((g.split k).bind (·.replay)).map (·.instr)).getD 0

/-- The request of a memory instruction of a group's split: the agent is the split, with the workgroups of its live threads, and
each access is an event of its own thread (14 Table 14.1). -/
def newReq (c : Cur) (g : Group) (p : Split) (m : MemShape) (scratch : Bool) (accs : List Acc)
    (dst : List (Nat × List Nat × Nat)) : Req :=
  { id := 0, kind := m.kind, ctx := g.ctx, core := c.core, gid := c.gid, launch := g.launch, split := c.split,
    splits := splitMask c.split, order := m.order, scope := m.scope, scratch := scratch,
    accs := accs.map fun (a : Acc) => { a with wg := (g.thread a.lane).wg }, dst := dst,
    ext := m.ext, signed := m.signed, instr := g.replayOf c.split, wgs := wgsIn g p }

/-- The destinations that accessing lanes fill. -/
def destinations (h : Header) (g : Group) (i : Instr) (ls accs : List Nat) : List (Nat × List Nat × Nat) :=
  accs.flatMap fun a => (dstLanes i ls a).map fun l => (l, fieldRegs h g.rrb (g.thread l) i.info.d i.view.d, a)

/-- The destination registers of lanes, under the rotation of the instruction's issue. -/
def Group.dstRegs (g : Group) (h : Header) (i : Instr) (ls : List Nat) : List (Nat × List Nat) :=
  ls.map fun l => (l, fieldRegs h g.rrb (g.thread l) i.info.d i.view.d)

/-- Empty registers of lanes (R52). -/
def Group.drainRegs (g : Group) (rs : List (Nat × List Nat)) : Group :=
  rs.foldl (fun (acc : Group) r => acc.updThread r.1 (·.drain r.2)) g

/-- Issue of lanes: SIG, counters, UV, and the destinations emptied, under the rotation that `g` has (02 R54, 04 R81). -/
def State.issueMem (s : State) (c : Cur) (g : Group) (p : Split) (i : Instr) (ls : List Nat) (returns : Bool) : State :=
  let h := s.hdr g
  let s := s.issue c g p i ls.length
  s.updGroup c.core c.gid fun x =>
    let x := x.setFlags (if p.issued then 0 else uvFlag h g i {} ls)
    if returns then x.drainRegs (g.dstRegs h i ls) else x

/-- What stage 7 leaves of each accessing lane. -/
structure Located where
  lane : Nat
  va : DWord
  tr : Tr
  fill : Option TlbEntry
  deriving DecidableEq, Repr

/-- The walks that succeeded fill the TLBs (18 R405). -/
def State.fillAll (s : State) (core : Nat) (ts : List Located) : State :=
  ts.foldl (fun (s : State) t => match t.tr with | .ok _ _ => s.fillTlb core t.fill | _ => s) s

/-- Codes of trapping lanes. -/
def trapping (ts : List Located) : LaneCodes :=
  ts.filterMap fun t => match t.tr with | .trap code detail => some (code, detail, t.lane) | _ => none

/-- Lanes that PAGE or a light fault leaves unfinished. -/
def unfinished (ts : List Located) : List Located :=
  ts.filter fun t => match t.tr with | .page | .light => true | _ => false

/-- Pages of unfinished lanes, without repeats. -/
def pagesOf (k : Access) (ts : List Located) : List (DWord × Nat × Bool) :=
  ts.foldl (fun acc t =>
    let x := (t.va, k.kind, t.tr == .light)
    if acc.any (fun y => pageOf y.1 = pageOf t.va ∧ y.2 = x.2) then acc else acc ++ [x]) []

/-- Park the issuing split with lanes unfinished, whose destinations `dst` stay empty (R203, R54); its replay keeps the
group's present rotation (04 R81). -/
def State.parkSplit (s : State) (c : Cur) (g : Group) (lanes : List Nat) (dst : List (Nat × List Nat)) (instr : Nat)
    (pages : List (DWord × Nat × Bool)) : State :=
  let y := s.park (.split c.core c.gid c.split .instruction (maskOf lanes)) g.ctx c.core pages
  ((y.1.count c.core 0x0D 1 (some g.ctx)).updSplit c.core c.gid c.split fun q =>
    { q with issued := true, only := some (maskOf lanes), replay := some { rrb := g.rrb, dst := dst, instr := instr } }).stall c
      (.parked y.2) none

/-- Park the issuing split with an instruction that executes once for it and has done nothing yet. -/
def State.parkWhole (s : State) (c : Cur) (g : Group) (ls : List Nat) (page : DWord × Nat × Bool) : State :=
  let y := s.park (.split c.core c.gid c.split .instruction (maskOf ls)) g.ctx c.core [page]
  ((y.1.count c.core 0x0D 1 (some g.ctx)).updSplit c.core c.gid c.split fun q =>
    { q with replay := some (q.replay.getD { rrb := g.rrb, dst := [], instr := 0 }) }).stall c (.parked y.2) none

/-- The lanes that translation finished. -/
def finished (ts : List Located) : List (Nat × DWord × Nat × DWord) :=
  ts.filterMap fun t => match t.tr with | .ok pa e => some (t.lane, t.va, pa, e) | _ => none

/-- A line that a walk waits for. -/
def busyIn (ts : List Located) : Option Nat := ts.findSome? fun t => match t.tr with | .busy line => some line | _ => none

/-- A walk that found no valid context, with its address (R399, R409). -/
def noContextIn (ts : List Located) : Option (Nat × DWord × Nat) :=
  ts.findSome? fun t => match t.tr with | .noContext d => some (d, t.va, t.lane) | _ => none

/-- The accesses of finished lanes. -/
def accesses (m : MemShape) (f : LaneMem) (x : Nat → LaneIn) (fin : List (Nat × DWord × Nat × DWord)) : List Acc :=
  fin.map fun t =>
    let higher := (fin.filter fun u => decide (t.1 < u.1)).map fun u => (u.2.2.1, m.n)
    { lane := t.1, va := t.2.1, pa := t.2.2.1, n := m.n,
      bytes := match m.kind with
        | .store => storeBytes m.n (f.op1 (x t.1)) t.2.2.1 higher
        | _ => [],
      op1 := f.op1 (x t.1), op2 := f.op2 (x t.1), sx := pteBit t.2.2.2 5,
      cp := if pteBit t.2.2.2 4 then 2 else pteCP t.2.2.2 }

/-- An access holds its request slot until it is performed, or until its value is written where it returns one (01 R15). -/
def Req.slots (r : Req) : Nat := (r.accs.filter fun a => !a.performed || r.dst.any fun d => d.2.2 = a.lane).length

/-- Request slots in use in a core's load-store unit (01 R15). -/
def State.slotsUsed (s : State) (core : Nat) : Nat :=
  ((s.fly.reqs ++ s.fly.scratch).filter fun r => r.core = core).foldl (fun n r => n + r.slots) 0

/-- Request slots of a load-store unit (01 Table 1.2). -/
def lsuSlots : Nat := 768

/-- The load-store unit has a free slot for each of `n` accesses. -/
def State.slotsFree (s : State) (core n : Nat) : Bool := decide (s.slotsUsed core + n ≤ lsuSlots)

/-- A global access of each lane (R294, R295, R202, R203); it waits where the load-store unit has too few free slots. -/
def globalOp (i : Instr) (m : MemShape) (f : LaneMem) (s : State) : Out :=
  gated i s fun c g p ls =>
    let g := g.asIssued p
    let h := s.hdr g
    let x := laneIn h g i {}
    let al := if uniform i then ls.take 1 else ls
    let va : Nat → DWord := fun l => BitVec.ofInt 64 ((x l).a + f.off (x l))
    match stageTrap c ((al.filter fun l => (va l).toNat % m.n != 0).map fun l => (cMISALIGN, 0, l)) va with
    | some t => .next (s.trap c t)
    | none =>
      let ts := al.map fun l =>
        let r := s.translate c.core g.ctx (va l) m.access
        ({ lane := l, va := va l, tr := r.1, fill := r.2 } : Located)
      match stageTrap c (trapping ts) va, noContextIn ts, busyIn ts with
      | some t, _, _ => .next (s.trap c t)
      | none, some d, _ => .next (s.walkFault g.ctx d.1 c.core c.pc d.2.1 (g.thread d.2.2).tid)
      | none, none, some line => .next (s.stall c (.lines [(line, false)]) none)
      | none, none, none =>
        let fin := finished ts
        if !s.slotsFree c.core fin.length then .next (s.stall c (.slots fin.length) none) else
        let s := s.fillAll c.core ts
        let s := s.issueMem c g p i ls m.returns
        let first := if g.replayOf c.split ≠ 0 then g.replayOf c.split else if fin.isEmpty then 0 else s.fresh
        let s := if fin.isEmpty then s else
          s.addReq (newReq c g p m false (accesses m f x fin)
            (if m.returns then destinations h g i ls (fin.map (·.1)) else []))
        match unfinished ts with
        | [] => .next (s.advance c)
        | u =>
          let left := u.flatMap fun t => dstLanes i ls t.lane
          .next (s.parkSplit c g left (if m.returns then g.dstRegs h i left else []) first (pagesOf m.access u))

/-! ## Scratch accesses: performed in their threads' cycles -/

/-- A place in a workgroup's window (R233). -/
def State.scrOf (s : State) (h : Header) (wk : Nat) (off : Int) (n : Nat) : Option Wg × Scr :=
  match s.wg wk with
  | some w => (some w, w.scratchAt h off n)
  | none => (none, .bad)

/-- What one lane's scratch access does: the state, the value returned, PR, and whether the data is poisoned. -/
structure ScrOut where
  s : State
  v : Nat := 0
  pr : Bool := false
  poison : Bool := false

/-- All ones in each word. -/
def allOnes (n : Nat) : Nat := 2 ^ (8 * Nat.max n 4) - 1

/-- The rows that an access of a pan touches are poisoned. -/
def State.badRow (s : State) (core key : Nat) : Bool := (s.core core).badRows.contains (key / 64)

/-- Perform one thread's scratch access in a workgroup's window (R299, R300, R302, R275). -/
def State.scrAccess (s : State) (h : Header) (wk : Nat) (off : Int) (kind : ReqKind) (n op1 op2 : Nat) : ScrOut :=
  match s.scrOf h wk off n with
  | (some w, .at_ core key comp) =>
    let no := s.refusedPan w comp
    let bytes := (toBytes n op1).mapIdx fun k b => (k, b)
    match kind with
    | .load =>
      if no then { s := s, v := allOnes n, pr := true }
      else { s := s, v := ofBytes (s.panRead core key n), poison := s.badRow core key }
    | .store =>
      if no then { s := s, pr := true }
      else
        let y := s.scratchStore w h core key off.toNat bytes
        { s := y.1, pr := y.2 }
    | k =>
      if no then { s := s, v := allOnes n, pr := true }
      else if s.badRow core key then { s := s, poison := true }
      else
        let old := ofBytes (s.panRead core key n)
        let new := match k with
          | .atom op => atomOp op (8 * n) old op1
          | _ => if old = op1 then op2 else old
        let y := s.scratchStore w h core key off.toNat ((toBytes n new).mapIdx fun k b => (k, b))
        { s := y.1, v := old, pr := y.2 }
  | _ => { s := s }

/-- One lane of a scratch instruction in its thread's cycle: its value stays with the access, and one that returns nothing sets
PR at once. A thread that has died since makes no access. -/
def State.scratchLane (s : State) (r : Req) (g : Group) (a : Acc) : State × Acc :=
  if g.dead.getLsbD a.lane then (s, { a with performed := true })
  else
    let y := s.scrAccess (s.hdr g) a.wg a.va.toNat r.kind a.n a.op1 a.op2
    (if r.dst.isEmpty && y.pr then y.s.updGroup r.core r.gid (·.setFlags flagPR) else y.s,
      { a with performed := true, result := y.v, poison := y.poison, pr := y.pr })

/-- The lanes of an instruction whose cycle has come, in ascending lane order. -/
def State.scratchLanes (s : State) (r : Req) (g : Group) : List Acc → State × List Acc
  | [] => (s, [])
  | a :: as =>
    if a.performed || decide (s.now < a.due) then
      let z := s.scratchLanes r g as
      (z.1, a :: z.2)
    else
      let y := s.scratchLane r g a
      let z := y.1.scratchLanes r g as
      (z.1, y.2 :: z.2)

/-- A scratch instruction after some lanes: it stays while a lane's cycle is to come, and then its values go to their
destinations (02 R52). -/
def State.putScratch (s : State) (r : Req) : State :=
  let scratch :=
    if r.done then s.fly.scratch.filter (·.id ≠ r.id)
    else if s.fly.scratch.any (·.id = r.id) then s.fly.scratch.map fun (q : Req) => if q.id = r.id then r else q
    else s.fly.scratch ++ [r]
  { s with fly := { s.fly with
      scratch := scratch,
      reqs := if r.done && !r.dst.isEmpty then s.fly.reqs ++ [r] else s.fly.reqs } }

/-- The lanes of a scratch instruction whose cycle has come are performed; with its group gone, nothing is left to do. -/
def State.scratchStep (s : State) (r : Req) : State :=
  match s.group r.core r.gid with
  | some g =>
    let y := s.scratchLanes r g r.accs
    y.1.putScratch { r with accs := y.2 }
  | none => { s with fly := { s.fly with scratch := s.fly.scratch.filter (·.id ≠ r.id) } }

/-- Every scratch access whose cycle has come is performed (12 R275). -/
def State.scratchDue (s : State) : State := s.fly.scratch.foldl State.scratchStep s

/-- A scratch access of each lane, in ascending lane order, each in its thread's cycle (01 R22, 12 R275). -/
def scratchOp (i : Instr) (m : MemShape) (f : LaneMem) (s : State) : Out :=
  gated i s fun c g p ls =>
    let h := s.hdr g
    let x := laneIn h g i {}
    let al := if uniform i then ls.take 1 else ls
    let off := fun l => ((x l).a : Int) + f.off (x l)
    let bad := al.filterMap fun l =>
      if off l % m.n ≠ 0 then some (cMISALIGN, 0, l)
      else match (s.scrOf h (g.thread l).wg (off l) m.n).2 with
        | .bad => some (cSCRATCH, 0, l)
        | .at_ _ _ _ => none
    match stageTrap c bad (fun l => BitVec.ofNat 64 (wrapI (off l) 32)) with
    | some t => .next (s.trap c t)
    | none =>
      if !s.slotsFree c.core al.length then .next (s.stall c (.slots al.length) none) else
      match s.earlier c (fun q => q.acquires || decide (2 ≤ m.order)) with
      | id :: ids => .next (s.stall c (.requests (id :: ids)) none)
      | [] =>
        let start := s.freeAt c.core c.gid
        let s := s.issueMem c g p i ls m.returns
        if al.isEmpty then .next (s.advance c)
        else
          let accs := al.mapIdx fun k l =>
            ({ lane := l, va := BitVec.ofInt 64 (off l), pa := 0, n := m.n, op1 := f.op1 (x l), op2 := f.op2 (x l),
               due := start + k } : Acc)
          let r := newReq c g p m true accs (if m.returns then destinations h g i ls al else [])
          let s' : State := { s with fresh := s.fresh + 1 }
          .next ((s'.scratchStep { r with id := s.fresh, instr := s.fresh }).advance c)

/-! ## Shapes -/

/-- Bytes of an I-form SIZE (Table 3.8). -/
def isizeBytes (z : Nat) : Nat :=
  match z with
  | 0 => 4
  | 1 => 8
  | 2 => 16
  | 4 | 5 => 1
  | _ => 2

/-- Extension width of an I-form SIZE. -/
def isizeExt (z : Nat) : Nat := match z with | 4 | 5 => 8 | 6 | 7 => 16 | _ => 0

/-- Bytes of an E-form SIZE (Table 3.9). -/
def esizeBytes (z : Nat) : Nat := match z with | 0 => 4 | 1 => 8 | 2 => 16 | _ => 64

/-- A load of an I-form SIZE. -/
def loadShape (z order scope : Nat) : MemShape :=
  { kind := .load, access := .load, n := isizeBytes z, order := order, scope := scope, ext := isizeExt z,
    signed := z % 2 == 0, returns := true }

/-- A store of an I-form SIZE. -/
def storeShape (z order scope : Nat) : MemShape :=
  { kind := .store, access := .store, n := isizeBytes z, order := order, scope := scope, returns := false }

/-- An E-form atomic. -/
def atomShape (k : ReqKind) (a : Access) (f : FormE) (returns : Bool) : MemShape :=
  { kind := k, access := a, n := esizeBytes f.esize, order := f.order, scope := f.escope, returns := returns }

/-- A reduction-line operation. -/
def lineShape (k : ReqKind) (a : Access) (order scope : Nat) (returns : Bool) : MemShape :=
  { kind := k, access := a, n := 64, order := order, scope := scope, returns := returns }

/-- No offset. -/
def noOff : LaneMem := { off := fun _ => 0 }
/-- The I form's signed 32-bit offset. -/
def immOff (f : FormI) : LaneMem := { off := fun _ => f.imm.toInt }
/-- A store's data: the low bytes of d. -/
def LaneMem.storing (m : LaneMem) (n : Nat) : LaneMem := { m with op1 := fun x => x.d % 2 ^ (8 * n) }
/-- The operand of an atomic, and the new value of a compare and swap. -/
def operands2 : LaneMem := { off := fun _ => 0, op1 := fun x => x.b, op2 := fun x => x.c }

/-! ## Meanings: loads, stores, atomics, reductions -/

/-- `ld`, one-word form (R299, R71). -/
noncomputable def execLd (f : Form1) (s : State) : Out := globalOp (.ld f) (loadShape 0 0 5) noOff s
/-- `ld`, I form (R299). -/
noncomputable def execLdI (f : FormI) (s : State) : Out := globalOp (.ldI f) (loadShape f.isize 0 f.iscope) (immOff f) s
/-- `ld.acq` (R301). -/
noncomputable def execLdAcq (f : FormI) (s : State) : Out := globalOp (.ldAcq f) (loadShape f.isize 1 f.iscope) (immOff f) s
/-- `st`, one-word form (R300, R71). -/
noncomputable def execSt (f : Form1) (s : State) : Out := globalOp (.st f) (storeShape 0 0 5) (noOff.storing 4) s
/-- `st`, I form (R300). -/
noncomputable def execStI (f : FormI) (s : State) : Out :=
  globalOp (.stI f) (storeShape f.isize 0 f.iscope) ((immOff f).storing (isizeBytes f.isize)) s
/-- `st.rel` (R301). -/
noncomputable def execStRel (f : FormI) (s : State) : Out :=
  globalOp (.stRel f) (storeShape f.isize 2 f.iscope) ((immOff f).storing (isizeBytes f.isize)) s
/-- `lds`, one-word form (R299). -/
noncomputable def execLds (f : Form1) (s : State) : Out := scratchOp (.lds f) (loadShape 0 0 1) noOff s
/-- `lds`, I form (R299). -/
noncomputable def execLdsI (f : FormI) (s : State) : Out := scratchOp (.ldsI f) (loadShape f.isize 0 f.iscope) (immOff f) s
/-- `sts`, one-word form (R300). -/
noncomputable def execSts (f : Form1) (s : State) : Out := scratchOp (.sts f) (storeShape 0 0 1) (noOff.storing 4) s
/-- `sts`, I form (R300). -/
noncomputable def execStsI (f : FormI) (s : State) : Out :=
  scratchOp (.stsI f) (storeShape f.isize 0 f.iscope) ((immOff f).storing (isizeBytes f.isize)) s
/-- `ldx` (R299). -/
noncomputable def execLdx (f : FormE) (s : State) : Out :=
  globalOp (.ldx f) (atomShape .load .load f true) { off := fun x => sextN x.b 32 } s
/-- `atom` (R302, R305). -/
noncomputable def execAtom (f : FormE) (s : State) : Out :=
  globalOp (.atom f) (atomShape (.atom f.c.f.toNat) .rmw f true) operands2 s
/-- `cas` (R302, R305). -/
noncomputable def execCas (f : FormE) (s : State) : Out := globalOp (.cas f) (atomShape .cas .rmw f true) operands2 s
/-- `atoms` (R302, R305). -/
noncomputable def execAtoms (f : FormE) (s : State) : Out :=
  scratchOp (.atoms f) (atomShape (.atom f.c.f.toNat) .rmw f true) operands2 s
/-- `cass` (R302, R305). -/
noncomputable def execCass (f : FormE) (s : State) : Out := scratchOp (.cass f) (atomShape .cas .rmw f true) operands2 s
/-- `red` (R302, R305). -/
noncomputable def execRed (f : FormE) (s : State) : Out :=
  globalOp (.red f) (atomShape (.red f.c.f.toNat) .red f false) operands2 s
/-- `redx` (R307): op2 holds the format. -/
noncomputable def execRedx (f : FormE) (s : State) : Out :=
  globalOp (.redx f) (lineShape .redx .redx f.order f.escope false) { operands2 with op2 := fun _ => f.esize } s
/-- `rdx` (R308). -/
noncomputable def execRdx (f : FormE) (s : State) : Out :=
  globalOp (.rdx f) (lineShape .rdx .lineRead f.order f.escope true) noOff s
/-- `clrx`, one-word form (R308, R72). -/
noncomputable def execClrx (f : Form1) (s : State) : Out := globalOp (.clrx f) (lineShape .clrx .clrx 0 5 false) noOff s
/-- `clrx`, E form (R308). -/
noncomputable def execClrxE (f : FormE) (s : State) : Out :=
  globalOp (.clrxE f) (lineShape .clrx .clrx f.order f.escope false) noOff s

/-! ## Fence and prefetch -/

/-- `fence` (R309): an acquire waits for earlier loads and atomics with a return, a release for every earlier access. An acquire
waits too for what releases that were performed early order: one of them may be what an earlier read of its split has read
(14 R326; notes/assumptions/34.md). -/
noncomputable def execFence (f : FormE) (s : State) : Out :=
  gated (.fence f) s fun c g p ls =>
    let s := s.issue c g p (.fence f) ls.length
    if ls.isEmpty then .next (s.advance c)
    else
      let early := if f.order % 2 = 1 then s.fly.early.flatMap fun e => e.ids.filter fun id => !s.reqsDone [id] else []
      match s.earlier c (fun q => decide (2 ≤ f.order) || (f.order == 1 && !q.dst.isEmpty)) ++ early with
      | [] => .next (s.advance c)
      | ids => .next (s.stall c (.requests ids) (some c.next))

/-- A die comes to share a line: its home's own copy is not tracked (R340), and an owner keeps a clean copy (R341). -/
def State.shareLine (s : State) (die line : Nat) : State :=
  let e := (s.entry line).recalled
  if homeDie (line * 64) = die then s.setEntry line e
  else s.setEntry line { e with st := .s, sharers := e.sharers ||| ((1#8) <<< die) }

/-- A sealed line is held in every die's L2 without directory tracking (10 R245). -/
def State.fetchShared (s : State) (ctx : Nat) (va : DWord) (die line : Nat) : State :=
  if s.sealed ctx va then s else s.shareLine die line

/-- A die has a line in its L2: at its home, or a copy. -/
def State.heldAt (s : State) (die line : Nat) (frozen : Bool) : Bool :=
  if homeDie (line * 64) = die then (s.die die).l2.contains line && !(s.entry line).owned else s.hasCopy die line frozen

/-- A die's request for a copy of a line to read can be served by the home now: the line is served and in no transient state, the
home and the die reach each other, as do the home and an owner, and the die's L2 has room (15 R341, R344). -/
def State.shareable (s : State) (die line : Nat) : Bool :=
  let home := homeDie (line * 64)
  s.dieUp die && s.dieUp home && s.served line false && !s.transient line && s.reach die home && s.l2Room die line &&
    (!(s.entry line).owned || (s.dieUp (s.entry line).owner && s.reach home (s.entry line).owner))

/-- A line that `pref` has requested comes: its L2 has it, or its home serves it, uncounted by the access counters (15 R355). -/
def State.takePrefetch (s : State) (q : Prefetch) : State :=
  let die := dieOf q.core
  let owner := (s.entry q.line).owner
  let us := q.core :: sliceUnit die q.line :: homeUnits q.line ++ (if (s.entry q.line).owned then [sliceUnit owner q.line] else [])
  let s := if s.heldAt die q.line (s.sealed q.ctx q.va) then s
    else ((((s.exchange us).detect q.line).useSnoop q.line).setEntry q.line (s.entry q.line).recalled).fetchShared q.ctx q.va die q.line
  let s := s.l2Fill die q.line
  if q.l1 then s.updCore q.core (·.install q.line) else s

/-- One prefetch, where its die has the line or the home can serve it now. -/
def State.settlePref (s : State) (q : Prefetch) : State :=
  if s.heldAt (dieOf q.core) q.line (s.sealed q.ctx q.va) || s.shareable (dieOf q.core) q.line then
    { s.takePrefetch q with fly := { (s.takePrefetch q).fly with prefs := s.fly.prefs.filter (· ≠ q) } }
  else s

/-- Every prefetch whose line can come now. -/
def State.settlePrefs (s : State) : State := s.fly.prefs.foldl State.settlePref s

/-- `pref` of one address (R317): no fault, no value; only the caches change. The walk that it makes fills the TLBs (18
R405). A request for a line that cannot be served yet stays. -/
def State.prefetch (s : State) (core ctx : Nat) (va : DWord) (scope : Nat) : State :=
  let r := s.translate core ctx va .prefetch
  match r.1 with
  | .ok pa e =>
    let s := s.fillTlb core r.2
    if !s.isDevice pa || pteBit e 4 || pteCP e = 2 || (scope = 2 && pteCP e = 1) then s
    else
      let q : Prefetch := { core := core, ctx := ctx, va := va, line := pa / 64, l1 := scope = 2 }
      let s := s.count core 0x07 1 (some ctx)
      if s.fly.prefs.contains q then s else { s with fly := { s.fly with prefs := s.fly.prefs ++ [q] } }.settlePref q
  | _ => s

/-- `pref` (R317): it waits where a walk does. -/
noncomputable def execPref (f : FormE) (s : State) : Out :=
  gated (.pref f) s fun c g p ls =>
    let i := Instr.pref f
    let x := laneIn (s.hdr g) g i {}
    let al := if uniform i then ls.take 1 else ls
    let va : Nat → DWord := fun l => BitVec.ofInt 64 ((x l).a + sextN (x l).b 32)
    match busyIn (al.map fun l => ({ lane := l, va := va l, tr := (s.translate c.core g.ctx (va l) .prefetch).1, fill := none } : Located)) with
    | some line => .next (s.stall c (.lines [(line, false)]) none)
    | none =>
      let s := s.issueMem c g p i ls false
      .next ((al.foldl (fun (s : State) l => s.prefetch c.core g.ctx (va l) f.escope) s).advance c)

/-! ## Performing requests -/

/-- The request of an identifier. -/
def State.req (s : State) (id : Nat) : Option Req := s.fly.reqs.find? fun r => r.id = id

/-- Replace a request, or drop it when it has been performed and returns nothing. -/
def State.setReq (s : State) (r : Req) : State :=
  let reqs :=
    if r.done && r.dst.isEmpty then s.fly.reqs.filter (fun q => q.id ≠ r.id)
    else s.fly.reqs.map fun (q : Req) => if q.id = r.id then r else q
  { s with fly := { s.fly with reqs := reqs } }

/-- The accesses that are performed with a lane's: the lanes of one word for an operation at the home (R303). -/
def Req.wordLanes (r : Req) (a : Acc) : List Acc := r.accs.filter fun b => !b.performed && b.pa = a.pa

/-- The request's operation is applied at the home as one word step. -/
def ReqKind.atHome : ReqKind → Bool
  | .load | .store | .rdx => false
  | .atom _ | .cas | .red _ | .redx | .clrx | .signal => true

/-- The request goes to the home slice only: atomics, reductions and R lines. -/
def ReqKind.homeOnly (k : ReqKind) : Bool := k.atHome || k == .rdx

/-- The access is served at the line's home slice: an operation there, an access of cache policy 2, or the home's own die. -/
def Req.servedHome (r : Req) (a : Acc) : Bool := r.kind.homeOnly || a.cp == 2 || homeDie a.pa == dieOf r.core

/-- The request only reads. -/
def ReqKind.reads (k : ReqKind) : Bool := k == .load || k == .rdx

/-- A write of an owning die goes to the home first where its line holds data of an earlier generation (16 R361), or where it is
the first write of its generation to the page: the model prepares the page then, and not when the line's data comes back (R364; the
model's choice, notes/assumptions/41.md). -/
def State.oldLine (s : State) (r : Req) (a : Acc) : Bool :=
  let line := a.pa / 64
  let page := a.pa / 4096
  let g := s.gen.genAt [r.core, sliceUnit (dieOf r.core) line]
  decide ((s.entry line).lg < g) || (!a.sx && s.tagged page && decide (s.gen.tagOf page < g))

/-- The units that contribute to the generation of an access (16 R360): its core and the slice that serves it, and its home
where the line is served there, or where the slice must first send it there. -/
def State.unitsOf (s : State) (r : Req) (a : Acc) : List Nat :=
  let line := a.pa / 64
  if r.servedHome a then r.core :: homeUnits line
  else [r.core, sliceUnit (dieOf r.core) line] ++ (if !r.kind.reads && s.oldLine r a then homeUnits line else [])

/-- The access travels to its line's home now. -/
def State.goesHome (s : State) (r : Req) (a : Acc) : Bool := r.servedHome a || (!r.kind.reads && s.oldLine r a)

/-- The L1 may serve and hold the line of an access (R242): a load, not an acquire of system scope, of a page of cache policy
0 that is no reduction page. -/
def Req.cached (r : Req) (a : Acc) : Bool := r.kind == .load && a.cp == 0 && !(r.acquires && r.scope == 6)

/-- A write in the generation that an advance closes has no earlier access left that could fall after the cut (R335). -/
def State.cutOk (s : State) (r : Req) (a : Acc) : Bool :=
  r.kind.reads || s.gen.genAt (s.unitsOf r a) == s.gen.cur || s.fly.reqs.all fun q => !q.precedes r || q.done

/-- Whether an access of a request may be performed now. -/
def State.mayPerform (s : State) (r : Req) (a : Acc) : Bool :=
  let line := a.pa / 64
  s.inOrder r a && s.isDevice a.pa && s.dieUp (dieOf r.core) &&
    (s.lostStack a.pa || (s.dieUp (homeDie a.pa) && s.cutOk r a && (!s.goesHome r a || s.reach (dieOf r.core) (homeDie a.pa)) &&
      s.earlyOk a.pa a.n (fun e => r.kind.reads && e.blind r.acquires r.scope r.core r.gid a.wg r.wgs) &&
      (!r.releases || s.mayBeEarly r) &&
      (if r.kind.reads then
        s.readable (dieOf r.core) line (r.kind.homeOnly || a.cp == 2) (s.sealed r.ctx a.va) (r.cached a && (s.core r.core).inL1 line)
       else s.writable (dieOf r.core) line (r.kind.homeOnly || a.cp == 2))))

/-- One lane's operation on the old value of its word: the value returned and the new value. -/
def wordStep (k : ReqKind) (n : Nat) (old : Nat) (a : Acc) : Nat :=
  match k with
  | .atom op | .red op => atomOp op (8 * n) old a.op1
  | .cas => if old = a.op1 then a.op2 else old
  | .redx => redxLine (redxFmt a.op2) old a.op1
  | .clrx => 0
  | .signal => (old + a.op1) % 2 ^ 64
  | .load | .store | .rdx => old

/-- Lanes of one word in ascending lane order: each lane with what it gets, and the word's final value (R303). -/
def wordSteps (k : ReqKind) (n : Nat) : Nat → List Acc → List (Nat × Nat) × Nat
  | old, [] => ([], old)
  | old, a :: as =>
    let r := wordSteps k n (wordStep k n old a) as
    ((a.lane, old) :: r.1, r.2)

/-- The line's LG follows a write at the caching die (16 R361), and an E copy counts as written (R341). -/
def State.stampLine (s : State) (line gen : Nat) : State :=
  match FMap.find s.coh.dir line with
  | some e => s.setEntry line { e with lg := gen, written := e.written || e.st == .e }
  | none => s

/-- Write one lane's bytes. -/
def State.storeBytesAt (s : State) (pa : Nat) (bs : List (Nat × Byte)) : State :=
  if bs.map (·.1) = List.range bs.length then s.store pa (bs.map (·.2))
  else bs.foldl (fun (s : State) b => s.store (pa + b.1) [b.2]) s

/-- Perform a store's lane in a generation (R361), its page being prepared. -/
def State.performStore (s : State) (r : Req) (a : Acc) (gen : Nat) : State :=
  let line := a.pa / 64
  let s := (s.storeBytesAt a.pa a.bytes).useSnoop line
  let s := (s.stampLine line gen).count r.core 0x07 1 (some r.ctx)
  let s := if r.servedHome a then (s.countAccess (dieOf r.core) line).l2Fill (homeDie a.pa) line else s
  s.setReq { r with accs := r.accs.map (fun (b : Acc) => if b.lane = a.lane then { b with performed := true } else b) }

/-- Perform the lanes of one word at its home (R303). An uncorrectable error in the word leaves it as it is and kills the
lanes that get the data (19 R426). -/
def State.performWord (s : State) (r : Req) (a : Acc) : State :=
  let line := a.pa / 64
  let as := r.wordLanes a
  let bad := s.badLine line && r.kind != .clrx
  let y := wordSteps r.kind a.n (s.readN a.pa a.n) as
  let s := if bad then s.detect line else s.store a.pa (toBytes a.n y.2)
  let s := ((s.useSnoop line).countAccess (dieOf r.core) line).count r.core 0x07 1 (some r.ctx)
  s.setReq { r with accs := r.accs.map (fun (b : Acc) =>
    match y.1.find? fun z => z.1 = b.lane && !b.performed && b.pa = a.pa with
    | some z => { b with performed := true, result := z.2, poison := bad }
    | none => b) }

/-- A retained generation stops being retained, with a last STATUS. -/
def Gens.release (g : Gens) (gen st : Nat) : Gens :=
  ({ g with retained := g.retained.filter (fun r => r.gen ≠ gen), stat := FMap.put g.stat gen st,
            drains := g.drains.filter (fun d => d.gen ≠ gen) } : Gens).freeFrames

/-! ## Writes that the device makes (16 R372, 18 R463) -/

/-- A waiter that is to try again, with no page to wait for. -/
def State.parkDue (s : State) (id : Nat) (who : Waiter) (ctx : Nat) : State :=
  { s with fly := { s.fly with parks := s.fly.parks ++ [{ id := id, who := who, ctx := ctx, pages := [], core := 0xFFFF, due := true }] } }

/-- The line that a walk of the device for a context waits for. -/
def State.walkLine (s : State) (ctx : Nat) (va : DWord) (k : Access) : List Nat :=
  match (s.translate 0xFFFF ctx va k).1 with
  | .busy line => [line]
  | _ => []

/-- Add 1 to the counter at an EVENT or DONE address; 0 names none. -/
def State.signalEvent (s : State) (ctx : Nat) (va : DWord) : State :=
  if va = 0 then s
  else
    match s.groupless ctx va .add 8 with
    | .go pa sx s =>
      s.deviceWrite { id := 0, ctx := some ctx, chan := .word pa, pa := pa, va := va, sx := sx, bytes := toBytes 8 1, add := true }
    | .wait page kind light => (s.park (.event va) ctx 0xFFFF [(page, kind, light)]).1
    | .busy => s.newKey.2.parkDue s.newKey.1 (.event va) ctx
    | .lost s => s
    | .contextFault d => s.walkFault ctx d 0xFFFF 0 va 0

/-- A write to the same line waits, under a park before `before` when one is given. -/
def State.writeWaits (s : State) (ctx : Nat) (va : DWord) (before : Option Nat) : Bool :=
  s.fly.parks.any fun p => p.ctx = ctx && (match before with | some k => decide (p.id < k) | none => true) &&
    match p.who with
    | .write v _ _ => v / 64 == va / 64
    | _ => false

/-- Write one value to registers of the lanes that live (04 R78). -/
def Group.writeDst (g : Group) (dst : List (Nat × Nat)) (v : Word) : Group :=
  dst.foldl (fun (g : Group) d => if g.dead.getLsbD d.1 then g else g.updThread d.1 (·.setReg d.2 v)) g

/-- A `snap` completes once its descriptor is written (16 R369): d is written, and the split goes on. -/
def State.snapDone (s : State) (core gid split : Nat) (v : Nat) : State :=
  match s.waitOf core gid split with
  | some (.snapEnd dst) =>
    (s.updGroup core gid (·.writeDst dst (BitVec.ofNat 32 v))).updSplit core gid split fun p =>
      p.goPast (p.resume.getD p.pc) s.now
  | _ => s

/-- What follows a write of the device. -/
def State.follow (s : State) : Follow → State
  | .nothing => s
  | .fqHead => { s with fq := { s.fq with head := s.fq.head + 1 } }
  | .pfHead => { s with xl := { s.xl with pfHead := s.xl.pfHead + 1 } }
  | .migHead d => s.updDie d fun x => { x with migHead := x.migHead + 1 }
  | .signal ctx va => s.signalEvent ctx va
  | .snapDone core gid split v => s.snapDone core gid split v

/-- A write to a descriptor or a spill area through the translations of the context (18 R463), and what follows it; one that must
wait for a page, or for the line of a walk, parks under `key`. -/
def State.descriptorNow (s : State) (key ctx : Nat) (va : DWord) (bs : List Byte) (then_ : Follow) : State :=
  match s.groupless ctx va .store bs.length with
  | .go pa sx s =>
    s.deviceWrite { id := 0, ctx := some ctx, chan := .descriptor ctx (va / 64), pa := pa, va := va, sx := sx, bytes := bs, follow := then_ }
  | .wait page kind light => s.parkAs key (.write va bs then_) ctx 0xFFFF [(page, kind, light)]
  | .busy => s.parkDue key (.write va bs then_) ctx
  | .lost s => s.follow then_
  | .contextFault d => s.walkFault ctx d 0xFFFF 0 va 0

/-- The device writes to a context's memory; writes to one descriptor keep their order (R372). -/
def State.descriptorWrite (s : State) (ctx : Nat) (va : DWord) (bs : List Byte) (then_ : Follow) : State :=
  let k := s.newKey
  if s.writeWaits ctx va none then k.2.parkDue k.1 (.write va bs then_) ctx
  else k.2.descriptorNow k.1 ctx va bs then_

/-- Perform a write of the device: bytes, or an add, which an uncorrectable error of its word loses (18 R463), with the virtual
address of the access in the event. What the fault queue itself loses with its stack is not posted. -/
def State.performWrite (s : State) (w : DevWrite) : Written :=
  let pa := s.memKey w.pa
  let bs := if w.add then toBytes 8 ((s.readN pa 8 + ofBytes w.bytes) % 2 ^ 64) else w.bytes
  let ctx := w.ctx.getD 0xFF
  if !s.isDevice w.pa then .done (s.store pa bs)
  else if w.chan == .faultQueue && s.lostStack pa then .done s
  else if w.add && s.badLine (pa / 64) then .done ((s.detect (pa / 64)).post 0x10 0x14 0 ctx 0xFFFF w.va 0)
  else s.homeWrite ctx 0xFFFF pa bs w.sx

/-- An earlier write of the same channel or to the same line goes first. -/
def State.behind (s : State) (w : DevWrite) : Bool :=
  (s.fly.writes.takeWhile (·.id ≠ w.id)).any fun x =>
    x.chan = w.chan || (linesIn x.pa x.bytes.length).any (linesIn w.pa w.bytes.length).contains

/-- One write of the device, where it can be performed now. -/
def State.tryWrite (s : State) (w : DevWrite) : State :=
  if s.behind w then s
  else
    match s.performWrite w with
    | .done t =>
      let t : State := { t with fly := { t.fly with writes := t.fly.writes.filter (·.id ≠ w.id) } }
      (t.frameDone (.device w.id)).follow w.follow
    | .frame => s.noteFrame { who := .device w.id, page := s.memKey w.pa / 4096, ctx := w.ctx.getD 0xFF }
    | .wait => s

/-- Every write of the device that can be performed now. -/
def State.settleWrites (s : State) : State := s.fly.writes.foldl State.tryWrite s

/-! ## Pressure (16 R367) -/

/-- A generation is abandoned or ends otherwise: STATUS goes into its descriptor and EVENT is signalled. -/
def State.endGeneration (s : State) (r : GenRec) (st : Nat) : State :=
  let t : State := { s with gen := s.gen.release r.gen st }
  if r.mute then t else t.descriptorWrite r.ctx (r.va + 4) (toBytes 4 st) (.signal r.ctx r.event)

/-- Exhaustion of a share (R367): every retained generation taken with ABANDON goes. -/
def State.exhausted (s : State) : State :=
  (s.gen.retained.filter (·.abandon)).foldl (fun (s : State) r => s.endGeneration r 4) s

/-- The write finds no frame for the copy of its page now. -/
def State.frameShort (s : State) (w : FrameWait) : Bool := (s.cowAt s.gen.cur w.page false).isNone

/-- A write still waits for its frame: its writer is still there, and one that tries again by itself has found none. -/
def State.stillWaits (s : State) (w : FrameWait) : Bool :=
  match w.who with
  | .req id lane => s.fly.reqs.any fun r => r.id = id && r.accs.any fun a => a.lane = lane && !a.performed
  | .copy id => s.frameShort w && s.fly.copies.any fun c => c.id = id
  | .device id => s.frameShort w && s.fly.writes.any fun x => x.id = id
  | .outside | .table => s.frameShort w

/-- No drain runs for a generation that a page's copy would serve. -/
def State.undrained (s : State) (page : Nat) : Bool :=
  !(s.gen.drains.any fun d => decide (s.gen.tagOf page ≤ d.gen) && decide (d.gen < s.gen.cur))

/-- What waits for shadow frames: a new wait is an exhaustion, and one POOL_PRESSURE event is posted while a write waits and
no drain runs for it. A write that needs no copy any more, since what needed it was abandoned, presses nothing. -/
def State.settleFrames (s : State) : State :=
  let s := { s with gen := { s.gen with copyWait := s.gen.copyWait.filter s.stillWaits } }
  let tried := s.gen.copyWait.map fun (w : FrameWait) => { w with tried := true }
  let s := if s.gen.copyWait.all (·.tried) then s else ({ s with gen := { s.gen with copyWait := tried } } : State).exhausted
  let short := s.gen.copyWait.filter s.frameShort
  match short.find? fun w => s.undrained w.page with
  | some w =>
    if s.gen.pressed then s
    else { s.post 0x06 0 0 w.ctx w.core (BitVec.ofNat 64 (w.page * 4096)) 0 with gen := { s.gen with pressed := true } }
  | none => if short.isEmpty then { s with gen := { s.gen with pressed := false } } else s

/-! ## Writes and word steps of requests (16 R361, R364, 13 R303) -/

/-- An access to a lost stack: a write is discarded and posted; data is an uncorrectable error (15 R347). -/
def State.performLost (s : State) (r : Req) (a : Acc) : State :=
  let s := s.post 0x0A 0 0 r.ctx r.core (BitVec.ofNat 64 a.pa) 0
  s.setReq { r with accs := r.accs.map (fun (b : Acc) => if b.lane = a.lane then { b with performed := true, poison := true } else b) }

/-- Perform a lane's write or word step when it may be. A store to a line that its die holds with data of the same
generation, in a page already written in it, is no matter of the home (R361). The die keeps the line that it writes when the page's
dirty lines are recalled for a copy. -/
def State.perform (s : State) (r : Req) (a : Acc) (home : Bool) : State :=
  let line := a.pa / 64
  let page := a.pa / 4096
  if a.performed || r.kind.atHome != home || r.kind.reads || !s.mayPerform r a then s
  else if s.lostStack a.pa then s.performLost r a
  else
    let us := s.unitsOf r a
    let g := s.gen.genAt us
    let k := fun (t : State) =>
      let t := (t.noteEarly r a).overtake r
      if home then t.performWord r a else t.performStore r a g
    if !s.goesHome r a then k (s.exchange us)
    else
      match s.prepared us page a.sx (fun t => k (if r.servedHome a then t else t.setEntry line (s.entry line))) with
      | .done t => t.frameDone (.req r.id a.lane)
      | .frame => s.noteFrame { who := .req r.id a.lane, page := page, ctx := r.ctx, core := r.core }
      | .wait => s

/-- The access of a lane of a request. -/
def State.accOf (s : State) (req lane : Nat) : Option (Req × Acc) :=
  match s.req req with
  | some r => (r.accs.find? fun a => a.lane = lane).map fun a => (r, a)
  | none => none

/-- The write waits for a shadow frame. -/
def State.waitsFrame (s : State) (req lane : Nat) : Bool := s.gen.copyWait.any fun w => w.who = .req req lane

/-- WRITE_AT_HOME (16 R361): a store's lane is performed at its slice. -/
noncomputable def execWriteAtHome (req lane : Nat) (s : State) : Out :=
  match s.accOf req lane with
  | some (r, a) => if s.waitsFrame req lane then .next s else .next (s.perform r a false)
  | none => .next s

/-- ATOMIC_AT_HOME (R303): the lanes of one word, in one step. -/
noncomputable def execAtomicAtHome (req lane : Nat) (s : State) : Out :=
  match s.accOf req lane with
  | some (r, a) => if s.waitsFrame req lane then .next s else .next (s.perform r a true)
  | none => .next s

/-- COPY_WAIT_RESUME (16 R367): a write that waits for a shadow frame is performed once a frame of its share is free. -/
noncomputable def execCopyWaitResume (req lane : Nat) (s : State) : Out :=
  match s.accOf req lane with
  | some (r, a) =>
    if s.waitsFrame req lane && (s.cowAt (s.gen.genAt (s.unitsOf r a)) (a.pa / 4096) a.sx).isSome then
      .next (s.perform r a r.kind.atHome)
    else .next s
  | none => .next s

/-! ## Arrival of data (02 R52, R54, 09 R216) -/

/-- A load's lane takes its value (R299, R308). -/
def State.sample (s : State) (r : Req) (a : Acc) : Acc :=
  if a.performed then a
  else
    let v := s.readN a.pa a.n
    { a with performed := true, poison := s.badLine (a.pa / 64), result := if r.kind = .rdx then rdxValue v else v }

/-- An access of a request that reads has its value, or can have it now. -/
def State.hasValue (s : State) (r : Req) (a : Acc) : Bool := a.performed || (r.kind.reads && s.mayPerform r a)

/-- A load reaches the slice that serves it (R242, R245): it is counted at the home unless it hits the L2 of its die (15
R355), the slice keeps the line, and the units on its way hold the highest generation (16 R360). -/
def State.loadSlice (s : State) (r : Req) (a : Acc) : State :=
  let line := a.pa / 64
  let die := dieOf r.core
  let home := homeDie a.pa
  let s := (((s.useSnoop line).detect line).exchange (s.unitsOf r a)).count r.core 0x07 1 (some r.ctx)
  if !r.servedHome a then s
  else if die = home && (s.die die).l2.contains line then s
  else (s.countAccess die line).l2Fill home line

/-- A read of a core's engine can be served at a line's home now. -/
def State.homeReads (s : State) (core line : Nat) : Bool := s.lineCurrent line && s.reach (dieOf core) (homeDie (line * 64))

/-- An engine of a core reads a line at its home: counted there unless the home's own core finds it in the L2 (15 R355). -/
def State.homeRead (s : State) (core : Nat) (ctx : Option Nat) (line : Nat) : State :=
  let die := dieOf core
  let home := homeDie (line * 64)
  let s := (((s.useSnoop line).detect line).exchange (core :: homeUnits line)).count core 0x07 1 ctx
  if die = home && (s.die die).l2.contains line then s else (s.countAccess die line).l2Fill home line

/-- Count a load at the L1, or serve it behind, and allocate its line (R242). -/
def State.loadLine (s : State) (r : Req) (a : Acc) : State :=
  let line := a.pa / 64
  if r.scratch || !s.isDevice a.pa then s
  else if r.cached a && (s.core r.core).inL1 line then s.count r.core 0x05 1 (some r.ctx)
  else
    let s := (s.loadSlice r a).count r.core 0x06 1 (some r.ctx)
    if r.cached a then s.updCore r.core (·.install line) else s

/-- The value of an access reaches one lane's destination, with PR where a pan refused the access, or kills the lane that it
alone reaches. A dead lane's is discarded, and its flag with it (04 R78). -/
def State.deliver (s : State) (r : Req) (d : Nat × List Nat × Nat) : State :=
  match r.accs.find? fun a => a.lane = d.2.2 with
  | none => s
  | some a =>
    match s.group r.core r.gid with
    | none => s
    | some g =>
      if g.dead.getLsbD d.1 then s
      else if a.poison then s.killLane r.core r.gid d.1
      else s.setGroup r.core r.gid ((g.updThread d.1 fun t =>
        (t.setRegs d.2.1 (extendTo r.ext r.signed a.result)).fill d.2.1).raiseFlags (flagIf a.pr flagPR))

/-- Every access of a returning request has its value or can have it now. -/
def State.canArrive (s : State) (r : Req) : Bool :=
  !r.dst.isEmpty && s.dieUp (dieOf r.core) && r.accs.all (s.hasValue r)

/-- The data of a request arrives. -/
def State.arrive (s : State) (r : Req) : State :=
  let r' := { r with accs := r.accs.map (s.sample r) }
  let s := (r.accs.filter fun a => !a.performed).foldl (fun (s : State) a => s.loadLine r a) s
  let s := { s with fly := { s.fly with reqs := s.fly.reqs.filter (fun q => q.id ≠ r.id) } }
  r'.dst.foldl (fun (s : State) d => s.deliver r' d) s

/-- The data of one accessing lane can arrive before that of the others. -/
def State.laneArrives (s : State) (r : Req) (a : Acc) : Bool :=
  r.dst.any (fun d => d.2.2 = a.lane) && s.dieUp (dieOf r.core) && s.hasValue r a

/-- The data of one accessing lane arrives, and the request keeps the others (10 R244, 14 R322). -/
def State.arriveLane (s : State) (r : Req) (a : Acc) : State :=
  let r' := { r with accs := r.accs.map fun b => if b.lane = a.lane then s.sample r b else b }
  let s := if a.performed then s else s.loadLine r a
  let s := s.setReq { r' with dst := r.dst.filter fun d => d.2.2 ≠ a.lane }
  (r.dst.filter fun d => d.2.2 = a.lane).foldl (fun (s : State) d => s.deliver r' d) s

/-- LONG_LATENCY_ARRIVAL (02 R52): loads and atomics with a return write their destinations, those of all lanes together or of
one lane. -/
noncomputable def execLongLatencyArrival (part : LoadPart) (s : State) : Out :=
  match s.req part.req with
  | none => .next s
  | some r =>
    match part.lane with
    | none => .next (if s.canArrive r then s.arrive r else s)
    | some l =>
      match r.accs.find? fun a => a.lane = l with
      | some a => .next (if s.laneArrives r a then s.arriveLane r a else s)
      | none => .next s

/-- A `tfence` that waits for a result sees its flags (09 R209). -/
def Group.tfenceSees (g : Group) (id : Nat) (f : Word) : Group :=
  { g with splits := g.splits.map fun e =>
      match e.2.wait with
      | .results ids => if ids.contains id then (e.1, { e.2 with seen := e.2.seen.map (· ||| f) }) else e
      | _ => e }

/-- SFU_RESULT_WRITE (07 R153): the result, its flags and the full bit, or nothing for a dead thread. -/
noncomputable def execSfuResultWrite (id : Nat) (s : State) : Out :=
  match s.fly.sfu.find? fun r => r.id = id with
  | none => .next s
  | some r =>
    if s.now < r.due || (s.die (dieOf r.core)).fenced then .next s
    else
      let s := { s with fly := { s.fly with sfu := s.fly.sfu.filter (fun x => x.id ≠ id) } }
      .next (s.updGroup r.core r.gid fun g =>
        if g.dead.getLsbD r.lane then g
        else ((g.updThread r.lane fun t => (t.setReg r.reg r.value).fill [r.reg]).raiseFlags r.flags.toNat).tfenceSees id
          r.flags)

/-! ## Parks whose pages have been served (09 R203, 18 R408) -/

/-- PARKED_REPLAY: a split whose replay is due issues its unfinished lanes again, inside the clause in which it parked, whose place and
count it keeps (02 R38 says that the clause ends there, and not what the words after it then are: the model's choice,
notes/assumptions/42.md); a copy, a fill or an access of R463 goes
on. A split of a group in handler mode replays after `rte` (R205). -/
noncomputable def execParkedReplay (park : Nat) (s : State) : Out :=
  match s.fly.parks.find? fun p => p.id = park with
  | none => .next s
  | some p =>
    if !p.due then .next s
    else
      let s' := { s with fly := { s.fly with parks := s.fly.parks.filter (fun q => q.id ≠ park) } }
      match p.who with
      | .split core gid k _ _ =>
        match s.group core gid with
        | none => .next s'
        | some g =>
          if g.handler.isSome && k != 4 then .next s
          else .next (s'.updSplit core gid k fun q => { q with wait := if q.clause.isNone then .held else .ready, rt := s.now })
      | .event va => .next (if (s.walkLine p.ctx va .add).isEmpty then s'.signalEvent p.ctx va else s)
      | .write va bs then_ =>
        .next (if s.writeWaits p.ctx va (some park) || !(s.walkLine p.ctx va .store).isEmpty then s
          else s'.descriptorNow park p.ctx va bs then_)
      | .copy _ | .fill _ _ | .launchRead _ => .next s'

end Sys2Proof.Machine
end

