-- ==== Sys2Proof/Machine/Bulk.lean ====
section
/-! DEFINITION. Bulk copies (13_memory_instructions.md R310 to R316), faults held for a token, and the seal table's
instructions (R318 to R320, 18 R417). -/

namespace Sys2Proof.Machine

/-! ## Held faults (R315, 12 R286) -/

/-- The first fault that the group holds for a token, or for any token. -/
def Group.heldFor (g : Group) (tok : Option Nat) : Option HeldFault :=
  match tok with
  | some k => g.held.find? fun f => f.tok = k
  | none => g.held.head?

/-- The issuing split takes a held fault, which is then no longer held. -/
def State.takeHeld (s : State) (c : Cur) (p : Split) (f : HeldFault) : State :=
  match s.group c.core c.gid with
  | none => s
  | some g =>
    let s := s.setGroup c.core c.gid { g with held := g.held.filter (· ≠ f) }
    s.trapLow c g p f.code f.detail f.info

/-- A fault found after issue: the group holds it, or an event tells the owner that the group has gone. -/
def State.holdFault (s : State) (core gid ctx : Nat) (f : HeldFault) : State :=
  match s.group core gid with
  | some g => s.setGroup core gid { g with held := g.held ++ [f] }
  | none => s.post 0x08 f.code f.detail ctx core f.info 0

/-! ## The descriptor (Table 13.4) -/

/-- A little-endian field of bytes. -/
def fieldAt (bs : List Byte) (o n : Nat) : Nat := ofBytes ((bs.drop o).take n)

/-- A descriptor's fields. -/
structure CopyDesc where
  dir : Nat
  esz : Nat
  tr : Nat
  x : Nat
  y : Nat
  z : Nat
  src : Nat
  srow : Int
  splane : Int
  dst : Nat
  drow : Int
  dplane : Int
  dstage : Nat
  /-- the reserved bytes are zero -/
  clean : Bool
  deriving DecidableEq, Repr

/-- Read a descriptor's fields. -/
def copyDesc (bs : List Byte) : CopyDesc :=
  { dir := fieldAt bs 0 1, esz := fieldAt bs 1 1, tr := fieldAt bs 2 1, x := fieldAt bs 4 4, y := fieldAt bs 8 2,
    z := fieldAt bs 10 2, src := fieldAt bs 0x10 8, srow := sextN (fieldAt bs 0x18 4) 32,
    splane := sextN (fieldAt bs 0x1C 4) 32, dst := fieldAt bs 0x20 8, drow := sextN (fieldAt bs 0x28 4) 32,
    dplane := sextN (fieldAt bs 0x2C 4) 32, dstage := fieldAt bs 0x30 1,
    clean := fieldAt bs 3 1 == 0 && fieldAt bs 12 4 == 0 && fieldAt bs 0x31 15 == 0 }

/-- Every limit of Table 13.4 (R311, stage 5). -/
def CopyDesc.legal (d : CopyDesc) (stages : Nat) : Bool :=
  decide (d.dir ≤ 2) && decide (d.esz ≤ 3) && decide (d.tr ≤ 2) && (d.tr == 0 || d.esz == 0) &&
    (d.tr != 2 || (d.x % 2 == 0 && d.y % 2 == 0)) && d.clean && decide (1 ≤ d.x) && decide (d.x ≤ 2 ^ 24) &&
    decide (1 ≤ d.y) && decide (1 ≤ d.z) && (d.dir == 0 || decide (d.src < 2 ^ 32)) &&
    (d.dir == 1 || decide (d.dst < 2 ^ 32)) &&
    (if d.dir = 2 then d.dstage == 255 || decide (d.dstage < stages) else d.dstage == 0)

/-- Element size in bytes, one for 4-bit elements. -/
def CopyDesc.unit (d : CopyDesc) : Nat := 2 ^ d.esz

/-- Every address and stride is a multiple of the element size (R311, stage 6). -/
def CopyDesc.aligned (d : CopyDesc) : Bool :=
  let e : Int := d.unit
  ((d.src : Int) % e == 0) && ((d.dst : Int) % e == 0) && d.srow % e == 0 && d.splane % e == 0 && d.drow % e == 0 &&
    d.dplane % e == 0

/-- Lowest and highest byte offset of a side: base, three counts with their strides, and the bytes of the last element. -/
def extent (base : Int) (ds : List (Nat × Int)) (last : Int) : Int × Int :=
  let lo := ds.foldl (fun a d => if d.2 < 0 then a + (d.1 - 1 : Int) * d.2 else a) base
  let hi := ds.foldl (fun a d => if 0 < d.2 then a + (d.1 - 1 : Int) * d.2 else a) base
  (lo, hi + last)

/-- Extent of the source side (R312). -/
def CopyDesc.srcExtent (d : CopyDesc) : Int × Int :=
  if d.tr = 2 then extent d.src [(d.z, d.splane), (d.y, d.srow)] ((d.x + 1) / 2 - 1 : Int)
  else extent d.src [(d.z, d.splane), (d.y, d.srow), (d.x, (d.unit : Int))] (d.unit - 1 : Int)

/-- Extent of the destination side (R312). -/
def CopyDesc.dstExtent (d : CopyDesc) : Int × Int :=
  match d.tr with
  | 0 => extent d.dst [(d.z, d.dplane), (d.y, d.drow), (d.x, (d.unit : Int))] (d.unit - 1 : Int)
  | 1 => extent d.dst [(d.z, d.dplane), (d.x, d.drow), (d.y, (d.unit : Int))] (d.unit - 1 : Int)
  | _ => extent d.dst [(d.z, d.dplane), (d.x, d.drow)] ((d.y + 1) / 2 - 1 : Int)

/-- A scratch side lies in one row of R232. -/
def inOneRow (h : Header) (e : Int × Int) : Bool :=
  (decide (0 ≤ e.1) && decide (e.2 < h.scratch)) ||
    (decide ((computeBase : Int) ≤ e.1) && decide (e.2 < computeBase + 16384 * h.cpans))

/-- The workgroup of a stage in a workgroup's pipeline column (17 R381): of its grid coordinate, for WGID tells stages apart
(04 Table 4.5). -/
def State.columnWg (s : State) (w : Wg) (stage : Nat) : Option Nat :=
  (s.wgs.find? fun e => e.2.launch = w.launch && e.2.x = w.x && e.2.y = w.y && e.2.z = w.z && e.2.node = w.node &&
    e.2.stage = stage).map (·.1)

/-- The workgroup of a stage in a workgroup's pipeline column waits for its restore: a copy to it waits with it. -/
def State.columnAway (s : State) (w : Wg) (stage : Nat) : Bool :=
  match s.launch w.launch with
  | none => false
  | some x =>
    let n := x.lr.gx * x.lr.gy * x.lr.gz
    w.node.isNone && x.away.any fun a => a.node.isNone && a.wgid.toNat == stage * n + w.wgid.toNat % Nat.max 1 n

/-- A box of `n1` by `n2` runs of `len` bytes, with their strides, has bytes between two offsets. -/
def boxTouches (base : Int) (n1 : Nat) (s1 : Int) (n2 : Nat) (s2 len lo hi : Int) : Bool :=
  (List.range (n1 * n2)).any fun k =>
    let b := base + (k % n1 : Nat) * s1 + (k / n1 : Nat) * s2
    decide (b < hi) && decide (lo < b + len)

/-- The source side has bytes between two offsets (R312). -/
def CopyDesc.srcTouches (d : CopyDesc) (lo hi : Int) : Bool :=
  boxTouches d.src d.y d.srow d.z d.splane (if d.tr = 2 then (d.x / 2 : Nat) else d.x * d.unit : Int) lo hi

/-- The destination side has bytes between two offsets (R312). -/
def CopyDesc.dstTouches (d : CopyDesc) (lo hi : Int) : Bool :=
  match d.tr with
  | 0 => boxTouches d.dst d.y d.drow d.z d.dplane (d.x * d.unit : Int) lo hi
  | 1 => boxTouches d.dst d.x d.drow d.z d.dplane (d.y * d.unit : Int) lo hi
  | _ => boxTouches d.dst d.x d.drow d.z d.dplane (d.y / 2 : Nat) lo hi

/-- Compute pans of a workgroup in state 0 that a side of a copy accesses (R275). -/
def State.servedPans (s : State) (w : Nat) (touches : Int → Int → Bool) : List (Nat × Nat) :=
  match s.wg w with
  | some x => (List.range x.compute.length).filterMap fun i =>
      if s.computeState x i = 0 ∧ touches (computeBase + 16384 * i : Nat) (computeBase + 16384 * (i + 1) : Nat) = true then
        some (w, i) else none
  | none => []

/-- Compute pans of a workgroup that are not in state 0 (R275). -/
def State.busyPans (s : State) (w : Nat) : List (Nat × Nat) :=
  match s.wg w with
  | some x => (List.range x.compute.length).filterMap fun i => if s.computeState x i ≠ 0 then some (w, i) else none
  | none => []

/-- An issued copy. -/
def newCopy (s : State) (c : Cur) (g : Group) (w dw : Option Nat) (tok scope : Nat) (d : CopyDesc) : Copy :=
  { id := s.fresh, ctx := g.ctx, core := c.core, gid := c.gid, tok := tok, scope := scope, srcWg := w.getD 0, dstWg := dw,
    dir := d.dir, esz := d.esz, tr := d.tr, x := d.x, y := d.y, z := d.z, src := BitVec.ofNat 64 d.src, srow := d.srow,
    splane := d.splane, dst := BitVec.ofNat 64 d.dst, drow := d.drow, dplane := d.dplane,
    refused := s.busyPans (w.getD 0) ++ (match dw with | some x => s.busyPans x | none => []),
    reaches := (if d.dir = 0 then [] else s.servedPans (w.getD 0) d.srcTouches) ++
      (if d.dir = 1 then [] else match dw with | some x => s.servedPans x d.dstTouches | none => []),
    after := s.earlier c (fun _ => true) }

/-- `bcopy` (R310, R311). -/
noncomputable def execBcopy (f : FormE) (s : State) : Out :=
  gated (.bcopy f) s fun c g p ls =>
    let i := Instr.bcopy f
    let h := s.hdr g
    let a := uniVal h g i.info.a i.view.a ls
    let info : DWord := BitVec.ofNat 64 a
    let wk := wgOf g p
    match s.wg wk with
    | none => .next (s.trapLow c g p cSCRATCH 0 info)
    | some w =>
      if a % 64 ≠ 0 then .next (s.trapLow c g p cMISALIGN 0 info)
      else
        match w.scratchAt h a 64 with
        | .at_ core key none =>
          match s.earlier c (·.acquires) with
          | id :: ids => .next (s.stall c (.requests (id :: ids)) none)
          | [] =>
            let d := copyDesc (s.panRead core key 64)
            let dw := if d.dir = 2 ∧ d.dstage ≠ 255 then s.columnWg w d.dstage else some wk
            if !d.legal h.stages then .next (s.trapLow c g p cILLEGAL 1 0)
            else if !d.aligned then .next (s.trapLow c g p cMISALIGN 0 info)
            else if (d.dir ≠ 0 ∧ !inOneRow h d.srcExtent) ∨ (d.dir ≠ 1 ∧ !inOneRow h d.dstExtent) then
              .next (s.trapLow c g p cSCRATCH 0 info)
            else if 255 ≤ FMap.get 0 g.tok f.tok then .next (s.stall c (.tokenRoom f.tok) none)
            else if dw.isNone && s.columnAway w d.dstage then .next (s.stall c (.lines []) none)
            else
              let cp := newCopy s c g (some wk) dw f.tok f.escope d
              let uv := allUV h g i ls
              let s := s.issue c g p i ls.length
              let s := s.updGroup c.core c.gid fun g => (g.tokInc f.tok).setFlags uv
              .next ({ s with fresh := s.fresh + 1, fly := { s.fly with copies := s.fly.copies ++ [cp] } }.advance c)
        | _ => .next (s.trapLow c g p cSCRATCH 0 info)

/-- `bwait` (R314): the completion point of a token, and of a fault that it holds. -/
noncomputable def execBwait (f : FormE) (s : State) : Out :=
  gated (.bwait f) s fun c g p ls =>
    if ls.isEmpty then .next ((s.issue c g p (.bwait f) 0).advance c)
    else
      match g.heldFor (some f.tok) with
      | some x => .next (s.takeHeld c p x)
      | none =>
        if FMap.get 0 g.tok f.tok ≠ 0 then .next (s.stall c (.tokenZero f.tok) none)
        else .next ((s.issue c g p (.bwait f) ls.length).advance c)

/-! ## Running a copy (R312, R313, R315) -/

/-- How a unit of a copy goes. -/
inductive CopyEnd where
  | ok (s : State) (c : Copy)
  | page (va : DWord) (kind : Nat) (light : Bool)
  | trap (code detail : Nat) (va : DWord)
  | noContext (detail : Nat) (va : DWord)
  /-- it waits for a line, or for a peer or the host -/
  | wait (line : Option Nat)
  /-- it waits for a shadow frame of a page -/
  | frame (page : Nat)

/-- An access of the copy's source: the state, the copy, the bytes and their poison. -/
inductive CopyRead where
  | bytes (s : State) (c : Copy) (bs : List Byte) (poison : Bool)
  | stop (e : CopyEnd)

/-- A copy reads a line, unless it has just read it. -/
def State.copyReads (s : State) (c : Copy) (line : Nat) : State :=
  if c.readLine = some line then (s.useSnoop line).detect line else s.homeRead c.core (some c.ctx) line

/-- Read `n` bytes of the source at their home; `k` is the position among outside bytes. -/
def State.copyRead (s : State) (c : Copy) (addr : Int) (n k : Nat) : CopyRead :=
  if c.dir = 0 then
    let va : DWord := BitVec.ofInt 64 addr
    let r := s.translate c.core c.ctx va .load
    match r.1 with
    | .ok pa _ =>
      let line := pa / 64
      if !s.isDevice pa then
        match c.outside with
        | some bs => .bytes (s.fillTlb c.core r.2) c ((bs.drop k).take n) c.outsideBad
        | none => .stop (.wait none)
      else if s.lostStack pa || s.homeReads c.core line then
        .bytes ((s.fillTlb c.core r.2).copyReads c line) { c with readLine := some line } (s.read pa n) (s.badLine line)
      else .stop (.wait (some line))
    | .trap code detail => .stop (.trap code detail va)
    | .page => .stop (.page va (8 + 1) false)
    | .light => .stop (.page va (8 + 1) true)
    | .noContext d => .stop (.noContext d va)
    | .busy line => .stop (.wait (some line))
  else
    match s.wg c.srcWg with
    | none => .bytes s c (List.replicate n 0) false
    | some w =>
      let h := match s.launch w.launch with | some l => l.hdr | none => {}
      match w.scratchAt h addr n with
      | .at_ core key comp =>
        if comp.any fun i => c.refused.contains (c.srcWg, i) then .bytes s { c with pr := true } (List.replicate n 0xFF) false
        else .bytes s c (s.panRead core key n) (s.badRow core key)
      | .bad => .bytes s c (List.replicate n 0) false

/-- Bytes of a line as a mask. -/
def lineMask (pa n : Nat) : BitVec 64 := ((1#64 <<< n) - 1) <<< (pa % 64)

/-- A copy has written bytes of a line: poison travels with them (19 R426), and a line that the copy has written whole without
poison is clean (15 R347). -/
def State.copyWrote (s : State) (c : Copy) (pa n : Nat) (poison : Bool) : State × Copy :=
  let line := pa / 64
  let m := if poison then 0 else FMap.get 0 c.filled line ||| lineMask pa n
  let s := if poison then s.poisonLine line else if m = BitVec.allOnes 64 then s.cleanLine line else s
  let s := if c.writeLine = some line then s else (s.countAccess (dieOf c.core) line).count c.core 0x07 1 (some c.ctx)
  (s, { c with filled := FMap.set 0 c.filled line m, writeLine := some line })

/-- Write bytes of one line at their home. -/
def State.copyHome (s : State) (c : Copy) (pa : Nat) (bs : List Byte) (poison sx : Bool) : CopyEnd :=
  let line := pa / 64
  if s.lostStack pa && c.writeLine = some line then .ok s c
  else if !s.reach (dieOf c.core) (homeDie pa) then .wait (some line)
  else
    match s.homeWrite c.ctx c.core pa bs sx with
    | .done t =>
      if s.lostStack pa then .ok t { c with writeLine := some line }
      else
        let y := t.copyWrote c pa bs.length poison
        .ok (y.1.frameDone (.copy c.id)) y.2
    | .frame => .frame (pa / 4096)
    | .wait => .wait (some line)

/-- Write bytes to the destination. -/
def State.copyWrite (s : State) (c : Copy) (addr : Int) (bs : List Byte) (poison : Bool) : CopyEnd :=
  if c.dir = 1 then
    let va : DWord := BitVec.ofInt 64 addr
    let r := s.translate c.core c.ctx va .store
    match r.1 with
    | .ok pa e =>
      if s.isDevice pa then (s.fillTlb c.core r.2).copyHome c pa bs poison (pteBit e 5)
      else match c.outside with
        | some _ => .ok ((s.fillTlb c.core r.2).store pa bs) c
        | none => .wait none
    | .trap code detail => .trap code detail va
    | .page => .page va (8 + 2) false
    | .light => .page va (8 + 2) true
    | .noContext d => .noContext d va
    | .busy line => .wait (some line)
  else
    match c.dstWg.bind fun k => (s.wg k).map fun w => (k, w) with
    | none => .ok s c
    | some (k, w) =>
      let h := match s.launch w.launch with | some l => l.hdr | none => {}
      match w.scratchAt h addr bs.length with
      | .at_ core key comp =>
        if comp.any fun i => c.refused.contains (k, i) then .ok s { c with pr := true }
        else
          let y := s.scratchStore w h core key addr.toNat (bs.mapIdx fun j b => (j, b))
          .ok (if poison then y.1.updCore core fun q => { q with badRows := (key / 64) :: q.badRows.filter (· ≠ key / 64) }
               else y.1) { c with pr := c.pr || y.2 }
      | .bad => .ok s c

/-- A 4-bit element at a half-byte position of a byte (06 R128). -/
def nibble (b : Byte) (odd : Bool) : Nat := if odd then b.toNat / 16 else b.toNat % 16

/-- Units of a copy: elements, or destination bytes of a 4-bit transpose. -/
def Copy.units (c : Copy) : Nat := if c.tr = 2 then c.x * (c.y / 2) * c.z else c.x * c.y * c.z

/-- Coordinates of a unit; for a 4-bit transpose y is the even row of its pair. -/
def Copy.coords (c : Copy) (k : Nat) : Nat × Nat × Nat :=
  let rows := if c.tr = 2 then c.y / 2 else c.y
  (k % c.x, (k / c.x % rows) * (if c.tr = 2 then 2 else 1), k / (c.x * rows))

/-- Where a unit of a copy reads; for a 4-bit transpose, in row `row` of its pair (R312). -/
def Copy.srcAddr (c : Copy) (k row : Nat) : Int :=
  let q := c.coords k
  c.src.toNat + q.2.2 * c.splane + (q.2.1 + row : Nat) * c.srow + (if c.tr = 2 then q.1 / 2 else q.1 * 2 ^ c.esz : Nat)

/-- Where a unit of a copy is written (R312). -/
def Copy.dstAddr (c : Copy) (k : Nat) : Int :=
  let q := c.coords k
  let base : Int := c.dst.toNat + q.2.2 * c.dplane
  match c.tr with
  | 0 => base + q.2.1 * c.drow + (q.1 * 2 ^ c.esz : Nat)
  | 1 => base + q.1 * c.drow + (q.2.1 * 2 ^ c.esz : Nat)
  | _ => base + q.1 * c.drow + (q.2.1 / 2 : Nat)

/-- Move one unit (R312). -/
def State.copyUnit (s : State) (c : Copy) (k : Nat) : CopyEnd :=
  if c.tr = 2 then
    match s.copyRead c (c.srcAddr k 0) 1 (2 * k) with
    | .stop r => r
    | .bytes s c b0 e0 =>
      match s.copyRead c (c.srcAddr k 1) 1 (2 * k + 1) with
      | .stop r => r
      | .bytes s c b1 e1 =>
        let odd : Bool := (c.coords k).1 % 2 = 1
        s.copyWrite c (c.dstAddr k) [BitVec.ofNat 8 (nibble (b0.headD 0) odd + 16 * nibble (b1.headD 0) odd)] (e0 || e1)
  else
    match s.copyRead c (c.srcAddr k 0) (2 ^ c.esz) (2 ^ c.esz * k) with
    | .stop r => r
    | .bytes s c bs poison => s.copyWrite c (c.dstAddr k) bs poison

/-- How far a copy comes: the state, the copy, and what stopped it. -/
structure CopyRun where
  s : State
  c : Copy
  stop : Option CopyEnd

/-- Run a copy for `fuel` units. -/
def copyRun : Nat → Copy → State → CopyRun
  | 0, c, s => { s := s, c := c, stop := none }
  | fuel + 1, c, s =>
    match s.copyUnit c c.moved with
    | .ok s' c' => copyRun fuel { c' with moved := c.moved + 1 } s'
    | e => { s := s, c := c, stop := some e }

/-- Replace or drop a copy. -/
def State.setCopy (s : State) (id : Nat) (c : Option Copy) : State :=
  let cs := match c with
    | some c => s.fly.copies.map fun (x : Copy) => if x.id = id then c else x
    | none => s.fly.copies.filter fun x => x.id ≠ id
  { s with fly := { s.fly with copies := cs } }

/-- The copy may run: what precedes it has been performed, and it is not parked (R313). -/
def State.copyReady (s : State) (c : Copy) : Bool :=
  (s.fly.reqs.all fun r => !(c.after.contains r.id) || r.done) &&
    s.fly.parks.all fun p => p.who != .copy c.id

/-- The copy of an identifier. -/
def State.copyOf (s : State) (id : Nat) : Option Copy := s.fly.copies.find? fun c => c.id = id

/-- The copy ends: PR is set where a pan has refused it (R275), and its token loses 1. -/
def State.endCopy (s : State) (c : Copy) : State :=
  (((s.setCopy c.id none).frameDone (.copy c.id)).updGroup c.core c.gid (·.raiseFlags (flagIf c.pr flagPR))).updGroup c.core c.gid
    (·.tokDec c.tok)

/-- Bytes that a copy has moved. -/
def Copy.bytesMoved (c : Copy) : Nat := c.moved * (if c.tr = 2 then 1 else 2 ^ c.esz)

/-- The copy ends, and what it has moved is counted by 64 bytes (19 Table 19.4). -/
def State.closeCopy (s : State) (c : Copy) : State := (s.endCopy c).count c.core 0x0F (c.bytesMoved / 64) (some c.ctx)

/-- BULK_COPY_COMPLETION (R313): the copy's bytes are written and its token loses 1. A page that is not there parks it, and a
line or a shadow frame makes it wait. -/
noncomputable def execBulkCopyCompletion (copy : Nat) (s : State) : Out :=
  match s.copyOf copy with
  | none => .next s
  | some c =>
    if !s.copyReady c then .next s
    else
      let r := copyRun (c.units - c.moved) { c with waits := none } s
      match r.stop with
      | none => .next (r.s.closeCopy r.c)
      | some (.page va kind light) => .next ((r.s.setCopy copy (some r.c)).park (.copy copy) c.ctx c.core [(va, kind, light)]).1
      | some (.noContext d va) => .next (r.s.walkFault c.ctx d c.core 0 va 0)
      | some (.wait (some line)) => .next (r.s.setCopy copy (some { r.c with waits := some line }))
      | some (.wait none) => .next (r.s.setCopy copy (some { r.c with sent := some (r.c.sent.getD s.clk.time) }))
      | some (.frame page) =>
        .next ((r.s.setCopy copy (some r.c)).noteFrame { who := .copy copy, page := page, ctx := c.ctx, core := c.core })
      | some (.trap _ _ _) => .next s
      | some (.ok _ _) => .next s

/-- BULK_COPY_FAULT (R315): a trapping fault ends the copy; its token loses 1 and the group holds the fault. -/
noncomputable def execBulkCopyFault (copy : Nat) (s : State) : Out :=
  match s.copyOf copy with
  | none => .next s
  | some c =>
    if !s.copyReady c then .next s
    else
      let r := copyRun (c.units - c.moved) { c with waits := none } s
      match r.stop with
      | some (.trap code detail va) =>
        .next ((r.s.closeCopy r.c).holdFault c.core c.gid c.ctx
          { tok := c.tok, code := code, detail := detail ||| 0x40, info := va })
      | _ => .next s

/-! ## Seal and unseal -/

/-- First addresses of the pages of a range. -/
def pagesIn (start : DWord) (len : Nat) : List DWord :=
  (List.range (len / 4096)).map fun i => start + BitVec.ofNat 64 (4096 * i)

/-- First addresses of the granules of a range. -/
def granulesIn (start : DWord) (len : Nat) : List DWord :=
  (List.range (len / 65536)).map fun i => start + BitVec.ofNat 64 (65536 * i)

/-- Group a rising list of granules into runs, as start and count. -/
def runsOf : List DWord → List (DWord × Nat)
  | [] => []
  | g :: gs =>
    match runsOf gs with
    | (h, n) :: rest => if g + 65536 = h then (g, n + 1) :: rest else (g, 1) :: (h, n) :: rest
    | [] => [(g, 1)]

/-- The granules of an entry. -/
def SealEntry.list (e : SealEntry) : List DWord := granulesIn e.start (65536 * e.granules)

/-- Put runs of granules of a context into the free entries of the table, the lowest first (18 R417); which entries they take
is the model's choice (notes/assumptions/36.md). -/
def putSeals (t : FMap SealEntry) (ctx : Nat) (rs : List (DWord × Nat)) : FMap SealEntry :=
  rs.foldl (fun (t : FMap SealEntry) r =>
    let n := ((List.range t.length).find? fun i => (FMap.find t i).isNone).getD t.length
    FMap.put t n { ctx := ctx, start := r.1, granules := r.2 }) t

/-- The table after a `seal`: one entry for each run that was not sealed. -/
def sealTable (t : FMap SealEntry) (ctx : Nat) (start : DWord) (len : Nat) : FMap SealEntry :=
  let old := (t.filter fun e => e.2.ctx = ctx).flatMap (·.2.list)
  putSeals t ctx (runsOf ((granulesIn start len).filter fun g => !old.contains g))

/-- The table after an `unseal`: what is left of an entry that it cuts takes entries of its own. -/
def unsealTable (t : FMap SealEntry) (ctx : Nat) (start : DWord) (len : Nat) : FMap SealEntry :=
  let gone := granulesIn start len
  let cut := fun (e : SealEntry) => e.ctx = ctx && e.list.any gone.contains
  (t.filter fun e => cut e.2).foldl (fun (t : FMap SealEntry) e =>
    putSeals t ctx (runsOf (e.2.list.filter fun g => !gone.contains g))) (t.filter fun e => !cut e.2)

/-- Writes of a context in flight to a range: the instruction waits until they are performed, so that each lies in the
image or is refused (R319): those of its threads, and those that the device makes for it. -/
def State.writesTo (s : State) (ctx : Nat) (start : DWord) (len : Nat) : List Nat :=
  let inside := fun (va : DWord) => decide (start.toNat ≤ va.toNat) && decide (va.toNat < start.toNat + len)
  (s.fly.reqs.filter fun r => r.ctx = ctx && r.kind != .load && r.kind != .rdx && r.accs.any fun a => !a.performed && inside a.va).map (·.id) ++
    (s.fly.writes.filter fun w => w.ctx = some ctx && inside w.va).map (·.id)

/-- The replicas of a range's lines, as far as it is mapped, leave every L2 and every L1 (R320). -/
def State.dropReplicas (s : State) (core ctx : Nat) (pages : List DWord) : State :=
  let frames := pages.filterMap fun va => match (s.translate core ctx va .granule).1 with | .ok pa _ => some (pa / 4096) | _ => none
  (List.range 8).foldl (fun (s : State) d =>
    let s := (frames.flatMap pageLines).foldl (fun (s : State) l => s.dropL1 d l) s
    s.updDie d fun x => { x with l2 := x.l2.filter fun l => !frames.contains (l / 64) || (s.entry l).owned }) s

/-- `seal` and `unseal` over a shared body (R318 to R320). -/
def sealOp (i : Instr) (thaw : Bool) (s : State) : Out :=
  gated i s fun c g p ls =>
    let g := g.asIssued p
    let h := s.hdr g
    if ls.isEmpty then .next ((s.issue c g p i 0).advance c)
    else
      let start : DWord := BitVec.ofNat 64 (uniVal h g i.info.a i.view.a ls)
      let len := uniVal h g i.info.b i.view.b ls
      let one := fun code detail info => s.trap c (trapOf c code detail [lowLane ls] info)
      let done := fun (s : State) =>
        Host.Outcome.next ((((s.issue c g p i ls.length).updGroup c.core c.gid
          (·.setFlags (allUV h g i ls))).advance c))
      if start.toNat % 65536 ≠ 0 ∨ len % 65536 ≠ 0 then .next (one cMISALIGN 0 start)
      else if len = 0 then done s
      else
        let ts := (pagesIn start len).map fun va =>
          let r := s.translate c.core g.ctx va .granule
          ({ lane := lowLane ls, va := va, tr := r.1, fill := r.2 } : Located)
        let s := s.fillAll c.core ts
        match ts.find? fun t => match t.tr with | .trap _ _ => true | _ => false, noContextIn ts, busyIn ts, unfinished ts with
        | some t, _, _, _ =>
          match stageTrap c (trapping ts) fun _ => t.va with
          | some x => .next (s.trap c x)
          | none => .next s
        | none, some d, _, _ => .next (s.walkFault g.ctx d.1 c.core c.pc d.2.1 (g.thread d.2.2).tid)
        | none, none, some line, _ => .next (s.stall c (.lines [(line, false)]) none)
        | none, none, none, u :: _ =>
          .next (s.parkWhole c g ls (u.va, Access.granule.kind, false))
        | none, none, none, [] =>
          let table := if thaw then unsealTable s.xl.seals g.ctx start len else sealTable s.xl.seals g.ctx start len
          if 256 < table.length then .next (one cRESOURCE 1 0)
          else
            match (if thaw then [] else s.earlier c (fun _ => true) ++ s.writesTo g.ctx start len) with
            | id :: ids => .next (s.stall c (.requests (id :: ids)) none)
            | [] =>
              let s' := { s with xl := { s.xl with seals := table } }
              done (if thaw then s'.dropReplicas c.core g.ctx (pagesIn start len) else s')

/-- `seal` (R318, R319). -/
noncomputable def execSeal (f : FormE) (s : State) : Out := sealOp (.seal f) false s

/-- `unseal` (R318, R320). -/
noncomputable def execUnseal (f : FormE) (s : State) : Out := sealOp (.unseal f) true s

end Sys2Proof.Machine
end

