-- ==== Sys2Proof/Machine/Tables.lean ====
section
/-! DEFINITION. The privileged table instructions and splinters (18_translation_tables.md R410 to R416, 03 R68). -/

namespace Sys2Proof.Machine

/-! ## `tlbinv` (R412) -/

/-- What a `tlbinv` removes: one context's pages of a range, one context's entries that are not global, or all. -/
inductive Inv where
  | range (ctx first count : Nat)
  | context (ctx : Nat)
  | all
  deriving DecidableEq, Repr

/-- The entry is named. -/
def Inv.names (v : Inv) (t : TlbEntry) : Bool :=
  match v with
  | .range c first n => t.ctx = c && decide (t.vpn < first + n) && decide (first < t.vpn + t.pages)
  | .context c => t.ctx = c && !pteBit t.pte 10
  | .all => true

/-- The TLB serves a core of the scope instance of `core`. -/
def TlbEntry.inScope (t : TlbEntry) (scope core : Nat) : Bool :=
  match scope with
  | 2 => (t.level = 0 && t.unit = core) || (t.level = 1 && t.unit = teamOf core) || (t.level = 2 && t.unit = dieOf core)
  | 3 => (t.level = 0 && teamOf t.unit = teamOf core) || (t.level = 1 && t.unit = teamOf core) ||
    (t.level = 2 && t.unit = dieOf core)
  | 4 => (t.level = 0 && dieOf t.unit = dieOf core) || (t.level = 1 && t.unit / 16 = dieOf core) ||
    (t.level = 2 && t.unit = dieOf core)
  | _ => true

/-- The named entries of the instance's TLBs. -/
def State.namedTlb (s : State) (v : Inv) (scope core : Nat) : List TlbEntry :=
  s.xl.tlb.filter fun t => v.names t && t.inScope scope core

/-- An access of a context lies in the page of an entry. -/
def TlbEntry.covers (t : TlbEntry) (ctx : Nat) (va : DWord) : Bool :=
  t.ctx = ctx && decide (t.vpn ≤ vpnOf va) && decide (vpnOf va < t.vpn + t.pages)

/-- An access of a context at an address may have been translated through one of the removed entries: it lies in the range or the
context, or in a removed large page. -/
def Inv.uses (v : Inv) (gone : List TlbEntry) (ctx : Nat) (va : DWord) : Bool :=
  (match v with
    | .range c first n => ctx = c && decide (first ≤ vpnOf va) && decide (vpnOf va < first + n)
    | .context c => ctx = c
    | .all => true) || gone.any fun t => t.covers ctx va

/-- A copy or a scale fill of a context that a peer or the host has still to answer has its pages pinned (R413). -/
def Inv.usesContext (v : Inv) (gone : List TlbEntry) (ctx : Nat) : Bool :=
  (match v with
    | .range c _ _ | .context c => ctx = c
    | .all => true) || gone.any fun t => t.ctx = ctx

/-- Accesses in flight that may have been translated through one of the removed entries: of requests, of writes that the device
makes for a context, and of copies and scale fills that are out at a peer or the host. -/
def State.usersOf (s : State) (v : Inv) (gone : List TlbEntry) : List Nat :=
  (s.fly.reqs.filter fun r => r.accs.any fun a => !a.performed && v.uses gone r.ctx a.va).map (·.id) ++
    (s.fly.writes.filter fun w => match w.ctx with | some c => v.uses gone c w.va | none => false).map (·.id) ++
    (s.fly.copies.filter fun c => c.sent.isSome && c.outside.isNone && v.usesContext gone c.ctx).map (outsideKey ·.id) ++
    (s.fly.pmmas.filter fun x => x.sent.isSome && v.usesContext gone x.ctx).map (outsideKey ·.id)

/-- Remove the named entries of the instance's TLBs. -/
def State.removeTlb (s : State) (v : Inv) (scope core : Nat) : State :=
  { s with xl := { s.xl with tlb := s.xl.tlb.filter fun t => !(v.names t && t.inScope scope core) } }

/-- The value checks of stages 5 and 6, the privilege check of stage 7 with the checks that share its code, and the release,
which the table instructions share (R68, R411, 09 R202). -/
def tableOp (i : Instr) (s : State) (checks : Cur → Header → Group → List Nat → Option Trap)
    (k : Cur → Group → Split → List Nat → Out) : Out :=
  gated i s fun c g p ls =>
    if ls.isEmpty then .next ((s.issue c g p i 0).advance c)
    else
      match checks c (s.hdr g) g ls, s.isSystem g.ctx with
      | some t, sys => .next (if t.code = cPROTECT ∧ sys = false then s.trapLow c g p cPROTECT 0 0 else s.trap c t)
      | none, false => .next (s.trapLow c g p cPROTECT 0 0)
      | none, true =>
        match s.earlier c (fun _ => true) with
        | id :: ids => .next (s.stall c (.requests (id :: ids)) none)
        | [] => k c g p ls

/-- A trap of the lowest lane. -/
def lowTrap (c : Cur) (ls : List Nat) (code detail : Nat) (info : DWord) : Option Trap :=
  some (trapOf c code detail [lowLane ls] info)

/-- `tlbinv` with the entries that `v` names. -/
def tlbinvOp (i : Instr) (scope : Nat) (checks : Cur → Header → Group → List Nat → Option Trap)
    (v : Header → Group → List Nat → Option Inv) (s : State) : Out :=
  tableOp i s checks fun c g p ls =>
    let uv := allUV (s.hdr g) g i ls
    let s' := (s.issue c g p i ls.length).updGroup c.core c.gid (·.setFlags uv)
    match v (s.hdr g) g ls with
    | none => .next (s'.advance c)
    | some inv =>
      let gone := s'.namedTlb inv scope c.core
      let s' := s'.removeTlb inv scope c.core
      match s'.usersOf inv gone with
      | [] => .next (s'.advance c)
      | ids => .next (s'.stall c (.requests ids) (some c.next))

/-- Value of a uniform operand. -/
def uniA (i : Instr) (h : Header) (g : Group) (ls : List Nat) : Nat := uniVal h g i.info.a i.view.a ls
/-- Value of a uniform operand. -/
def uniB (i : Instr) (h : Header) (g : Group) (ls : List Nat) : Nat := uniVal h g i.info.b i.view.b ls
/-- Value of a uniform operand. -/
def uniC (i : Instr) (h : Header) (g : Group) (ls : List Nat) : Nat := uniVal h g i.info.c i.view.c ls

/-- `tlbinv.range` (R412). -/
noncomputable def execTlbinvRange (f : FormE) (s : State) : Out :=
  let i := Instr.tlbinvRange f
  tlbinvOp i f.escope
    (fun c h g ls =>
      let va : DWord := BitVec.ofNat 64 (uniA i h g ls)
      if 63 < uniC i h g ls ∨ 2 ^ 20 < uniB i h g ls then lowTrap c ls cILLEGAL 3 0
      else if !canonical va then lowTrap c ls cPROTECT 1 va
      else none)
    (fun h g ls =>
      let n := uniB i h g ls
      if n = 0 then none else some (.range (uniC i h g ls) (vpnOf (BitVec.ofNat 64 (uniA i h g ls))) n)) s

/-- `tlbinv.ctx` (R412). -/
noncomputable def execTlbinvCtx (f : FormE) (s : State) : Out :=
  let i := Instr.tlbinvCtx f
  tlbinvOp i f.escope
    (fun c h g ls => if 63 < uniC i h g ls then lowTrap c ls cILLEGAL 3 0 else none)
    (fun h g ls => some (.context (uniC i h g ls))) s

/-- `tlbinv.all` (R412). -/
noncomputable def execTlbinvAll (f : FormE) (s : State) : Out :=
  tlbinvOp (.tlbinvAll f) f.escope (fun _ _ _ _ => none) (fun _ _ _ => some .all) s

/-! ## `biasset` (R415) and `migack` (R416) -/

/-- The lines of a page. -/
def flipLines (page : Nat) : List Nat := (List.range 64).map (64 * page + ·)

/-- `biasset`: it requests a flip of every page whose bias differs, and waits for them. With b = 0 it has no effect, and d
keeps its value. -/
def biassetOp (i : Instr) (toHost : Bool) (s : State) : Out :=
  tableOp i s
    (fun c h g ls =>
      let a := uniA i h g ls
      let n := uniB i h g ls
      if 65536 < n then lowTrap c ls cILLEGAL 3 0
      else if a % 4096 ≠ 0 then lowTrap c ls cMISALIGN 0 (BitVec.ofNat 64 a)
      else if n ≠ 0 ∧ 2 ^ 40 < a + 4096 * n then lowTrap c ls cPROTECT 6 (BitVec.ofNat 64 a)
      else none)
    fun c g p ls =>
      let h := s.hdr g
      let pages := ((List.range (uniB i h g ls)).map (uniA i h g ls / 4096 + ·)).filter fun q => s.biasBit q != toHost
      let uv := allUV h g i ls
      let s' := (s.issue c g p i ls.length).updGroup c.core c.gid (·.setFlags uv)
      if uniB i h g ls = 0 then .next (s'.advance c)
      else if pages.isEmpty then .next ((s'.updGroup c.core c.gid (·.writeAll h i ls 0)).advance c)
      else
        let dst := ls.flatMap fun l => (fieldRegs h g.rrb (g.thread l) i.info.d i.view.d).map fun r => (l, r)
        let flips : List Flip := pages.map fun q => { page := q, toHost := toHost, waitingLines := if toHost then [] else flipLines q }
        let s' := { s' with coh := { s'.coh with flips := s'.coh.flips ++ flips } }
        .next (s'.stall c (.flips toHost pages pages.length dst) (some c.next))

/-- `biasset.host` (R415). -/
noncomputable def execBiassetHost (f : FormE) (s : State) : Out := biassetOp (.biassetHost f) true s

/-- `biasset.dev` (R415). -/
noncomputable def execBiassetDev (f : FormE) (s : State) : Out := biassetOp (.biassetDev f) false s

/-- `migack` (R416): MIGTAIL goes forward, and d gets its new value. Room in the ring lets no record in by itself (15
R356). -/
noncomputable def execMigack (f : Form1) (s : State) : Out :=
  let i := Instr.migack f
  tableOp i s (fun c h g ls => if 7 < uniA i h g ls then lowTrap c ls cILLEGAL 3 0 else none) fun c g p ls =>
    let h := s.hdr g
    let die := uniA i h g ls
    let d := s.die die
    let tail := d.migTail + BitVec.ofNat 32 (Nat.min (uniB i h g ls) (d.migHead - d.migTail).toNat)
    let s' := (s.issue c g p i ls.length).updDie die fun d => { d with migTail := tail }
    .next ((s'.updGroup c.core c.gid fun g' => (g'.writeAll h i ls tail.toNat).setFlags (allUV h g i ls)).advance c)

/-! ## Splinters (R410) -/

/-- Entry `i` of the table that replaces a leaf of level 2 or 3. -/
def splinterEntry (e : DWord) (level i : Nat) : DWord :=
  let frame := pteFrame e + i * leafSize (level - 1)
  let keep := e &&& ~~~(0x001FFFFFFFFFF800#64)
  keep ||| BitVec.ofNat 64 frame ||| (if level = 3 then (1#64) <<< 52 else (1#64) <<< 11)

/-- The result bits of SPLSTAT. -/
def State.splResult (s : State) (r : Nat) : State := { s with xl := { s.xl with splStat := BitVec.ofNat 32 r } }

/-- Write the table that replaces a leaf, and swap the parent entry (R410): the bytes of both at their homes. -/
def State.swapLeaf (s : State) (frame at_ : Nat) (e : DWord) (level : Nat) : Written :=
  let table := (List.range 512).flatMap fun i => toBytes 8 (splinterEntry e level i).toNat
  match s.homeWrite 0xFF 0xFFFF frame table false with
  | .done s => s.homeWrite 0xFF 0xFFFF at_ (toBytes 8 (frame / 4096 * 4096 % 2 ^ 52 + 1)) false
  | w => w

/-- A splinter whose parent entry has been swapped: the old translation goes, and it ends once the accesses through that are
performed. -/
def State.splinterWaits (s : State) (ctx level : Nat) : State :=
  let n := leafSize level / 4096
  let inv := Inv.range ctx (vpnOf s.xl.splReq / n * n) n
  let gone := s.namedTlb inv 5 0
  let s := s.removeTlb inv 5 0
  match s.usersOf inv gone with
  | [] => s.splResult 0
  | ids => { s with xl := { s.xl with splStat := 0x80000000, splOpen := false, splWait := ids } }

/-- The splinter of SPLREQ (R410), as far as it comes: it is busy while the table or the parent entry cannot be written, and
until the accesses through the old translation are performed. An address that is not canonical is mapped by no leaf. -/
def State.splinter (s : State) : State :=
  let ctx := s.xl.splUse.1
  let none2 := { s with xl := { s.xl with splOpen := false } }.splResult 2
  if s.xl.ctxBase = 0 ∨ (s.context ctx).2 % 2 = 0 ∨ canonical s.xl.splReq = false then none2
  else
    match s.leaf ctx s.xl.splReq with
    | .found e at_ level =>
      if level = 1 then none2
      else if s.xl.splCnt = 0 then { s with xl := { s.xl with splOpen := false } }.splResult 1
      else
        let cnt := s.xl.splCnt - 1
        let frame := s.readN (s.xl.splUse.2.toNat + 8 * cnt.toNat) 8
        let taken := { s with xl := { s.xl with splCnt := cnt, splPages := frame / 4096 :: s.xl.splPages.erase (frame / 4096), splOpen := false } }
        let busy := { s with xl := { s.xl with splStat := 0x80000000, splOpen := true } }
        match taken.swapLeaf frame at_ e level with
        | .done s => (s.frameDone .table).splinterWaits ctx level
        | .frame => busy.noteFrame { who := .table, page := at_ / 4096 }
        | .wait => busy
    | .busy _ => { s with xl := { s.xl with splStat := 0x80000000, splOpen := true } }
    | .poisoned line => none2.detect line
    | .absent | .malformed => none2

/-- SPLREQ_WRITE (R410): ignored while a splinter runs. The context and the pool are those of the request. -/
noncomputable def execSplreqWrite (master : Nat) (value : BitVec 64) (s : State) : Out :=
  ownerWrite s master 0x638 fun s =>
    if s.xl.splStat.getLsbD 31 then s else { s with xl := { s.xl with splReq := value, splUse := (s.xl.splCtx.toNat % 64, s.xl.splBase) } }.splinter

/-- A splinter goes on when its tables can be written, and ends once the accesses through the old translation have been
performed. -/
def State.settleSplinter (s : State) : State :=
  if !s.xl.splStat.getLsbD 31 then s
  else if s.xl.splOpen then s.splinter
  else if s.allPerformed s.xl.splWait then
    { s with xl := { s.xl with splStat := 0, splWait := [] } }
  else s

/-- Lines of the tables that a splinter in progress is to write. -/
def State.splinterLines (s : State) : List Nat :=
  if s.xl.splStat.getLsbD 31 && s.xl.splOpen then
    match s.leaf s.xl.splUse.1 s.xl.splReq with
    | .found _ at_ _ => at_ / 64 :: pageLines (s.readN (s.xl.splUse.2.toNat + 8 * (s.xl.splCnt.toNat - 1)) 8 / 4096)
    | .busy line => [line]
    | .absent | .malformed | .poisoned _ => []
  else []

end Sys2Proof.Machine
end

