-- ==== Sys2Proof/Machine/Coherence.lean ====
section
/-! DEFINITION. The home directory's flows, boundaries and quarantine, access counters (15_coherence_and_host.md R340 to
R347, R355, R356; 10 R243). -/

namespace Sys2Proof.Machine

/-- L1_SIGNATURE_INVALIDATION (10 R243): a slice's invalidation reaches a core, which drops the bucket's lines and
acknowledges. -/
noncomputable def execL1SignatureInvalidation (core : Nat) (bucket : SigBucket) (s : State) : Out :=
  if ((s.core core).sig bucket.slice).getLsbD bucket.bucket && s.dieUp (dieOf core) then
    .next (s.dropBucketOf core bucket.slice bucket.bucket)
  else .next s

/-! ## Directory flows (Table 15.2) -/

/-- Dies that hold a copy of a line. -/
def DirEntry.holders (e : DirEntry) : List Nat := dies8.filter e.holds

/-- Some access of a core of the die waits for the line. -/
def State.wants (s : State) (die line : Nat) (writes : Bool) : Bool :=
  s.fly.reqs.any fun r => dieOf r.core = die && (if writes then r.kind == .store else r.kind == .load) &&
    r.accs.any fun a => !a.performed && a.pa / 64 = line && a.cp ≠ 2

/-- The line lies in a sealed range for some access of the die that waits for it. -/
def State.wantsSealed (s : State) (die line : Nat) : Bool :=
  s.fly.reqs.any fun r => dieOf r.core = die && r.accs.any fun a => !a.performed && a.pa / 64 = line && s.sealed r.ctx a.va

/-- A request of a die for a line can be taken by its home now: the line is served and in no transient state, no operation of
the home goes first, and the two dies reach each other. -/
def State.homeOpen (s : State) (die line : Nat) : Bool :=
  let home := homeDie (line * 64)
  s.isDevice (line * 64) && s.served line false && !s.transient line && !s.coh.claimed.contains line && decide (die < 8) &&
    s.dieUp die && s.dieUp home && s.reach die home

/-- The part that is kept: the largest, or of equal ones the one with the lowest-numbered die (R345). -/
def keptPart (down : List (Nat × Nat)) : List Nat :=
  dies8.foldl (fun best d => if best.length < (partOf down d).length then partOf down d else best) []

/-- QUARANTINE_DECISION (R345): the dies outside the kept part are marked. -/
def State.judgeParts (s : State) : State :=
  let kept := keptPart s.coh.down
  let out := dies8.filter fun d => !kept.contains d && !s.coh.marked.contains d && !s.coh.quar.getLsbD d
  { s with coh := { s.coh with marked := s.coh.marked ++ out } }

/-- READ_SHARED (R341): the former owner keeps a clean copy, and memory is current; a sealed line is not tracked (10 R245). A die
whose L2 has dropped its copy asks again, whatever SHARERS holds. The home's own recall of a line is no request of its die. An owner
that no route reaches is reported (R345), and one that has fenced itself does not answer. -/
noncomputable def execReadShared (die line : Nat) (s : State) : Out :=
  let e := s.entry line
  let h := homeDie (line * 64)
  let home := h = die
  if s.homeOpen die line &&
      (if home then e.owned else s.wants die line false && !s.hasCopy die line (s.wantsSealed die line) && s.l2Room die line) then
    if e.owned && !s.reach h e.owner then .next s.judgeParts
    else if e.owned && !s.dieUp e.owner then .next s
    else
      let s := s.exchange (homeUnits line ++ (if e.owned then [sliceUnit e.owner line] else []) ++ [sliceUnit die line])
      let s := if e.owned then s else s.detect line
      if home then .next (s.setEntry line e.recalled)
      else
        let s := if s.wantsSealed die line then s.setEntry line e.recalled else s.shareLine die line
        .next ((s.countAccess die line).l2Fill die line)
  else .next s

/-- The home sends an invalidation of the line to each die of a list (R342), for a die that is to own the line or for an
operation of its own. -/
def State.sendInvals (s : State) (line : Nat) (ds : List Nat) (forDie : Option Nat) : State :=
  let new : List Inval := ds.map fun d => { line := line, die := d, route := 0, received := false, sent := s.now, forDie := forDie }
  { s with coh := { s.coh with invals := s.coh.invals ++ new } }

/-- A die owns the line (R341). Its data is of the present generation, in which the die obtains it (16 R361); no write is made yet. -/
def State.grant (s : State) (die line : Nat) : State :=
  let us := sliceUnit die line :: homeUnits line
  let e := s.entry line
  ((s.exchange us).setEntry line { e with st := .m, owner := die, sharers := 0, lg := s.gen.genAt us, written := false }).l2Fill die
    line

/-- Exclusive ownership: other copies are invalidated first, those in the L1s of the home's own die among them (R342), and the last
acknowledgement gives the line to the die. -/
def State.ownLine (s : State) (die line : Nat) : State :=
  let s := (s.countAccess die line).dropL1 (homeDie (line * 64)) line
  match (s.entry line).holders.filter (· ≠ die) with
  | [] => s.grant die line
  | ds => s.sendInvals line ds (some die)

/-- READ_OWN (R341). -/
noncomputable def execReadOwn (die line : Nat) (s : State) : Out :=
  if s.homeOpen die line && s.served line true && s.wants die line true && homeDie (line * 64) ≠ die && !s.hasCopy die line false &&
      s.l2Room die line then
    .next (s.ownLine die line)
  else .next s

/-- UPGRADE (R341): the die holds a clean copy. -/
noncomputable def execUpgrade (die line : Nat) (s : State) : Out :=
  let e := s.entry line
  if s.homeOpen die line && s.served line true && s.wants die line true && homeDie (line * 64) ≠ die && s.hasCopy die line false &&
      (e.st == .s || e.st == .o) then
    .next (s.ownLine die line)
  else .next s

/-- A die can give up a line that it owns: it and its home reach each other, and the line is in no transient state. -/
def State.mayEvict (s : State) (die line : Nat) : Bool :=
  (s.entry line).owned && (s.entry line).owner == die && s.dieUp die && s.evictable die line

/-- WRITE_BACK (R341): the data of an M, an O or a written E copy is in memory. -/
noncomputable def execWriteBack (die line : Nat) (s : State) : Out :=
  let e := s.entry line
  if s.mayEvict die line && (e.st != .e || e.written) then .next (s.l2Evict die line) else .next s

/-- CLEAN_EVICT (R341): an E copy that its owner has not written. -/
noncomputable def execCleanEvict (die line : Nat) (s : State) : Out :=
  let e := s.entry line
  if s.mayEvict die line && e.st == .e && !e.written then .next (s.l2Evict die line) else .next s

/-- REMOTE_WRITE_AT_HOME (R341): every remote copy is recalled or invalidated for an operation at the home slice, which goes
before later requests for the line. -/
noncomputable def execRemoteWriteAtHome (line : Nat) (s : State) : Out :=
  let e := s.entry line
  if e.holders.isEmpty || s.transient line || !s.dieUp (homeDie (line * 64)) then .next s
  else
    let s := s.sendInvals line e.holders none
    .next { s with coh := { s.coh with claimed := s.coh.claimed ++ [line] } }

/-! ## Routes (R344) -/

/-- Boundaries crossed along a row of the 2 by 4 grid (01 R10). -/
def alongRow (row c1 c2 : Nat) : List (Nat × Nat) :=
  (List.range 3).filterMap fun c =>
    if (decide (c1 ≤ c) && decide (c < c2)) || (decide (c2 ≤ c) && decide (c < c1)) then some (4 * row + c, 4 * row + c + 1) else none

/-- The boundary between the rows at a column. -/
def acrossAt (c : Nat) : Nat × Nat := (c, c + 4)

/-- Boundaries of the first or the second route from `h` to `t`. -/
def routeOf (route h t : Nat) : List (Nat × Nat) :=
  let rh := h / 4
  let rt := t / 4
  if route = 0 then alongRow rh (h % 4) (t % 4) ++ (if rh = rt then [] else [acrossAt (t % 4)])
  else if rh = rt then acrossAt (h % 4) :: alongRow (1 - rh) (h % 4) (t % 4) ++ [acrossAt (t % 4)]
  else acrossAt (h % 4) :: alongRow rt (h % 4) (t % 4)

/-- A message can travel from the home to a die on a route; route 2 is any route over boundaries still up. -/
def State.canTravel (s : State) (route h t : Nat) : Bool :=
  if route = 2 then (partOf s.coh.down h).contains t else (routeOf route h t).all fun b => !s.coh.down.contains b

/-- Update the invalidation of a line at a die. -/
def State.updInval (s : State) (line die : Nat) (f : Inval → Inval) : State :=
  { s with coh := { s.coh with invals := s.coh.invals.map fun v => if v.line = line ∧ v.die = die then f v else v } }

/-- INVALIDATION (R342): the die's L2 drops the line and its cores the bucket, and then it acknowledges. A die that has fenced
itself does not. -/
noncomputable def execInvalidation (line die : Nat) (s : State) : Out :=
  match s.coh.invals.find? fun v => v.line = line && v.die = die with
  | none => .next s
  | some v =>
    if !s.canTravel v.route (homeDie (line * 64)) die || !s.dieUp die then .next s
    else
      let s := (s.dropL1 die line).updDie die fun d => { d with l2 := d.l2.filter (· ≠ line) }
      .next ((s.exchange (sliceUnit die line :: homeUnits line)).updInval line die fun v => { v with received := true })

/-- A die's copy is gone from an entry. -/
def DirEntry.without (e : DirEntry) (d : Nat) : DirEntry :=
  let sharers := e.sharers &&& ~~~((1#8) <<< d)
  if e.owned && e.owner ≠ d then { e with sharers := sharers }
  else { e with st := if sharers = 0 then .i else .s, owner := 0, sharers := sharers }

/-- An invalidation of a line has ended: with the last one, the die for which they were sent owns the line. One whose L2 has no room
for it asks again. -/
def State.invalEnded (s : State) (v : Inval) : State :=
  match v.forDie with
  | some d => if !s.transient v.line && s.dieUp d && s.l2Room d v.line then s.grant d v.line else s
  | none => s

/-- INVALIDATION_ACK (R342, R343): a duplicate is ignored. -/
noncomputable def execInvalidationAck (line die : Nat) (s : State) : Out :=
  match s.coh.invals.find? fun v => v.line = line && v.die = die with
  | none => .next s
  | some v =>
    if !v.received then .next s
    else
      let s := { s with coh := { s.coh with invals := s.coh.invals.filter fun w => !(w.line = line && w.die = die) } }
      .next ((s.setEntry line ((s.entry line).without die)).invalEnded v)

/-! ## Boundary failure and quarantine (R344 to R347) -/

/-- ACK_TIMEOUT_RESEND (R344): on the next route, when the present one crosses a boundary that is down or no acknowledgement has
come for 8,192 cycles; a target that no route reaches is reported. -/
noncomputable def execAckTimeoutResend (line die : Nat) (s : State) : Out :=
  match s.coh.invals.find? fun v => v.line = line && v.die = die with
  | none => .next s
  | some v =>
    let h := homeDie (line * 64)
    if (v.received || s.canTravel v.route h die) && decide (s.now < v.sent + 8192) then .next s
    else
      let s := s.updInval line die fun v => { v with route := Nat.min 2 (v.route + 1), sent := s.now }
      .next (if s.reach h die then s else s.judgeParts)

/-- A part of the grid adjoins an L-die (01 R10): L-die 0 adjoins column 0 and L-die 1 column 3. -/
def adjoinsLDie (part : List Nat) : Bool := [0, 3, 4, 7].any part.contains

/-- From now on the dies that reach neither L-die have no handshake with a management processor (R345). -/
def State.loseContact (s : State) : State :=
  (dies8.filter fun d => !adjoinsLDie (partOf s.coh.down d)).foldl (fun (s : State) d =>
    s.updDie d fun x => { x with lost := some (x.lost.getD s.clk.time) }) s

/-- BOUNDARY_DOWN (R344, R345): a boundary of the grid. -/
noncomputable def execBoundaryDown (a b : Nat) (s : State) : Out :=
  if a < 8 ∧ b < 8 ∧ (neighbours a).contains b = true ∧ s.coh.down.contains (boundary a b) = false then
    .next { s with coh := { s.coh with down := boundary a b :: s.coh.down } }.loseContact.judgeParts
  else .next s

/-- DIE_SELF_FENCE (R345): the order that the processor delivers to a die that it has marked, or 2 µs without a handshake. The
die drops every L2 line homed on another die. -/
noncomputable def execDieSelfFence (die : Nat) (s : State) : Out :=
  let due := match (s.die die).lost with
    | some t => decide (t + 2000 ≤ s.clk.time)
    | none => s.coh.marked.contains die
  if decide (die < 8) && due then
    .next (s.updDie die fun d => { d with fenced := true, l2 := d.l2.filter fun l => homeDie (l * 64) = die })
  else .next s

/-- Contexts with work on a die, each with a core: resident and saved groups, requests, copies and operations of its cores that are in
flight, units that wait in its distributor, and node records in its teams' queues. -/
def State.contextsOn (s : State) (die : Nat) : List (Nat × Nat) :=
  let mine := s.cores.filter fun c => dieOf c.1 = die
  let ctx := fun l => (s.launch l).map fun x => (x.lr.ctx, 256 * die)
  (mine.flatMap fun c => c.2.groups.map (fun g => (g.2.ctx, c.1)) ++ c.2.saved.map (fun g => (g.group.ctx, c.1))) ++
    ((s.fly.reqs.filter fun r => dieOf r.core = die && !r.done).map fun r => (r.ctx, r.core)) ++
    ((s.fly.copies.filter fun c => dieOf c.core = die).map fun c => (c.ctx, c.core)) ++
    ((s.fly.pmmas.filter fun x => dieOf x.core = die).map fun x => (x.ctx, x.core)) ++
    (s.q.waiting.filter (·.die = die)).filterMap (fun u => ctx u.launch) ++
    (s.q.restores.filter fun r => dieOf r.core = die).filterMap (fun r => ctx r.launch) ++
    (s.q.fifos.filter fun f => f.team / 16 = die && !f.recs.isEmpty).filterMap (fun f => ctx f.launch)

/-- Every context with work on a quarantined die takes a context fault (R346). -/
def State.faultWork (s : State) (die : Nat) : State :=
  (s.contextsOn die).foldl (fun (s : State) c => s.contextFault c.1 0 0 c.2 0 0) s

/-- So does one whose work comes to the die after the record. -/
def State.settleQuarantine (s : State) : State :=
  (dies8.filter fun d => s.coh.quar.getLsbD d).foldl State.faultWork s

/-- An entry after the quarantine of a die (R347). -/
def DirEntry.quarantined (e : DirEntry) (x : Nat) : DirEntry :=
  if e.owned && e.owner = x then { e with st := .i, owner := 0, sharers := 0, poison := true } else e.without x

/-- The directory after the quarantine of a die: entries with its copies change, one in I without poison goes. -/
def quarantineDir (d : FMap DirEntry) (x : Nat) : FMap DirEntry :=
  d.filterMap fun e =>
    let y := if e.2.holds x then e.2.quarantined x else e.2
    if y.st = .i ∧ !y.poison then none else some (e.1, y)

/-- QUARANTINE_RECORD (R346, R347): the die has confirmed that it has fenced itself, or 5 µs have passed since the last contact
with it. -/
noncomputable def execQuarantineRecord (die : Nat) (s : State) : Out :=
  let due := match (s.die die).lost with
    | some t => decide (t + 5000 ≤ s.clk.time)
    | none => (s.die die).fenced
  if !s.coh.marked.contains die || !due then .next s
  else
    let s := s.faultWork die
    let s := s.updDie die fun d => { d with fenced := true }
    let ended := s.coh.invals.filter fun v => v.die = die
    let s := { s with coh := { s.coh with
      quar := s.coh.quar ||| (1#32) <<< die, quarCnt := satInc s.coh.quarCnt,
      marked := s.coh.marked.filter (· ≠ die),
      dir := quarantineDir s.coh.dir die,
      invals := s.coh.invals.filter (fun v => v.die ≠ die) } }
    .next ((ended.foldl State.invalEnded s).post 0x0D 0 0 0xFF die 0 0)

/-! ## Access counters (R355, R356) -/

/-- ACCESS_COUNTER_HALVING (R355): every MIGEPOCH microseconds; a pair at or below LO is armed again. -/
noncomputable def execAccessCounterHalving (die : Nat) (s : State) : Out :=
  let d := s.die die
  if 8 ≤ die || d.migEpoch = 0 || decide (s.clk.time < d.epochAt + 1000 * d.migEpoch.toNat) then .next s
  else
    let half := d.access.filterMap fun e => if e.2 / 2 = 0 then none else some (e.1, e.2 / 2)
    let lo := d.migThr.toNat / 256 % 256
    .next (s.updDie die fun d => { d with
      access := half, epochAt := s.clk.time,
      disarmed := d.disarmed.filter (fun e => decide (lo < FMap.get 0 half e.1)) })

end Sys2Proof.Machine
end

