-- ==== Sys2Proof/Machine/PanArith.lean ====
section
/-! DEFINITION. Charge arithmetic in the pan (11_charge_arithmetic.md): the unfolding descriptor and its limits, weights,
activations, counts, the post-unit and the mirror copy. -/

namespace Sys2Proof.Machine

/-! ## FMT (06 R140, R141) -/

/-- WF. -/
def wfOf (fmt : Word) : Nat := fmt.toNat % 16
/-- AF. -/
def afOf (fmt : Word) : Nat := fmt.toNat / 16 % 16
/-- SG. -/
def sgOf (fmt : Word) : Nat := fmt.toNat / 2 ^ 8 % 4
/-- Segment S. -/
def segOf (fmt : Word) : Nat := 32 * 2 ^ (fmt.toNat / 2 ^ 10 % 4)
/-- Repeat count n. -/
def repOf (fmt : Word) : Nat := 2 ^ (fmt.toNat / 2 ^ 12 % 4)
/-- MIR. -/
def mirOf (fmt : Word) : Bool := fmt.getLsbD 14

/-- A format that needs scale entries. -/
def asymmetric (f : Nat) : Bool := f = 1 || f = 3

/-- Any condition of Table 6.9. -/
def fmtBad (fmt : Word) : Bool :=
  fmt.toNat / 2 ^ 18 ≠ 0 || fmt.getLsbD 15 || decide (6 ≤ wfOf fmt) || decide (5 ≤ afOf fmt) ||
    ((asymmetric (wfOf fmt) || asymmetric (afOf fmt)) && sgOf fmt = 3) ||
    ((wfOf fmt = 4 || wfOf fmt = 5 || afOf fmt = 4) && sgOf fmt != 0) ||
    (sgOf fmt != 3 && decide (32 * 2 ^ sgOf fmt < segOf fmt))

/-- A scale table is read (12 R278). -/
def readsTable (fmt : Word) : Bool := sgOf fmt != 3 || decide (4 ≤ wfOf fmt)

/-- Columns per element (Table 11.1). -/
def columnsPer (wf : Nat) : Nat := if wf = 2 ∨ wf = 3 then 4 else 8
/-- Planes used (Table 11.1). -/
def weightPlanes (wf : Nat) : Nat := if wf = 5 then 5 else columnsPer wf
/-- The top weight plane is negative (Table 11.1). -/
def weightSigned (wf : Nat) : Bool := wf = 0 || wf = 2 || wf = 4 || wf = 5
/-- Activation planes (R248). -/
def actPlanes (af : Nat) : Nat := if af = 2 ∨ af = 3 then 4 else 8
/-- The top activation plane is negative (R248). -/
def actSigned (af : Nat) : Bool := af = 0 || af = 2 || af = 4

/-- Value of plane `j` of `n`. -/
def planeValue (signed : Bool) (n j : Nat) : Int := if signed && j + 1 = n then -2 ^ j else 2 ^ j

/-! ## The unfolding descriptor (12 Table 12.4) -/

/-- Its fields. -/
structure Unfold where
  base : Nat
  n : Nat
  h : Nat
  w : Nat
  c : Nat
  kh : Nat
  kw : Nat
  sh : Nat
  sw : Nat
  dh : Nat
  dw : Nat
  pt : Nat
  pl : Nat
  oh : Nat
  ow : Nat
  m0 : Nat
  k : Nat
  za : Nat
  e0 : Nat
  ecol : Nat
  kbase : Nat
  scaddr : DWord
  scncol : Nat
  scid : Nat
  xaoff : Nat
  xstride : Nat
  /-- reserved bytes are zero -/
  clean : Bool
  deriving DecidableEq, Repr

/-- Read a descriptor. -/
def unfoldOf (bs : List Byte) : Unfold :=
  let f := fieldAt bs
  { base := f 0 4, n := f 4 2, h := f 6 2, w := f 8 2, c := f 10 2, kh := f 12 1, kw := f 13 1, sh := f 14 1, sw := f 15 1,
    dh := f 16 1, dw := f 17 1, pt := f 18 1, pl := f 19 1, oh := f 0x14 2, ow := f 0x16 2, m0 := f 0x18 4, k := f 0x1C 2,
    za := f 0x1E 1, e0 := f 0x20 2, ecol := f 0x22 2, kbase := f 0x24 4, scaddr := BitVec.ofNat 64 (f 0x28 8),
    scncol := f 0x30 2, scid := f 0x32 1, xaoff := f 0x34 4, xstride := f 0x38 2,
    clean := f 0x1F 1 == 0 && f 0x33 1 == 0 && f 0x3A 6 == 0 }

/-- Multiple that KBASE must be: the scale group, or 32 for MX formats. -/
def kbaseUnit (fmt : Word) : Nat :=
  if 4 ≤ wfOf fmt ∨ afOf fmt = 4 then 32 else if sgOf fmt = 3 then 1 else 32 * 2 ^ sgOf fmt

/-- First and last column of the window. -/
def Unfold.columns (d : Unfold) (fmt : Word) (n : Nat) : Nat × Nat :=
  (d.e0 * columnsPer (wfOf fmt), (d.e0 + n) * columnsPer (wfOf fmt) - 1)

/-- Every limit of Table 12.4, of R263 and of the DETAIL 2 conditions of R279, for `n` elements and `np` pans. -/
def Unfold.legal (d : Unfold) (fmt : Word) (n np : Nat) : Bool :=
  let g := 32 * 2 ^ sgOf fmt
  let lo := (d.columns fmt n).1
  let hi := (d.columns fmt n).2
  d.clean && d.base % 4 = 0 && [d.n, d.h, d.w, d.c, d.kh, d.kw, d.sh, d.sw, d.dh, d.dw, d.oh, d.ow].all (1 ≤ ·) &&
    decide (1 ≤ d.k) && decide (d.k ≤ 2048) &&
    (if afOf fmt = 1 then true else if afOf fmt = 3 then decide (d.za < 16) else d.za == 0) &&
    d.kbase % kbaseUnit fmt = 0 && (afOf fmt = 4 || (d.xaoff == 0 && d.xstride == 0)) && d.k % segOf fmt = 0 &&
    (sgOf fmt = 3 || d.k % g = 0) && decide (d.k ≤ 256 * np) && decide (d.e0 + n ≤ 512 / columnsPer (wfOf fmt)) &&
    decide (d.kbase + d.k ≤ d.kh * d.kw * d.c) && !(decide (hi - lo < 256) && decide (lo < 256) && decide (256 ≤ hi)) &&
    (!readsTable fmt || (decide (1 ≤ d.scncol) && decide (d.ecol + n ≤ d.scncol)))

/-- Column halves of the window: bit 0 low, bit 1 high (12 R283). -/
def Unfold.halvesOf (d : Unfold) (fmt : Word) (n : Nat) : Nat :=
  if (d.columns fmt n).2 < 256 then 1 else if 256 ≤ (d.columns fmt n).1 then 2 else 3

/-- The element index that row `m` reads for reduction index `kr`; none for padding and rows past the tensor (R249). -/
def Unfold.element (d : Unfold) (m kr : Nat) : Option Nat :=
  let p := d.m0 + m
  let n := p / (d.oh * d.ow)
  let oh := p / d.ow % d.oh
  let ow := p % d.ow
  let c := kr % d.c
  let kw := kr / d.c % d.kw
  let kh := kr / (d.c * d.kw)
  let h : Int := (oh * d.sh : Nat) - (d.pt : Int) + (kh * d.dh : Nat)
  let x : Int := (ow * d.sw : Nat) - (d.pl : Int) + (kw * d.dw : Nat)
  if n ≥ d.n ∨ h < 0 ∨ (d.h : Int) ≤ h ∨ x < 0 ∨ (d.w : Int) ≤ x then none
  else some (((n * d.h + h.toNat) * d.w + x.toNat) * d.c + c)

/-- Scratch offset of an element's byte. -/
def Unfold.byteOf (d : Unfold) (af i : Nat) : Nat := d.base + (if actPlanes af = 4 then i / 2 else i)

/-- Scratch offset of Xa for a row and a row of the window. -/
def Unfold.xaByte (d : Unfold) (m k : Nat) : Nat := d.xaoff + (d.m0 + m) * d.xstride + (d.kbase + k) / 32

/-- Scratch offsets that the rows read: activations, and the Xa bytes for AF 4. -/
def Unfold.reads (d : Unfold) (fmt : Word) (rows : List Nat) : List Nat :=
  rows.flatMap fun m => (List.range d.k).flatMap fun k =>
    (match d.element m (d.kbase + k) with
      | some i => [d.byteOf (afOf fmt) i]
      | none => []) ++ (if afOf fmt = 4 then [d.xaByte m k] else [])

/-! ## Arithmetic (R246 to R261) -/

/-- What a row of a `pmma` is computed from: scratch bytes, the pans' bytes (pan of the set, byte), scale entries
(group, column). -/
structure PanData where
  scratch : Nat → Byte
  pan : Nat → Nat → Byte
  entry : Nat → Nat → Nat

/-- Weight bit in column `col` of row `k` of the set (R246). -/
def PanData.weightBit (x : PanData) (k col : Nat) : Bool :=
  (x.pan (k / 256) (k % 256 * 64 + col / 8)).getLsbD (col % 8)

/-- Weight code of element `e` in row `k`, through its plane values. -/
def PanData.weight (x : PanData) (wf k e : Nat) : Int :=
  (List.range (weightPlanes wf)).foldl (fun s j =>
    if x.weightBit k (e * columnsPer wf + j) then s + planeValue (weightSigned wf) (weightPlanes wf) j else s) 0

/-- za as a code (R249). -/
def Unfold.zaOf (d : Unfold) (af : Nat) : Nat := if asymmetric af then d.za else 0

/-- Activation code of row `m` for row `k` of the window, as its bits (R249). -/
def actCode (x : PanData) (d : Unfold) (af m k : Nat) : Nat :=
  match d.element m (d.kbase + k) with
  | none => d.zaOf af
  | some i =>
    let b := (x.scratch (d.byteOf af i)).toNat
    if actPlanes af = 4 then (if i % 2 = 0 then b % 16 else b / 16) else b

/-- The reconstructed count k' of a count k (R252, R253). -/
def recount (s n k : Nat) : Nat := (2 * n * 128 * k + s) / (2 * s) * s / (n * 128)

/-- Rows of a segment that satisfy a test, counted and converted. -/
def convertSeg (s n first : Nat) (p : Nat → Bool) : Nat :=
  recount s n ((List.range s).filter fun r => p (first + r)).length

/-- Blocks of the window: first row and length (R257). -/
def blocksOf (fmt : Word) (k : Nat) : List (Nat × Nat) :=
  let g := if sgOf fmt = 3 then 256 else 32 * 2 ^ sgOf fmt
  (List.range ((k + g - 1) / g)).map fun b => (b * g, Nat.min g (k - b * g))

/-- Asum of a block: the always-one column (R257). -/
def asumOf (fmt : Word) (codes : Nat → Nat) (b : Nat × Nat) : Int :=
  let ba := actPlanes (afOf fmt)
  (List.range ba).foldl (fun t i => (List.range (b.2 / segOf fmt)).foldl (fun t g =>
    t + planeValue (actSigned (afOf fmt)) ba i *
      (convertSeg (segOf fmt) (repOf fmt) (b.1 + g * segOf fmt) fun r => (codes r).testBit i : Nat)) t) 0

/-- Dsum of a block for element `e` (R257). -/
def dsumOf (x : PanData) (fmt : Word) (codes : Nat → Nat) (e : Nat) (b : Nat × Nat) : Int :=
  let ba := actPlanes (afOf fmt)
  let wf := wfOf fmt
  (List.range ba).foldl (fun t i => (List.range (weightPlanes wf)).foldl (fun t j =>
    (List.range (b.2 / segOf fmt)).foldl (fun t g =>
      t + planeValue (actSigned (afOf fmt)) ba i * planeValue (weightSigned wf) (weightPlanes wf) j *
        (convertSeg (segOf fmt) (repOf fmt) (b.1 + g * segOf fmt) fun r =>
          (codes r).testBit i && x.weightBit r (e * columnsPer wf + j) : Nat)) t) t) 0

/-- Qsum of a block for element `e` (R258): it is the sum over the runs of 32 rows that the block covers. -/
def qsumOf (x : PanData) (wf e : Nat) (b : Nat × Nat) : Int :=
  (List.range b.2).foldl (fun t r => t + x.weight wf (b.1 + r) e) 0

/-- A power of two. -/
def pow2 (e : Int) : FV := .dyadic false 1 e

/-- The product of R260; none is an infinite factor times a zero. -/
def product : List FV → Option FV
  | [] => some (.fin false 1 1)
  | v :: vs => (product vs).bind fun p => v.mul p

/-- f_b (R260). -/
def scaledBlock (i : Int) (s : FV) (e : Int) (mxNan : Bool) (rho : Word) : Nat :=
  let r := fp32.value rho.toNat
  if mxNan || s.isNan || r.isNan then 0x7FC00000
  else
    match product [FV.ofInt i, s, pow2 e, r] with
    | some p => rneFp32 p
    | none => 0x7FC00000

/-- The scale entry of element `i` of the window for a block, 0 when no table is read. -/
def PanData.entryOf (x : PanData) (d : Unfold) (fmt : Word) (i : Nat) (b : Nat × Nat) : Nat :=
  if readsTable fmt then x.entry ((d.kbase + b.1) / (32 * 2 ^ sgOf fmt)) (d.ecol + i) else 0

/-- Zero point of an entry (Table 6.7). -/
def zeroPoint (wf ent : Nat) : Nat := if wf = 1 then ent / 2 ^ 16 % 256 else if wf = 3 then ent / 2 ^ 16 % 16 else 0

/-- E of R260. -/
def exponentOf (fmt : Word) (xw xa : Nat) : Int :=
  (if 4 ≤ wfOf fmt then (xw : Int) - 127 else 0) + (if afOf fmt = 4 then (xa : Int) - 127 - 6 else 0) +
    (if wfOf fmt = 4 then -6 else if wfOf fmt = 5 then -1 else 0)

/-- One block's term for element `i` of the window (R257 to R260). -/
def blockTerm (x : PanData) (d : Unfold) (fmt : Word) (m : Nat) (rho : Word) (codes : Nat → Nat) (i : Nat) (b : Nat × Nat) :
    Nat :=
  let wf := wfOf fmt
  let e := d.e0 + i
  let ent := x.entryOf d fmt i b
  let z : Int := zeroPoint wf ent
  let za : Int := d.zaOf (afOf fmt)
  let ib := dsumOf x fmt codes e b - z * asumOf fmt codes b - za * qsumOf x wf e b + b.2 * za * z
  let xa := (x.scratch (d.xaByte m b.1)).toNat
  let s := if wf ≤ 3 ∧ sgOf fmt ≠ 3 then fp16.value (ent % 2 ^ 16) else .fin false 1 1
  let nan := (decide (4 ≤ wf) && ent % 256 == 255) || (afOf fmt == 4 && xa == 255)
  scaledBlock ib s (exponentOf fmt (ent % 256) xa) nan rho

/-- The accumulators of one row after the operation (R261): blocks in ascending K. -/
def rowResult (x : PanData) (d : Unfold) (fmt : Word) (r : PmmaRow) : List Nat :=
  let codes := actCode x d (afOf fmt) r.row
  r.acc.mapIdx fun i a =>
    (blocksOf fmt d.k).foldl (fun acc b =>
      (addF (.mode 0) fp32 acc (blockTerm x d fmt r.row r.rho codes i b)).1) a.toNat

/-- Cycles of conversion of one row (R254). -/
def rowCycles (fmt : Word) (k : Nat) : Nat := actPlanes (afOf fmt) * (Nat.min k 256 / segOf fmt) * repOf fmt * 8

/-- Scale blocks that an operation needs (R264). -/
def blocksNeeded (d : Unfold) (fmt : Word) (n : Nat) : List Nat :=
  if readsTable fmt then
    let nb := (d.scncol + 15) / 16
    let rows := ((blocksOf fmt d.k).map fun b => (d.kbase + b.1) / (32 * 2 ^ sgOf fmt)).eraseDups
    let cols := ((List.range n).map fun i => (d.ecol + i) / 16).eraseDups
    (rows.flatMap fun r => cols.map (r * nb + ·)).eraseDups
  else []

/-- The mirror copy of a pan (R266, R273): half `1 - mh` of every row into half `mh`. -/
def mirrorBytes (row : List Byte) (mh : Nat) : List Byte :=
  if mh = 0 then row.drop 32 ++ row.drop 32 else row.take 32 ++ row.take 32

end Sys2Proof.Machine
end

