-- ==== Sys2Proof/Machine/Regroup.lean ====
section
/-! DEFINITION. The regroup barrier and its shuffle (08_control_lanes_regroup.md R193 to R200, R465). -/

namespace Sys2Proof.Machine

/-- What the participants of one regroup share: a launch, and a node for node workgroups (17 R393). -/
abbrev RegroupKey := Nat × Option Nat

/-- The regroup set that a group belongs to. -/
def State.regroupKey (s : State) (g : Group) : RegroupKey :=
  (g.launch, ((s.wg g.lowWg).bind (·.node)).map (·.node))

/-- The participants on a core: the resident groups of the set that have a live thread (R194). -/
def State.participants (s : State) (core : Nat) (key : RegroupKey) : List (Nat × Group) :=
  (s.core core).groups.filter fun e =>
    s.regroupKey e.2 = key && e.2.phase != .draining && e.2.dead != 0xFFFFFFFF#32

/-- A participant that has arrived: its group and the split that waits. -/
structure Arrived where
  gid : Nat
  g : Group
  k : Nat
  p : Split
  n : Nat
  keys : List (Nat × Nat)
  w0 : Word
  w1 : Word
  deriving DecidableEq, Repr

/-- The arrival of a group; none while it has not arrived or is in handler mode (R205). -/
def arrivalOf (e : Nat × Group) : Option Arrived :=
  if e.2.handler.isSome then none
  else e.2.splits.findSome? fun x =>
    match x.2.wait with
    | .regroup n keys w0 w1 =>
      some { gid := e.1, g := e.2, k := x.1, p := x.2, n := n, keys := keys, w0 := w0, w1 := w1 }
    | _ => none

/-- Table 8.6 for one participant; `a0` is the participant with the lowest GID. -/
def Arrived.passes (s : State) (a0 a : Arrived) : Bool :=
  a.p.pc == a0.p.pc && a.n == a0.n && a.g.splits.length == 1 && a.p.stack.isEmpty && a.p.fmt == a0.p.fmt && a.g.rrb == 0 &&
    (maskLanes a.g.live).all (fun l => (List.range a.n).all fun r => !(a.g.thread l).isEmpty r) &&
    a.g.tok.isEmpty &&
    (maskLanes a.g.live).all (fun l => match s.wg (a.g.thread l).wg with | some w => w.barCount.isEmpty | none => true)

/-- Cycles that the shuffle occupies (R198). -/
def shuffleCycles (threads n : Nat) : Nat := 64 + (threads * (n + 1) * 4 + 511) / 512

/-- Every participant takes REGROUP at its own instruction (R195). -/
def State.refuseRegroup (s : State) (core : Nat) (as : List Arrived) : State :=
  as.foldl (fun (s : State) (a : Arrived) =>
    let l := lowLane (maskLanes (a.p.active &&& ~~~a.g.dead))
    s.takeTrap core a.gid a.k a.p.pc (a.p.resume.getD a.p.pc)
      { code := cREGROUP, elected := l, lanes := bitMask l, w0 := a.w0, w1 := a.w1 }) s

/-- When every participant has arrived, the checks of R195; if they pass, the shuffle starts. A group of the set that a
pre-emption has saved and not yet restored still has to arrive (R200). -/
def State.checkRegroup (s : State) (core : Nat) (key : RegroupKey) : State :=
  let parts := s.participants core key
  let as := parts.filterMap arrivalOf
  if parts.isEmpty || as.length != parts.length ||
      (s.core core).shuffles.any (fun h => h.launch = key.1 && h.node = key.2) ||
      (s.core core).saved.any (fun g => g.set = key) then s
  else
    match as with
    | [] => s
    | a0 :: _ =>
      if as.all (a0.passes s) then
        let n := as.foldl (fun n a => n + popCount a.g.live) 0
        s.updCore core fun k => { k with
          shuffles := k.shuffles ++ [{ launch := key.1, node := key.2, due := s.now + shuffleCycles n a0.n }] }
      else s.refuseRegroup core as

/-- `regroup` (R193, R194): it arrives and waits for the shuffle. -/
noncomputable def execRegroup (f : FormE) (s : State) : Out :=
  let i := Instr.regroup f
  let n := f.b.f.toNat
  gatedWith i (fun h ls => resourceIf (decide (h.regs < n)) ls) s fun c g p ls =>
    let h := s.hdr g
    let keys := ls.map fun l => (l, fieldVal h g.rrb (g.thread l) i.info.a i.view.a .int % 2 ^ 16)
    let s := s.issue c g p i ls.length
    let s := (s.updSplit c.core c.gid c.split fun q => { q with sig := p.sig }).stall c
      (.regroup n keys c.w0 c.w1) (some c.next)
    .next (s.checkRegroup c.core (s.regroupKey g))

/-! ## The shuffle (R196, R197) -/

/-- A thread that takes part: its key, itself. -/
structure Sorted where
  key : Nat
  t : Thread
  deriving DecidableEq, Repr

/-- The order of R196: by key, then by TID. -/
def Sorted.before (x y : Sorted) : Bool := decide (x.key < y.key) || (x.key == y.key && decide (x.t.tid.toNat < y.t.tid.toNat))

/-- The key of a live thread of a participant. One that waits in a join record has not executed the instruction, and its key is a free
value, the `n`th (notes/assumptions/27.md). -/
def Arrived.keyOf (n : Nat) (a : Arrived) (l : Nat) : Nat :=
  match a.keys.find? fun k => k.1 = l with
  | some k => k.2
  | none => (Config.waitingKey n a.gid l).toNat

/-- The live threads of all participants, sorted. Two with equal key and equal TID, which R196 does not order, stand in the order of
group and lane: the model's choice (notes/assumptions/27.md). -/
def sortedThreads (n : Nat) (as : List Arrived) : List Sorted :=
  sortBy Sorted.before (as.flatMap fun a => (maskLanes a.g.live).map fun l => { key := a.keyOf n l, t := a.g.thread l })

/-- The packing of R196: each thread's new group, in the order of the list. `left` is N - i, `np` is P. -/
def packFrom (np : Nat) : Nat → Nat → Nat → Option Nat → List Sorted → List (Nat × Sorted)
  | _, _, _, _, [] => []
  | left, g, cnt, prev, x :: xs =>
    let brk := match prev with
      | none => false
      | some k => cnt = 32 || (decide (x.key ≠ k) && decide (g + 1 + (left + 31) / 32 ≤ np))
    let g := if brk then g + 1 else g
    let cnt := if brk then 0 else cnt
    (g, x) :: packFrom np (left - 1) g (cnt + 1) (some x.key) xs

/-- A thread after the shuffle (Table 8.7). -/
def Thread.carried (t : Thread) (n : Nat) : Thread :=
  { v := t.v.filter (fun e => decide (e.1 < n)), p := t.p &&& 0xF#7, tid := t.tid, wg := t.wg }

/-- New group `j` in the place of participant `a`, holding `ts` (R197). KEYU keeps what the regroup finds, also when threads
exit later, and REC and NREC are those of participant `a`, of which Table 8.7 says nothing: the model's choices (04 R94;
notes/assumptions/27.md). -/
def newGroup (as : List Arrived) (a : Arrived) (ts : List Sorted) (now : Nat) : Group :=
  let low := (as.headD a).g
  let filled : Mask := BitVec.ofNat 32 (2 ^ ts.length - 1)
  let sp := { a.p.goPast (a.p.resume.getD a.p.pc) now with active := filled, sig := 0xFFFFFFFF, stack := [], chain := none }
  { a.g with
    lanes := ts.mapIdx (fun l x => (l, x.t.carried a.n)), dead := ~~~filled, splits := [(0, sp)], records := [],
    flags := as.foldl (fun (f : Word) (x : Arrived) => f ||| x.g.flags) 0, ten := low.ten, gang := 0, rrb := 0, tok := [],
    h := [], keyu := match ts with
      | [] => true
      | x :: xs => xs.all (fun y => y.key == x.key),
    phase := .running }

/-- Put the new groups in the participants' slots, and free the slots beyond them. -/
def State.placeShuffled (s : State) (core : Nat) (as : List Arrived) (packed : List (Nat × Sorted)) : State :=
  (as.mapIdx fun j a => (j, a)).foldl (fun (s : State) (x : Nat × Arrived) =>
    let ts := (packed.filter fun y => y.1 = x.1).map (·.2)
    let s := { s with fly := s.fly.orphan core x.2.gid }
    if ts.isEmpty then ((s.discardHeld core x.2.g).dropGroup core x.2.gid)
    else s.setGroup core x.2.gid (newGroup as x.2 ts s.now)) s

/-- Every request of the participants has been performed: their events before the barrier happen before those after it
(14 Table 14.2). -/
def State.regroupSettled (s : State) (core : Nat) (as : List Arrived) : Bool :=
  s.fly.reqs.all fun r => !(r.core = core && as.any (fun a => a.gid = r.gid) && r.accs.any fun x => !x.performed)

/-- The shuffle ends. -/
def State.endShuffle (s : State) (core : Nat) (h : Shuffle) : State :=
  let parts := s.participants core (h.launch, h.node)
  let as := parts.filterMap arrivalOf
  if !s.regroupSettled core as then s
  else
    let s := s.updCore core fun k => { k with shuffles := k.shuffles.filter (fun x => x ≠ h) }
    let ts := sortedThreads s.fresh as
    let s := { s with fresh := s.fresh + 1 }
    let s := s.placeShuffled core as (packFrom as.length ts.length 0 0 none ts)
    s.count core 0x0E 1 (as.head?.map (·.g.ctx))

/-- REGROUP_SHUFFLE_END (R196, R198): a shuffle of the launch on the core that is due. -/
noncomputable def execRegroupShuffleEnd (core launch : Nat) (s : State) : Out :=
  match (s.core core).shuffles.find? fun h => h.launch = launch && decide (h.due ≤ s.now) with
  | some h => .next (s.endShuffle core h)
  | none => .next s

/-- Regroup sets of a core with a group that waits. -/
def State.waitingSets (s : State) (core : Nat) : List RegroupKey :=
  ((s.core core).groups.filter fun e => (arrivalOf e).isSome).map fun e => s.regroupKey e.2

/-- Start every shuffle whose participants have all arrived: after an exit, a kill or a return from a handler. -/
def State.settleRegroups (s : State) : State :=
  s.cores.foldl (fun (s : State) c => (s.waitingSets c.1).foldl (fun (s : State) k => s.checkRegroup c.1 k) s) s

end Sys2Proof.Machine
end

