-- ==== Sys2Proof/Machine/Pan.lean ====
section
/-! DEFINITION. Pan and gang instructions (12_pan_instructions.md): mode switches and the sluice, the configuration block,
`pmma` with its latch, its scale fills and its completion, the waits, the swap and the query. -/

namespace Sys2Proof.Machine

/-- PAN_CONFIG, 0x0C. -/
def cPANCONFIG : Nat := 0x0C

/-! ## What pan instructions share (R267) -/

/-- A check that a pan instruction fails: code, DETAIL, INFO. -/
structure PanFault where
  code : Nat
  detail : Nat := 0
  info : DWord := 0
  deriving DecidableEq, Repr

/-- A check of stage 5 whose code is below REGROUP's (09 R202): GANG and PAN_CONFIG. -/
def PanFault.first (e : PanFault) : Bool := e.code == cGANG || e.code == cPANCONFIG

/-- What a pan instruction checks in stages 5 and 6. -/
abbrev PanCheck := Cur → Header → Group → Split → List Nat → Wg → Option PanFault

/-- No check but those of every pan instruction. -/
def noCheck : PanCheck := fun _ _ _ _ _ _ => none

/-- The first of some checks that fails. -/
def firstFault (l : List (Bool × PanFault)) : Option PanFault := (l.find? (·.1)).map (·.2)

/-- Stages 2 to 4, then the instruction's checks, among them REGROUP for a mixed group, which a fault of a lower code in stage 5
precedes (09 R202), then `k` with the workgroup of the split. -/
def panOp (i : Instr) (s : State) (check : PanCheck)
    (k : Cur → Header → Group → Split → List Nat → Nat → Wg → Out) : Out :=
  gated i s fun c g p ls =>
    let fail := fun (e : PanFault) => Host.Outcome.next (s.trapLow c g p e.code e.detail e.info)
    let bad := (s.wg (wgOf g p)).bind (check c (s.hdr g) g p ls)
    if g.mixed then fail ((bad.filter (·.first)).getD { code := cREGROUP })
    else
      match bad, s.wg (wgOf g p) with
      | some e, _ => fail e
      | none, some w => k c (s.hdr g) g p ls (wgOf g p) w
      | none, none => fail { code := cSCRATCH }

/-- The instruction is issued and done: its UV, then its effect `f` on the state. -/
def State.donePan (s : State) (c : Cur) (g : Group) (p : Split) (i : Instr) (ls : List Nat) (f : State → State) : Out :=
  let uv := allUV (s.hdr g) g i ls
  let s := (s.issue c g p i ls.length).updGroup c.core c.gid (·.setFlags uv)
  .next ((f s).advance c)

/-! ## The configuration block (R270, R271) -/

/-- Bytes of scratch of a workgroup, at an offset that lies in its storage pans. -/
def State.wgRead (s : State) (w : Wg) (h : Header) (off n : Nat) : List Byte :=
  (List.range n).map fun k =>
    match w.scratchAt h (off + k : Nat) 1 with
    | .at_ core key _ => (s.panRead core key 1).headD 0
    | .bad => 0

/-- ATTRi as the block holds it now; 0 without a block. -/
def State.attr (s : State) (w : Wg) (h : Header) (i : Nat) : Byte :=
  if h.scratch < 64 then 0 else (s.wgRead w h (h.scratch - 64 + i) 1).headD 0

/-- The device's record of a compute pan's ATTR. -/
def Wg.record (w : Wg) (i : Nat) : Byte := (FMap.find w.attr i).getD 0

/-- SETj as the block holds it now; empty without a block. -/
def State.setBytes (s : State) (w : Wg) (h : Header) (j : Nat) : List Byte :=
  if h.scratch < 64 then List.replicate 8 0xFF else s.wgRead w h (h.scratch - 64 + 0x20 + 8 * j) 8

/-- Compute indices of a set: the bytes before the first 0xFF (Table 12.3). -/
def setIndices (bs : List Byte) : List Nat := (bs.takeWhile (· ≠ 0xFF)).map (·.toNat)

/-- What is wrong with a set: DETAIL 3 for an empty or malformed one, 6 for an index at or above CPANS (R276). -/
def setBad (bs : List Byte) (cpans : Nat) : Option Nat :=
  let ix := setIndices bs
  if ix.isEmpty || ix.eraseDups.length != ix.length || ix.any (27 < ·) || (bs.drop ix.length).any (· ≠ 0xFF) then some 3
  else if ix.any (cpans ≤ ·) then some 6
  else none

/-- An ATTR byte that R273 and R276 refuse. -/
def attrBad (b : Byte) : Bool := b.toNat / 64 != 0 || decide (5 < b.toNat % 16)

/-- Bytes that lie in one pan. -/
def State.storePiece (s : State) (w : Wg) (h : Header) (off : Nat) (bs : List Byte) : State :=
  match bs, w.scratchAt h off bs.length with
  | _ :: _, .at_ core key _ => (s.scratchStore w h core key off (bs.mapIdx fun k b => (k, b))).1
  | _, _ => s

/-- A scratch store of an instruction or of the device, of at most 16 KiB, at an offset of the storage pans: the bytes of
one pan, then those of the next. -/
def State.blockStore (s : State) (w : Wg) (h : Header) (off : Nat) (bs : List Byte) : State :=
  let room := 16384 - off % 16384
  (s.storePiece w h off (bs.take room)).storePiece w h (off + room) (bs.drop room)

/-- A scratch store of a split comes after its earlier acquires (14 R325). -/
def State.afterAcquires (s : State) (c : Cur) (k : Out) : Out :=
  match s.earlier c (·.acquires) with
  | id :: ids => .next (s.stall c (.requests (id :: ids)) none)
  | [] => k

/-! ## `pmode` (R272) -/

/-- Compute indices that a mask names. -/
def maskIndices (m : Nat) : List Nat := (List.range 28).filter fun i => m.testBit i

/-- Put a pan in a state (R98). -/
def CoreSt.setPan (k : CoreSt) (pan st : Nat) : CoreSt :=
  { k with pslu := (k.pslu &&& ~~~((3#64) <<< (2 * pan))) ||| (BitVec.ofNat 64 st <<< (2 * pan)),
           pmode := if st = 1 then k.pmode ||| (1#32) <<< pan else if st = 0 then k.pmode &&& ~~~((1#32) <<< pan) else k.pmode }

/-- Pans of a core in states 1 and 2. -/
def CoreSt.computing (k : CoreSt) : Nat := ((List.range 32).filter fun p => k.panState p = 1 || k.panState p = 2).length

/-- Pans of a core in compute mode: in states 1 and 3 (01 R17, 04 R98). -/
def CoreSt.inCompute (k : CoreSt) : Nat := ((List.range 32).filter fun p => k.panState p = 1 || k.panState p = 3).length

/-- `pmode` moves the named pans: those in state 0 to 2, or those in state 1 to 3, with the records of R271. -/
def State.requestMode (s : State) (wk : Nat) (w : Wg) (h : Header) (toCompute : Bool) (ix : List Nat) : State :=
  ix.foldl (fun (s : State) i =>
    match w.compute[i]? with
    | none => s
    | some pan =>
      let st := (s.core w.core).panState pan
      if toCompute then
        if st = 0 then
          let a := s.attr w h i
          (s.updCore w.core (·.setPan pan 2)).updWg wk fun x => { x with attr := FMap.put x.attr i a }
        else s
      else if st = 1 then s.updCore w.core (·.setPan pan 3)
      else s) s

/-- `pmode` over a shared body. -/
def pmodeOp (i : Instr) (toCompute : Bool) (s : State) : Out :=
  let mask := fun (h : Header) (g : Group) (ls : List Nat) => uniVal h g i.info.a i.view.a ls
  panOp i s
    (fun c h g _ ls w =>
      let from_ := (maskIndices (mask h g ls)).map (s.computeState w)
      firstFault [
        (mask h g ls / 2 ^ Nat.min 28 h.cpans != 0, { code := cPANCONFIG, detail := 6 }),
        (from_.contains (if toCompute then 3 else 2), { code := cPANCONFIG, detail := 4 }),
        (toCompute && decide (28 < (s.core c.core).computing + (from_.filter (· = 0)).length),
          { code := cPANCONFIG, detail := 5 })])
    fun c h g p ls wk w => s.donePan c g p i ls fun s => s.requestMode wk w h toCompute (maskIndices (mask h g ls))

/-- `pmode.c` (R272). -/
noncomputable def execPmodeCompute (f : FormE) (s : State) : Out := pmodeOp (.pmodeCompute f) true s

/-- `pmode.s` (R272). -/
noncomputable def execPmodeStorage (f : FormE) (s : State) : Out := pmodeOp (.pmodeStorage f) false s

/-! ## `sluice` (R273) -/

/-- Splits of a workgroup that have arrived at its sluice: core, group, split. -/
def State.atSluice (s : State) (wk : Nat) : List (Nat × Nat × Nat) :=
  match s.wg wk with
  | none => []
  | some w => (s.core w.core).groups.flatMap fun e =>
      if e.2.lowWg = wk then
        e.2.splits.filterMap fun x => match x.2.wait with | .sluice _ _ => some (w.core, e.1, x.1) | _ => none
      else []

/-- Live threads that have arrived. -/
def State.arrivedThreads (s : State) (at_ : List (Nat × Nat × Nat)) : Nat :=
  at_.foldl (fun n e =>
    match s.group e.1 e.2.1 with
    | some g => match g.split e.2.2 with
      | some p => n + popCount (p.active &&& ~~~g.dead)
      | none => n
    | none => n) 0

/-- Compute indices of a workgroup whose pan is in a state. -/
def State.inState (s : State) (w : Wg) (st : Nat) : List Nat :=
  (List.range w.compute.length).filter fun i => s.computeState w i = st

/-- A copy in flight may still access a pan entering compute mode that it could reach at its issue (R275). -/
def State.copyHolds (s : State) (wk : Nat) (ix : List Nat) : Bool :=
  s.fly.copies.any fun c => ix.any fun i => c.reaches.contains (wk, i)

/-- A request of a group at the sluice has an access that is not performed: the sluice orders it before its completion (14
R327). -/
def State.sluiceHolds (s : State) (at_ : List (Nat × Nat × Nat)) : Bool :=
  s.fly.reqs.any fun r => !r.done && at_.any fun e => e.1 = r.core && e.2.1 = r.gid

/-- A `pmma` that is not complete uses a pan. -/
def State.pmmaUses (s : State) (core pan : Nat) : Bool := s.fly.pmmas.any fun x => x.core = core && x.set.contains pan

/-- Physical pans of compute indices. -/
def Wg.pansOf (w : Wg) (ix : List Nat) : List Nat := ix.filterMap fun i => w.compute[i]?

/-- Once every live thread has arrived and the waits of R273 are over, the cycle in which the sluice completes. -/
def State.settleSluice (s : State) (wk : Nat) : State :=
  match s.wg wk with
  | none => s
  | some w =>
    let at_ := s.atSluice wk
    if at_.isEmpty || w.sluiceAt.isSome || s.arrivedThreads at_ != s.liveOf wk then s
    else
      let into := s.inState w 2
      let out := s.inState w 3
      if into.any (fun i => attrBad (w.record i)) then s.updWg wk fun x => { x with sluiceAt := some s.now }
      else if s.sluiceHolds at_ || s.copyHolds wk into || (w.pansOf out).any (s.pmmaUses w.core) then s
      else
        let d := 16 + (if into.isEmpty then 0 else 256) + (if into.any (fun i => (w.record i).getLsbD 4) then 256 else 0)
        s.updWg wk fun x => { x with sluiceAt := some (s.now + d) }

/-- `sluice` (R273): it arrives and waits. Its words are folded into SIG when it completes: one that takes PAN_CONFIG has not
been issued (09 R213). -/
noncomputable def execSluice (f : Form1) (s : State) : Out :=
  panOp (.sluice f) s noCheck fun c _ g p ls wk _ =>
    let s := (s.issue c g p (.sluice f) ls.length).updSplit c.core c.gid c.split fun q => { q with sig := p.sig }
    let s := s.stall c (.sluice c.w0 c.w1) (some c.next)
    .next (s.settleSluice wk)

/-- The mirror copy of a pan that enters compute mode marked for mirroring (R266). -/
def State.mirrorPan (s : State) (core pan : Nat) (rec_ : Byte) : State :=
  if !rec_.getLsbD 4 then s
  else
    (List.range 256).foldl (fun (s : State) r =>
      let key := 16384 * pan + 64 * r
      s.panStore core key (mirrorBytes (s.panRead core key 64) (rec_.toNat / 32 % 2))) s

/-- A pan holds a poisoned row. -/
def State.badPan (s : State) (core pan : Nat) : Bool := (s.core core).badRows.any fun r => r / 256 = pan

/-- Every group of a workgroup is killed with UNCORRECTABLE (19 R426). -/
def State.killWg (s : State) (wk : Nat) : State :=
  match s.wg wk with
  | none => s
  | some w =>
    ((s.core w.core).groups.filter fun e => e.2.lanes.any fun t => t.2.wg = wk && !e.2.dead.getLsbD t.1).foldl
      (fun (s : State) e => s.killShared w.core e.1) s

/-- A split at the sluice goes on with the instruction folded into SIG, or takes a fault. -/
def Split.leaveSluice (p : Split) (sm bad : Bool) (now : Nat) : Split :=
  match p.wait with
  | .sluice w0 w1 =>
    if bad then { p with wait := .fault cPANCONFIG 3 0 w0 w1 }
    else { p.goPast (p.resume.getD p.pc) now with sig := if sm && !p.issued then foldWords p.sig w0 w1 else p.sig }
  | _ => p

/-- The splits that wait at the sluice go on, or take a fault. -/
def State.leaveSluice (s : State) (at_ : List (Nat × Nat × Nat)) (bad : Bool) : State :=
  at_.foldl (fun (s : State) e =>
    let sm := match s.group e.1 e.2.1 with | some g => (s.hdr g).sigMode | none => false
    s.updSplit e.1 e.2.1 e.2.2 (·.leaveSluice sm bad s.now)) s

/-- Flipped cells of a pan that goes back to storage, by the 64-bit words that its ECC covers (19 Table 19.6, R426). -/
def CoreSt.flippedIn (k : CoreSt) (pan word : Nat) : List Nat := k.flipped.filter fun b => b / 131072 = pan && b % 131072 / 64 = word

/-- A bit of a pan's bytes is inverted. -/
def CoreSt.flip (k : CoreSt) (b : Nat) : CoreSt :=
  { k with pans := FMap.set 0 k.pans (b / 8) (FMap.get 0 k.pans (b / 8) ^^^ (1#8) <<< (b % 8)) }

/-- Words of a pan with a flipped cell. -/
def CoreSt.flippedWords (k : CoreSt) (pan : Nat) : List Nat :=
  ((k.flipped.filter fun b => b / 131072 = pan).map fun b => b % 131072 / 64).eraseDups

/-- A word of a pan is checked on the pan's return to storage: one flipped cell is corrected, more poison its row. -/
def State.checkWord (s : State) (core pan word : Nat) : State :=
  match (s.core core).flippedIn pan word with
  | [b] => (s.updCore core (·.flip b)).updDie (dieOf core) fun d => { d with eccCor := satInc d.eccCor }
  | _ =>
    let row := 256 * pan + word / 8
    (s.updCore core fun k => { k with badRows := row :: k.badRows.filter (· ≠ row) }).updDie (dieOf core) fun d =>
      { d with eccUnc := satInc d.eccUnc }

/-- The cells of a pan are checked on its return to storage mode (R426). -/
def State.checkPan (s : State) (core pan : Nat) : State :=
  (((s.core core).flippedWords pan).foldl (fun (s : State) x => s.checkWord core pan x) s).updCore core fun k =>
    { k with flipped := k.flipped.filter fun b => b / 131072 ≠ pan }

/-- The pans change (R98, R273). -/
def State.switchPans (s : State) (wk : Nat) (w : Wg) : State :=
  let into := s.inState w 2
  let out := s.inState w 3
  let s := into.foldl (fun (s : State) i =>
    match w.compute[i]? with
    | some pan => (s.mirrorPan w.core pan (w.record i)).updCore w.core (·.setPan pan 1)
    | none => s) s
  let s := (w.pansOf out).foldl (fun (s : State) pan => s.updCore w.core (·.setPan pan 0)) s
  s.updWg wk fun x => { x with attr := x.attr.filter fun e => !out.contains e.1, sluiceAt := none }

/-- SLUICE_COMPLETION (R273). It waits while a core would hold more than 28 pans in compute mode (01 R17); where a pre-emption
has taken an arrived group off the core since, it waits for the group to be restored. A poisoned row of a pan that it treats kills the
workgroup (19 R426). -/
noncomputable def execSluiceCompletion (wg : Nat) (s : State) : Out :=
  match s.wg wg with
  | none => .next s
  | some w =>
    match w.sluiceAt with
    | none => .next s
    | some t =>
      let at_ := s.atSluice wg
      let into := s.inState w 2
      let out := s.inState w 3
      let again := s.updWg wg fun x => { x with sluiceAt := none }
      if s.arrivedThreads at_ != s.liveOf wg then .next again
      else if s.now < t || 28 + out.length < (s.core w.core).inCompute + into.length then .next s
      else if into.any (fun i => attrBad (w.record i)) then .next (again.leaveSluice at_ true)
      else
        let t := (w.pansOf out).foldl (fun (s : State) pan => s.checkPan w.core pan) s
        let t := t.updWg wg fun x => { x with sluiceAt := none }
        if (w.pansOf (into ++ out)).any (t.badPan w.core) then .next (t.killWg wg)
        else .next ((t.switchPans wg w).leaveSluice at_ false)

/-! ## `pcfg` (R276) and `scbind` (R277) -/

/-- `pcfg.attr`. -/
noncomputable def execPcfgAttr (f : FormE) (s : State) : Out :=
  let i := Instr.pcfgAttr f
  let ix := f.b.f.toNat
  let a := fun (h : Header) (g : Group) (ls : List Nat) => uniVal h g i.info.a i.view.a ls
  panOp i s
    (fun _ h g _ ls w =>
      firstFault [
        (decide (h.cpans ≤ ix), { code := cPANCONFIG, detail := 6 }),
        (decide (256 ≤ a h g ls) || attrBad (BitVec.ofNat 8 (a h g ls)), { code := cPANCONFIG, detail := 3 }),
        (s.computeState w ix != 0 && BitVec.ofNat 8 (a h g ls) != w.record ix, { code := cPANCONFIG, detail := 4 }),
        (decide (h.scratch < 64), { code := cSCRATCH })])
    fun c h g p ls _ w =>
      s.afterAcquires c (s.donePan c g p i ls fun s => s.blockStore w h (h.scratch - 64 + ix) [BitVec.ofNat 8 (a h g ls)])

/-- `pcfg.set`. -/
noncomputable def execPcfgSet (f : FormE) (s : State) : Out :=
  let i := Instr.pcfgSet f
  let bs := fun (h : Header) (g : Group) (ls : List Nat) => toBytes 8 (uniVal h g i.info.a i.view.a ls)
  panOp i s
    (fun _ h g _ ls _ =>
      match setBad (bs h g ls) h.cpans with
      | some d => some { code := cPANCONFIG, detail := d }
      | none => firstFault [(decide (h.scratch < 64), { code := cSCRATCH })])
    fun c h g p ls _ w => s.afterAcquires c (s.donePan c g p i ls fun s =>
      s.blockStore w h (h.scratch - 64 + 0x20 + 8 * f.b.f.toNat) (bs h g ls))

/-- `scbind` (R277). -/
noncomputable def execScbind (f : FormE) (s : State) : Out :=
  let i := Instr.scbind f
  panOp i s
    (fun _ h g _ ls _ =>
      let a := uniVal h g i.info.a i.view.a ls
      let b := uniVal h g i.info.b i.view.b ls
      let off := uniVal h g i.info.c i.view.c ls
      firstFault [
        (b / 2 ^ 16 % 256 != 0 || b % 2 ^ 16 == 0, { code := cPANCONFIG, detail := 2 }),
        (a % 64 != 0, { code := cMISALIGN, info := BitVec.ofNat 64 a }),
        (off % 64 != 0, { code := cMISALIGN, info := BitVec.ofNat 64 off }),
        (decide (h.scratch < off + 64), { code := cSCRATCH, info := BitVec.ofNat 64 off })])
    fun c h g p ls _ w =>
      let a := uniVal h g i.info.a i.view.a ls
      let b := uniVal h g i.info.b i.view.b ls
      let off := uniVal h g i.info.c i.view.c ls
      s.afterAcquires c (s.donePan c g p i ls fun s =>
        (s.blockStore w h (off + 0x28) (toBytes 8 a ++ toBytes 2 (b % 2 ^ 16) ++ toBytes 1 (b / 2 ^ 24))).updCore c.core
          fun k => { k with scale := k.scale.filter fun x => x.id ≠ b / 2 ^ 24 })

/-! ## `pmma`: issue (R279 to R283) -/

/-- A member at the latch: its group, its split, and its ticket. -/
structure Member where
  gid : Nat
  g : Group
  k : Nat
  p : Split
  t : Ticket
  deriving DecidableEq, Repr

/-- Rows of the members that have a thread, in order (R280): the row, its member and its ticket's row. -/
def memberRows (ms : List Member) : List (Nat × Member × TicketRow) :=
  (ms.mapIdx fun r m => (m.t.rows.filter fun x => !m.g.dead.getLsbD x.lane).map fun x => (32 * r + x.lane, m, x)).flatten

/-- The checks of stages 5 and 6 that an opening latch makes (R279). -/
def State.pmmaCheck (s : State) (w : Wg) (h : Header) (m : Member) (rows : List Nat) : Option PanFault :=
  let fmt := m.p.fmt
  let bs := s.setBytes w h m.t.slot
  let ix := setIndices bs
  let n := 16 * 2 ^ m.t.nsel
  let off := m.t.a.toNat
  let info : DWord := BitVec.ofNat 64 off
  match setBad bs h.cpans with
  | some d => some { code := cPANCONFIG, detail := d }
  | none =>
    if ix.any (fun i => s.computeState w i != 0 && (w.record i).toNat % 16 != wfOf fmt) then
      some { code := cPANCONFIG, detail := 3 }
    else if ix.any (fun i => s.computeState w i != 1) then some { code := cPANCONFIG, detail := 4 }
    else if off % 64 ≠ 0 then some { code := cMISALIGN, info := info }
    else if h.scratch < off + 64 then some { code := cSCRATCH, info := info }
    else
      let d := unfoldOf (s.wgRead w h off 64)
      if !d.legal fmt n ix.length then some { code := cPANCONFIG, detail := 2 }
      else if readsTable fmt && d.scaddr.toNat % 64 != 0 then some { code := cMISALIGN, info := d.scaddr }
      else
        match (d.reads fmt rows).find? fun o => decide (h.scratch ≤ o) with
        | some o => some { code := cSCRATCH, info := BitVec.ofNat 64 o }
        | none => none

/-- The window runs mirrored (R266). -/
def mirrors (w : Wg) (fmt : Word) (halves : Nat) (ix : List Nat) : Bool :=
  mirOf fmt && (halves == 1 || halves == 2) && ix.all fun i =>
    (w.record i).getLsbD 4 && (w.record i).getLsbD 5 == (halves == 1)

/-- The operation that an opening latch issues (R280, R281). -/
def State.newPmma (s : State) (w : Wg) (wk : Nat) (h : Header) (core : Nat) (ms : List Member) (m : Member) : Pmma :=
  let fmt := m.p.fmt
  let n := 16 * 2 ^ m.t.nsel
  let desc := s.wgRead w h m.t.a.toNat 64
  let ix := setIndices (s.setBytes w h m.t.slot)
  let halves := (unfoldOf desc).halvesOf fmt n
  let mir := mirrors w fmt halves ix
  { id := s.fresh, ctx := m.g.ctx, core := core, wg := wk, members := ms.map fun x => (x.gid, x.t.tok),
    rows := (memberRows ms).map fun r =>
      { row := r.1, gid := r.2.1.gid, lane := r.2.2.lane, rho := r.2.2.rho, regs := r.2.2.regs,
        acc := r.2.2.regs.map ((r.2.1.g.thread r.2.2.lane).reg ·) },
    fmt := fmt, n := n, desc := desc, set := w.pansOf ix, halves := if mir then 3 else halves, mirrored := mir,
    at_ := s.now, pos := ms.foldl (fun a x => Nat.min a x.g.wgpos) m.g.wgpos, due := none }

/-- Steps of an operation (11 R251): one activation plane and one segment of one pan each, which can be re-run up to three times. -/
def Pmma.steps (x : Pmma) : Nat := x.rows.length * actPlanes (afOf x.fmt) * ((unfoldOf x.desc).k / segOf x.fmt)

/-- Count what an issued `pmma` does on the performance counters (19 Table 19.4). -/
def State.countPmma (s : State) (x : Pmma) : State :=
  (s.count x.core 0x0A x.members.length (some x.ctx)).count x.core 0x0B x.steps (some x.ctx)

/-- `x` was issued before `y` (R282, R283). -/
def Pmma.before (x y : Pmma) : Bool :=
  decide (x.at_ < y.at_) || (x.at_ == y.at_ && (decide (x.pos < y.pos) || (x.pos == y.pos && decide (x.id < y.id))))

/-- An operation keeps a later one of its core from starting: they share a pan and a half (R283). -/
def Pmma.blocks (x y : Pmma) : Bool :=
  x.core = y.core && x.before y && x.halves &&& y.halves != 0 && x.set.any y.set.contains

/-- Operations whose halves are free start, in the order of issue (R283), at the end of the cycle that frees them; the time is
that of R280. -/
def State.startPmmas (s : State) : State :=
  { s with fly := { s.fly with pmmas := s.fly.pmmas.map fun (y : Pmma) =>
      if y.due.isSome || s.fly.pmmas.any (·.blocks y) then y
      else { y with due := some (s.now + 24 + y.rows.length * rowCycles y.fmt (unfoldOf y.desc).k) } } }

/-- The operation is issued for a member: its token gains 1, its split folds the words and goes on (R282). -/
def State.issueMember (s : State) (core : Nat) (m : Member) : State :=
  let sm := (s.hdr m.g).sigMode
  let s := s.updGroup core m.gid fun g => (g.tokInc m.t.tok).setFlags m.t.uv
  let s := s.updSplit core m.gid m.k fun p =>
    { p.goPast (p.resume.getD p.pc) s.now with sig := if sm && !p.issued then foldWords p.sig m.t.w0 m.t.w1 else p.sig }
  ((s.count core 0x02 1 (some m.g.ctx)).countIf m.t.uni core 0x04 1 (some m.g.ctx)).occupy core m.gid 1

/-- Issue an operation. -/
def State.issuePmma (s : State) (core : Nat) (x : Pmma) (ms : List Member) : State :=
  let s := ms.foldl (fun (s : State) m => s.issueMember core m) s
  { s with fresh := s.fresh + 1, fly := { s.fly with pmmas := s.fly.pmmas ++ [x] } }.countPmma x

/-- Members at the latch take a fault, each at its own `pmma` (R282). -/
def State.failMembers (s : State) (core : Nat) (ms : List Member) (f : PanFault) : State :=
  ms.foldl (fun (s : State) m => s.updSplit core m.gid m.k fun p =>
    { p with wait := .fault f.code f.detail f.info m.t.w0 m.t.w1 }) s

/-- What the issuing split brings to a `pmma`. -/
noncomputable def ticketOf (c : Cur) (h : Header) (g : Group) (f : FormE) (ls : List Nat) : Ticket :=
  let i := Instr.pmma f
  { a := BitVec.ofNat 32 (uniVal h g i.info.a i.view.a ls), md := f.md, xd := f.xd, slot := f.mod.toNat / 8 % 4,
    nsel := f.nsel, tok := f.tok, w0 := c.w0, w1 := c.w1, uv := uniUV h g i.info.a i.view.a ls, uni := uniform i && !uchk g,
    rows := ls.map fun l =>
      { lane := l, rho := BitVec.ofNat 32 (fieldVal h g.rrb (g.thread l) i.info.b i.view.b .f32),
        regs := fieldRegs h g.rrb (g.thread l) i.info.d i.view.d } }

/-- The checks of stage 5 that come before those of the set: GANG has the lower code (R279, 09 R202). -/
def splitFault (ms : List Member) (fmt : Word) : Option PanFault :=
  if ms.any fun m => 1 < m.g.splits.length then some { code := cGANG, detail := 3 }
  else if fmtBad fmt then some { code := cPANCONFIG, detail := 1 }
  else none

/-- The member that the issuing split is. -/
noncomputable def memberNow (c : Cur) (h : Header) (g : Group) (p : Split) (f : FormE) (ls : List Nat) : Member :=
  { gid := c.gid, g := g, k := c.split, p := p, t := ticketOf c h g f ls }

/-- `pmma` (R279 to R282): with GANG 0 it issues at once; otherwise it arrives at its latch, where its checks are made, but for
those of a mixed group, which never comes to it. -/
noncomputable def execPmma (f : FormE) (s : State) : Out :=
  let i := Instr.pmma f
  panOp i s
    (fun c h g p ls w =>
      if g.gang = 0 ∨ g.mixed then (splitFault [memberNow c h g p f ls] p.fmt).or (s.pmmaCheck w h (memberNow c h g p f ls) ls) else none)
    fun c h g p ls wk w =>
      let m := memberNow c h g p f ls
      let t := m.t
      if 255 ≤ FMap.get 0 g.tok t.tok then .next (s.stall c (.tokenRoom t.tok) none)
      else if g.gang = 0 then
        let x := s.newPmma w wk h c.core [m] m
        let s := (s.issue c g p i ls.length).updGroup c.core c.gid fun g => (g.tokInc t.tok).setFlags t.uv
        let s := { s with fresh := s.fresh + 1, fly := { s.fly with pmmas := s.fly.pmmas ++ [x] } }
        .next ((s.countPmma x).advance c)
      else .next (s.stall c (.latch t) (some c.next))

/-! ## The rendezvous latch (R282) -/

/-- A group of a workgroup by its WGPOS, with a live thread; those that a pre-emption has saved still count. -/
def State.groupAt (s : State) (core wk pos : Nat) : Option (Nat × Group) :=
  (s.core core).groups.find? fun e => e.2.wgpos = pos && e.2.dead != 0xFFFFFFFF#32 && e.2.lowWg = wk

/-- A group of the workgroup that a pre-emption has taken off the core. -/
def State.savedAt (s : State) (core wk pos : Nat) : Bool :=
  (s.core core).saved.any fun e => e.group.wgpos = pos && e.group.lowWg = wk

/-- A group at the latch; one in handler mode issues nothing but its handler (09 R205). -/
def memberOf (e : Nat × Group) : Option Member :=
  if e.2.handler.isSome then none
  else e.2.splits.findSome? fun x =>
    match x.2.wait with
    | .latch t => some { gid := e.1, g := e.2, k := x.1, p := x.2, t := t }
    | _ => none

/-- What the rendezvous compares. -/
def Member.agrees (a b : Member) : Bool :=
  a.p.pc == b.p.pc && a.g.gang == b.g.gang && a.p.fmt == b.p.fmt && a.t.md == b.t.md && a.t.xd == b.t.xd && a.t.a == b.t.a &&
    a.t.slot == b.t.slot && a.t.nsel == b.t.nsel

/-- Whether the latch of a group can act: every named group has arrived, or one has no live thread. -/
def State.latchReady (s : State) (core gid : Nat) : Bool :=
  match s.group core gid with
  | none => false
  | some g =>
    (memberOf (gid, g)).isSome &&
      ((maskLanes g.gang).any (fun q => (s.groupAt core g.lowWg q).isNone && !s.savedAt core g.lowWg q) ||
       (maskLanes g.gang).all fun q => ((s.groupAt core g.lowWg q).bind memberOf).isSome)

/-- The latch of a group opens: the operation issues for all members, or each member takes the fault (R279, R282). It waits while
a member's token is at 255 (04 R91). -/
def State.openLatch (s : State) (core gid : Nat) : State :=
  match s.group core gid with
  | none => s
  | some g =>
    let wk := g.lowWg
    if !s.latchReady core gid then s
    else
      match memberOf (gid, g), s.wg wk with
      | some m, some w =>
        let h := s.hdr g
        let ms := (maskLanes g.gang).filterMap fun q => (s.groupAt core wk q).bind memberOf
        let gone := (maskLanes g.gang).any fun q => (s.groupAt core wk q).isNone && !s.savedAt core wk q
        let fault : Option PanFault :=
          if ms.any fun x => 1 < x.g.splits.length then some { code := cGANG, detail := 3 }
          else if gone then some { code := cGANG, detail := 2 }
          else if !ms.all (m.agrees ·) then some { code := cGANG, detail := 1 }
          else (splitFault ms m.p.fmt).or (s.pmmaCheck w h m ((memberRows ms).map (·.1)))
        match fault with
        | some e => s.failMembers core ms e
        | none => if ms.any fun x => 255 ≤ FMap.get 0 x.g.tok x.t.tok then s else s.issuePmma core (s.newPmma w wk h core ms m) ms
      | _, _ => s

/-- PMMA_LATCH_OPEN (R282). -/
noncomputable def execPmmaLatchOpen (core gid : Nat) (s : State) : Out := .next (s.openLatch core gid)

/-- Every latch that can act acts in the present cycle, by ascending lowest WGPOS (R282). -/
def State.settleLatches (s : State) : State :=
  s.cores.foldl (fun (s : State) c =>
    ((sortBy (fun (x y : Nat × Group) => decide (x.2.wgpos < y.2.wgpos)) c.2.groups).filter fun e => (memberOf e).isSome).foldl
      (fun (s : State) e => s.openLatch c.1 e.1) s) s

/-! ## Scale fills (11 R265, R286) -/

/-- The issued operation of an identifier. -/
def State.pmmaOf (s : State) (id : Nat) : Option Pmma := s.fly.pmmas.find? fun x => x.id = id

/-- The cache block is the one that the operation's descriptor names. -/
def ScaleBlock.is (b : ScaleBlock) (x : Pmma) (block : Nat) : Bool :=
  let d := unfoldOf x.desc
  b.id == d.scid && b.block == block && b.table == d.scaddr && b.ncol == d.scncol && b.ctx == x.ctx

/-- The block of an operation in its core's scale cache. -/
def State.scaleBlock (s : State) (x : Pmma) (block : Nat) : Option ScaleBlock := (s.core x.core).scale.find? (·.is x block)

/-- Blocks that the operation needs and has not taken. -/
def State.missing (_ : State) (x : Pmma) : List Nat :=
  (blocksNeeded (unfoldOf x.desc) x.fmt x.n).filter fun b => (FMap.find x.got b).isNone

/-- Address of a block (R264). -/
def Pmma.blockAddr (x : Pmma) (block : Nat) : DWord := (unfoldOf x.desc).scaddr + BitVec.ofNat 64 (64 * block)

/-- The started operations take the blocks that they need and that their core's cache holds (R265). -/
def State.takeBlocks (s : State) : State :=
  { s with fly := { s.fly with pmmas := s.fly.pmmas.map fun (x : Pmma) =>
      if x.due.isNone then x
      else { x with got := (s.missing x).foldl (fun (m : FMap (List Byte)) b =>
          match s.scaleBlock x b with
          | some y => FMap.put m b y.data
          | none => m) x.got } } }

/-- A block comes into the cache, where the oldest makes room for it beyond 256 (R265), and to the operation that needs it. -/
def State.putBlock (s : State) (x : Pmma) (block : Nat) (bs : List Byte) : State :=
  let d := unfoldOf x.desc
  let b : ScaleBlock := { id := d.scid, block := block, table := d.scaddr, ncol := d.scncol, ctx := x.ctx, data := bs }
  (s.updCore x.core fun k =>
    let old := k.scale.filter fun y => !y.is x block
    { k with scale := (if old.length < 256 then old else old.drop 1) ++ [b] }).takeBlocks

/-- Take an operation out: its members' tokens lose 1. -/
def State.dropPmma (s : State) (x : Pmma) : State :=
  let s := { s with fly := { s.fly with
    pmmas := s.fly.pmmas.filter (fun y => y.id ≠ x.id),
    parks := s.fly.parks.filter fun p => match p.who with | .fill q _ => q ≠ x.id | _ => true } }
  s.releaseTokens x.core x.members

/-- A trapping fault ends the operation (R286): every member holds it, or one event says that the member has gone. -/
def State.abortPmma (s : State) (x : Pmma) (code detail : Nat) (va : DWord) : State :=
  let s := s.dropPmma x
  x.members.foldl (fun (s : State) m =>
    match s.group x.core m.1 with
    | some g =>
      if g.phase = .draining then s.post 0x08 code (detail ||| 0x40) x.ctx x.core va 0
      else s.holdFault x.core m.1 x.ctx { tok := m.2, code := code, detail := detail ||| 0x40, info := va }
    | none => s.post 0x08 code (detail ||| 0x40) x.ctx x.core va 0) s

/-- A fill waits for its page. -/
def State.fillParked (s : State) (id block : Nat) : Bool := s.fly.parks.any fun p => p.who == .fill id block

/-- SCALE_FILL (R265, R286): a missing block of a started operation is read, or waits for its page. The answer for a block in
the memory of a peer or of the host comes as PEER_RESPONSE. -/
noncomputable def execScaleFill (pmma block : Nat) (s : State) : Out :=
  match s.pmmaOf pmma with
  | none => .next s
  | some x =>
    if x.due.isNone || !(s.missing x).contains block || s.fillParked pmma block then .next s
    else if (s.scaleBlock x block).isSome then .next s.takeBlocks
    else
      let va := x.blockAddr block
      let r := s.translate x.core x.ctx va .load
      match r.1 with
      | .ok pa _ =>
        let line := pa / 64
        if !s.isDevice pa || !(s.lostStack pa || s.homeReads x.core line) then .next s
        else
          let t := (s.fillTlb x.core r.2).homeRead x.core (some x.ctx) line
          .next (if s.badLine line then t.killWg x.wg else t.putBlock x block (s.read pa 64))
      | .page | .light => .next (s.park (.fill pmma block) x.ctx x.core [(va, 0x11, false)]).1
      | .noContext d => .next (s.walkFault x.ctx d x.core 0 va 0)
      | .busy _ | .trap _ _ => .next s

/-- SCALE_FILL_FAULT (R286): a trapping fault of a fill. -/
noncomputable def execScaleFillFault (pmma block : Nat) (s : State) : Out :=
  match s.pmmaOf pmma with
  | none => .next s
  | some x =>
    if x.due.isNone || !(s.missing x).contains block || s.fillParked pmma block then .next s
    else
      let va := x.blockAddr block
      match (s.translate x.core x.ctx va .load).1 with
      | .trap code detail => .next (s.abortPmma x code detail va)
      | _ => .next s

/-! ## Completion (R284, R285, R266) -/

/-- What the rows are computed from, at the completion. -/
def State.pmmaData (s : State) (x : Pmma) (w : Wg) (h : Header) : PanData :=
  let d := unfoldOf x.desc
  let k := s.core x.core
  { scratch := fun o =>
      match w.scratchAt h (o : Nat) 1 with
      | .at_ _ key _ => FMap.get 0 k.pans key
      | .bad => 0,
    pan := fun q b => match x.set[q]? with
      | some pan => FMap.get 0 k.pans (16384 * pan + b)
      | none => 0,
    entry := fun g col =>
      match FMap.find x.got (g * ((d.scncol + 15) / 16) + col / 16) with
      | some b => fieldAt b (4 * (col % 16)) 4
      | none => 0 }

/-- A row of a set or of the activations that the operation reads is poisoned (19 R426). -/
def State.pmmaPoisoned (s : State) (x : Pmma) (w : Wg) (h : Header) : Bool :=
  let d := unfoldOf x.desc
  let k := s.core x.core
  !k.badRows.isEmpty &&
    ((List.range d.k).any (fun r => match x.set[r / 256]? with
        | some pan => k.badRows.contains (256 * pan + r % 256)
        | none => false) ||
      (d.reads x.fmt (x.rows.map (·.row))).any fun o =>
        match w.scratchAt h (o : Nat) 1 with
        | .at_ _ key _ => k.badRows.contains (key / 64)
        | .bad => false)

/-- The results of a row: those of R261, but where a conversion of an unmirrored operation has left its margin undetected, and
the result that it enters is wrong (11 R256): `wrong` lists row, element and value. -/
def Pmma.results (x : Pmma) (data : PanData) (wrong : List (Nat × Nat × Word)) (r : PmmaRow) : List Word :=
  (rowResult data (unfoldOf x.desc) x.fmt r).mapIdx fun i v =>
    match wrong.find? fun y => !x.mirrored && y.1 = r.row && y.2.1 = i with
    | some y => y.2.2
    | none => BitVec.ofNat 32 v

/-- Write the accumulators of a row whose thread lives (R280). -/
def State.writeRow (s : State) (x : Pmma) (data : PanData) (wrong : List (Nat × Nat × Word)) (r : PmmaRow) : State :=
  match s.group x.core r.gid with
  | none => s
  | some g =>
    if g.dead.getLsbD r.lane then s
    else
      s.setGroup x.core r.gid (g.updThread r.lane fun t =>
        ((r.regs.zip (x.results data wrong r)).foldl (fun (t : Thread) p => t.setReg p.1 p.2) t))

/-- Flags and counters of re-runs of a mirrored operation (R266): MC is set at its completion. -/
def State.noteReruns (s : State) (x : Pmma) (reruns : Nat) : State :=
  if !x.mirrored || reruns = 0 then s
  else
    let s := x.members.foldl (fun (s : State) m => s.updGroup x.core m.1 (·.raiseFlags flagMC)) s
    let s := s.count x.core 0x0C reruns (some x.ctx)
    (List.range reruns).foldl (fun (s : State) _ => s.updDie (dieOf x.core) fun d => { d with mirRetry := satInc d.mirRetry }) s

/-- The operation may complete after some re-runs: it has started, its time and eight cycles for each conversion of each re-run are
over (11 R252), and every block has come. -/
def State.pmmaDone (s : State) (x : Pmma) (reruns : Nat) : Bool :=
  (match x.due with | some t => decide (t + 8 * repOf x.fmt * reruns ≤ s.now) | none => false) && (s.missing x).isEmpty

/-- PMMA_COMPLETION (R284), of an operation whose steps went as `runs` says (R256, R266). -/
noncomputable def execPmmaCompletion (pmma : Nat) (runs : StepRuns) (s : State) : Out :=
  match s.pmmaOf pmma with
  | none => .next s
  | some x =>
    let n := if x.mirrored then runs.reruns else 0
    match s.wg x.wg with
    | none => .next s
    | some w =>
      let h := match s.launch w.launch with | some l => l.hdr | none => {}
      if !s.pmmaDone x n || 3 * x.steps < n then .next s
      else if s.pmmaPoisoned x w h then .next (s.killWg x.wg)
      else
        let data := s.pmmaData x w h
        let s := x.rows.foldl (fun (s : State) r => s.writeRow x data runs.wrong r) s
        .next ((s.noteReruns x n).dropPmma x)

/-- MACHINE_CHECK_EVENT (R266): the third re-run of a step still disagrees; the members are killed. The re-runs are those
of every step so far. -/
noncomputable def execMachineCheckEvent (failed : RerunPmma) (s : State) : Out :=
  match s.pmmaOf failed.pmma with
  | none => .next s
  | some x =>
    if !x.mirrored || x.due.isNone || failed.reruns < 3 || 3 * x.steps < failed.reruns then .next s
    else
      let s := s.noteReruns x failed.reruns
      let s := s.updDie (dieOf x.core) fun d => { d with mCheck := satInc d.mCheck }
      .next (x.members.foldl (fun (s : State) m => s.killShared x.core m.1) s)

/-- DRAINING_END (01 R29): a draining group whose operations have completed gives up its slot. -/
noncomputable def execDrainingEnd (core gid : Nat) (s : State) : Out :=
  match s.group core gid with
  | none => .next s
  | some g =>
    if g.phase != .draining || s.fly.pmmas.any (fun x => x.core = core && x.members.any fun m => m.1 = gid) then .next s
    else .next { ((s.freeTrack core gid).dropGroup core gid) with fly := s.fly.orphan core gid }

/-! ## Fence, wait, swap and query (R287 to R290) -/

/-- Results that are pending for a split: loads and atomics with a return, and SFU results. -/
def State.pendingResults (s : State) (c : Cur) : List Nat :=
  (s.fly.reqs.filter fun q => q.core = c.core && q.gid = c.gid && q.splits.getLsbD c.split && !q.dst.isEmpty).map (·.id) ++
    (s.fly.sfu.filter fun q => q.core = c.core && q.gid = c.gid && q.splits.getLsbD c.split).map (·.id)

/-- `pfence` (R287): scratch stores are performed at their issue, so it waits for the pending results. -/
noncomputable def execPfence (f : Form1) (s : State) : Out :=
  panOp (.pfence f) s noCheck fun c _ g p ls _ _ =>
    let ids := s.pendingResults c
    let s := s.issue c g p (.pfence f) ls.length
    if ids.isEmpty then .next (s.advance c) else .next (s.stall c (.results ids) (some c.next))

/-- `pwait` (R288). -/
noncomputable def execPwait (f : FormE) (s : State) : Out :=
  panOp (.pwait f) s noCheck fun c _ g p ls _ _ =>
    match g.heldFor (some f.tok) with
    | some x => .next (s.takeHeld c p x)
    | none =>
      if FMap.get 0 g.tok f.tok ≠ 0 then .next (s.stall c (.tokenZero f.tok) none)
      else .next ((s.issue c g p (.pwait f) ls.length).advance c)

/-- Slots 2P and 2P + 1 of a workgroup change places. -/
def State.swapSlots (s : State) (wk q : Nat) : State :=
  match s.wg wk with
  | none => s
  | some w =>
    let h := match s.launch w.launch with | some l => l.hdr | none => {}
    if h.scratch < 64 then s
    else s.blockStore w h (h.scratch - 64 + 0x20 + 16 * q) (s.setBytes w h (2 * q + 1) ++ s.setBytes w h (2 * q))

/-- The exchanges of a cycle take place at its end. -/
def State.settleSwaps (s : State) : State :=
  { s.fly.swaps.foldl (fun (s : State) x => s.swapSlots x.1 x.2) s with
    fly := { (s.fly.swaps.foldl (fun (s : State) x => s.swapSlots x.1 x.2) s).fly with swaps := [] } }

/-- `pswap` (R289): slots 2P and 2P + 1 change places, after a `pmma` whose latch opens in the same cycle has read them. -/
noncomputable def execPswap (f : Form1) (s : State) : Out :=
  panOp (.pswap f) s noCheck fun c _ g p ls wk _ =>
    s.afterAcquires c (s.donePan c g p (.pswap f) ls fun s =>
      { s with fly := { s.fly with swaps := s.fly.swaps ++ [(wk, f.d.toNat % 2)] } })

/-- `pquery` with the value that `v` reads. -/
def pqueryOp (i : Instr) (v : State → Header → Wg → Nat) (s : State) : Out :=
  panOp i s noCheck fun c h g p ls _ w =>
    let x := v s h w
    let s := s.issue c g p i ls.length
    .next ((s.updGroup c.core c.gid (·.writeAll h i ls x)).advance c)

/-- `pquery.state` (R290). -/
noncomputable def execPqueryState (f : FormE) (s : State) : Out :=
  pqueryOp (.pqueryState f) (fun s h w =>
    ((List.range (Nat.min 28 h.cpans)).map fun i => s.computeState w i * 4 ^ i).sum) s

/-- Half `half` of slot `j`'s pans is in use by an incomplete `pmma` that has started. -/
def State.slotBusy (s : State) (w : Wg) (h : Header) (j half : Nat) : Bool :=
  let pans := w.pansOf (setIndices (s.setBytes w h j))
  s.fly.pmmas.any fun x => x.core = w.core && x.due.isSome && x.halves.testBit half && x.set.any pans.contains

/-- `pquery.busy` (R290). -/
noncomputable def execPqueryBusy (f : FormE) (s : State) : Out :=
  pqueryOp (.pqueryBusy f) (fun s h w =>
    ((List.range 8).map fun b => if s.slotBusy w h (b / 2) (b % 2) then 2 ^ b else 0).sum) s

/-- `pquery.part` (R290). -/
noncomputable def execPqueryPart (f : FormE) (s : State) : Out :=
  pqueryOp (.pqueryPart f) (fun s h w =>
    let k := s.core w.core
    h.cpans + 2 ^ 8 * w.storage.length + 2 ^ 16 * k.computing +
      2 ^ 24 * ((List.range 32).filter fun i => k.pl1.getLsbD i).length) s

end Sys2Proof.Machine
end

