-- ==== Sys2Proof/Machine/Generations.lean ====
section
/-! DEFINITION. Memory generations, snapshots and the spool (16_generations.md). -/

namespace Sys2Proof.Machine

/-! ## The window and the sweep (R357 to R359) -/

/-- A generation is retained. -/
def Gens.isRetained (g : Gens) (n : Nat) : Bool := g.retained.any fun r => r.gen = n

/-- The sweep has work: the base is closed, and no image of it is kept (R359). -/
def Gens.sweeps (g : Gens) : Bool := decide (g.base < g.cur) && !g.keeps.contains g.base

/-- One step of the sweep: the base moves up, and with it every tag that names it (R359). -/
def Gens.sweep (g : Gens) : Gens :=
  { g with base := g.base + 1, tag := g.tag.filter (fun e => decide (g.base + 1 < e.2)) }

/-- GENERATION_SWEEP (R359). It reads every tag. -/
noncomputable def execGenerationSweep (s : State) : Out :=
  if s.gen.sweeps then
    let s := s.useTags (s.latent.filter fun l => inTagArea (l / 64))
    .next { s with gen := s.gen.sweep }
  else .next s

/-- GENRET (Table 16.2). -/
def Gens.genret (g : Gens) : Nat := ((g.retained.map fun r => 2 ^ (r.gen % 4)).foldl (· + ·) 0)

/-- State of a generation, `snapq` Q 0 (R370). -/
def Gens.stateOf (g : Gens) (n : Nat) : Nat :=
  if n < g.base ∨ g.cur ≤ n then 0
  else match g.retained.find? fun r => r.gen = n with
    | some r => r.status
    | none => (FMap.find g.stat n).getD 0

/-! ## The descriptor (Table 16.4) -/

/-- Bits [51:48] of a physical address name host memory or a peer. -/
def outwardTarget (pa : Nat) : Bool := pa / 2 ^ 48 = 1 || pa / 2 ^ 48 = 2

/-- The program-written fields keep Table 16.4. -/
def snapLegal (bs : List Byte) : Bool :=
  let f := fieldAt bs
  let opt := f 2 2
  let incr := opt / 2 % 2 = 1
  f 0 2 == 1 && decide (opt < 8) && (incr || f 12 4 == 0) && f 0x10 8 % 4096 == 0 && decide (f 0x10 8 < 2 ^ 40) &&
    f 0x18 8 % 4096 == 0 && decide (f 0x10 8 + f 0x18 8 ≤ 2 ^ 40) &&
    (if f 0x18 8 = 0 then f 0x20 8 == 0 else f 0x20 8 % 4096 == 0 && outwardTarget (f 0x20 8)) &&
    (if incr then f 0x28 8 % 8 == 0 && outwardTarget (f 0x28 8) else f 0x28 8 == 0) && f 0x38 8 % 8 == 0

/-- The record of generation `g` taken with a descriptor. -/
def newGen (g ctx : Nat) (va : DWord) (bs : List Byte) : GenRec :=
  let f := fieldAt bs
  { gen := g, ctx := ctx, va := va, status := if f 0x18 8 = 0 then 1 else 2, abandon := f 2 2 % 2 = 1,
    incr := f 2 2 / 2 % 2 = 1, autodrop := f 2 2 / 4 % 2 = 1, baseGen := f 12 4, rbase := f 0x10 8, rlen := f 0x18 8,
    dest := f 0x20 8, index := f 0x28 8, event := BitVec.ofNat 64 (f 0x38 8) }

/-! ## Images (R365) -/

/-- The shadow frame that holds a page for a generation. -/
def Gens.frameOf (g : Gens) (page n : Nat) : Option Shadow :=
  g.shadows.find? fun f => f.page = page && decide (f.lo ≤ n) && decide (n ≤ f.hi)

/-- Recorded generation of a page's image (R373). -/
def Gens.imageGen (g : Gens) (page n : Nat) : Nat :=
  match g.frameOf page n with
  | some f => f.lo
  | none => g.tagOf page

/-- The page in which a page's image lies: its shadow frame or itself. -/
def Gens.imagePage (g : Gens) (page n : Nat) : Nat := ((g.frameOf page n).map (·.frame)).getD page

/-- Bytes of a page's image, and its lines in error: those of the page in which it lies, and those that a copy met (R374). -/
def State.image (s : State) (page n : Nat) : List Byte × List Nat :=
  let at_ := s.gen.imagePage page n
  let old := ((s.gen.frameOf page n).map (·.bad)).getD []
  (s.read (at_ * 4096) 4096, old ++ (s.badLines at_).filter fun k => !old.contains k)

/-- The spool engine that drains a page (R373). -/
def engineOf (page : Nat) : Nat := if [0, 1, 4, 5].contains (homeDie (page * 4096)) then 0 else 1

/-- The drain of a generation as it starts: the pages included, and those of each engine. -/
def State.newDrain (s : State) (r : GenRec) : Drain :=
  let all := (List.range (r.rlen / 4096)).map (· + r.rbase / 4096)
  let inc := if r.incr then all.filter fun p => decide (r.baseGen < s.gen.imageGen p r.gen) else all
  { gen := r.gen, left0 := inc.filter (fun p => engineOf p = 0), left1 := inc.filter (fun p => engineOf p = 1),
    included := if r.incr then inc else [] }

/-- A tag line holds the tag of a page of a drain's range whose image is live. -/
def Drain.touches (_ : Drain) (r : GenRec) (line : Nat) : Bool :=
  (List.range (r.rlen / 4096)).any fun i => tagLineOf (i + r.rbase / 4096) == line

/-! ## `snap` (R369) -/

/-- The SNAPCTX bit of a context. -/
def State.maySnap (s : State) (ctx : Nat) : Bool := s.gen.snapCtx.getLsbD ctx

/-- `snap`, first part: checks, the descriptor, the release; then it waits at the barrier unit. -/
noncomputable def execSnap (f : Form1) (s : State) : Out :=
  let i := Instr.snap f
  gated i s fun c g p ls =>
    let g := g.asIssued p
    let h := s.hdr g
    let va : DWord := BitVec.ofNat 64 (uniVal h g i.info.a i.view.a ls)
    let low := lowLane ls
    if !s.maySnap g.ctx then .next (s.trapLow c g p cPROTECT 4 0)
    else if va.toNat % 64 ≠ 0 then .next (s.trapLow c g p cMISALIGN 0 va)
    else
      let r := s.translate c.core g.ctx va .load
      match r.1 with
      | .trap code detail => .next (s.trapLow c g p code detail va)
      | .noContext d => .next (s.walkFault g.ctx d c.core c.pc va (g.thread low).tid)
      | .page => .next (s.parkWhole c g ls (va, Access.load.kind, false))
      | .light => .next (s.parkWhole c g ls (va, Access.load.kind, true))
      | .busy line => .next (s.stall c (.lines [(line, false)]) none)
      | .ok pa _ =>
        match s.earlier c (fun _ => true) with
        | id :: ids => .next (s.stall c (.requests (id :: ids)) none)
        | [] =>
          let line := pa / 64
          if s.isDevice pa && !(s.lostStack pa || s.homeReads c.core line) then .next (s.stall c (.lines [(line, false)]) none)
          else
            let bad := s.isDevice pa && s.badLine line
            let s := s.fillTlb c.core r.2
            let s := if s.isDevice pa then s.homeRead c.core (some g.ctx) line else s
            let bs := s.read pa 64
            if bad then .next (s.killShared c.core c.gid)
            else if !snapLegal bs then .next (s.trapLow c g p cILLEGAL 2 0)
            else
              let dst := ls.flatMap fun l => (fieldRegs h g.rrb (g.thread l) i.info.d i.view.d).map fun r => (l, r)
              let uv := allUV h g i ls
              let s := (s.issue c g p i ls.length).updGroup c.core c.gid (·.setFlags uv)
              .next (s.stall c (.snap va bs dst) (some c.next))

/-- A new generation cannot be made (R369). -/
def Gens.refuses (g : Gens) : Bool := g.cur = 0xFFFFFFFF || (g.cur - g.base = 3 && g.isRetained g.base)

/-- A generation register: a core's, a slice's or a controller's (R360). -/
def isUnit (u : Nat) : Bool :=
  decide (u < 2048) || (decide (2048 ≤ u) && decide (u < 3328)) || (decide (4096 ≤ u) && decide (u < 4112))

/-- The device writes a snapshot descriptor, with what follows; that of a context which has been killed gets nothing (09 R227). -/
def State.snapWrite (s : State) (mute : Bool) (ctx : Nat) (va : DWord) (bs : List Byte) (then_ : Follow) : State :=
  if mute then s else s.descriptorWrite ctx va bs then_

/-- The barrier unit has served the `snap` of a split, which waits for the writes to its descriptor. -/
def State.snapServed (s : State) (core gid split : Nat) : State :=
  s.updSplit core gid split fun p => match p.wait with
    | .snap _ _ dst => { p with wait := .snapEnd dst }
    | _ => p

/-- Every unit holds Gc: the generation is retained, its drain starts, and the `snap` completes with the write of STATUS (R369). -/
def State.endAdvance (s : State) (a : Advance) : State :=
  let r := a.rec_
  let d := s.newDrain r
  let s := if r.incr then s.useTags (s.latent.filter fun l => inTagArea (l / 64) && d.touches r l) else s
  let s := { s with gen := { s.gen with advance := none, late := [], retained := s.gen.retained ++ [r],
                                        drains := if r.rlen = 0 then s.gen.drains else s.gen.drains ++ [d] } }
  let s := (s.snapServed a.core a.gid a.split).snapWrite r.mute r.ctx (r.va + 0x30) (toBytes 8 0) .nothing
  let s := s.snapWrite r.mute r.ctx (r.va + 8) (toBytes 4 r.gen) .nothing
  s.snapWrite r.mute r.ctx (r.va + 4) (toBytes 4 r.status) (.snapDone a.core a.gid a.split (r.gen + 1))

/-- The broadcast of an advance has reached all units but `late`, which only become fewer; with none left it completes. -/
def State.broadcast (s : State) (a : Advance) (late : List Nat) : State :=
  if late.isEmpty then s.endAdvance a else { s with gen := { s.gen with advance := some a, late := late } }

/-- An advance may begin: it waits for a sweep that is due, since Gc − B stays below 4 (R357), and for an access that a later one
of its split has overtaken, since no cut comes between them (14 R335). -/
def State.mayAdvance (s : State) : Bool :=
  s.gen.refuses || (decide (s.gen.cur - s.gen.base < 3) && !s.fly.reqs.any fun q => q.overtaken && !q.done)

/-- A `snap` is next at the barrier unit: it is refused, or the advance begins, with the generation registers of `late` still to
be raised. -/
def State.beginAdvance (s : State) (o : Orphan) (core gid split : Nat) (late : List Nat) : State :=
  if s.gen.refuses then
    (s.snapServed core gid split).snapWrite o.mute o.ctx (o.va + 4) (toBytes 4 6) (.snapDone core gid split 0)
  else
    let r : GenRec := { newGen s.gen.cur o.ctx o.va o.desc with mute := o.mute }
    let a : Advance := { rec_ := r, core := core, gid := gid, split := split }
    let s := { s with gen := { s.gen with cur := s.gen.cur + 1, advance := some a } }
    s.broadcast a ((late.filter isUnit).eraseDups)

/-- SNAP_ADVANCE (R369): a `snap` at the package barrier unit, that of a split, or on core 0xFFFF the one at `gid` among those
whose group has been killed. While an advance is in progress, `turn.late` are the units that it has still not reached. -/
noncomputable def execSnapAdvance (core gid : Nat) (turn : SnapTurn) (s : State) : Out :=
  match s.gen.advance with
  | some a => .next (if a.is core gid turn.split then s.broadcast a (s.gen.late.filter turn.late.contains) else s)
  | none =>
    if !s.mayAdvance then .next s
    else if core = 0xFFFF then
      match s.gen.orphans[gid]? with
      | some o =>
        .next ({ s with gen := { s.gen with orphans := s.gen.orphans.eraseIdx gid } }.beginAdvance o 0xFFFF 0 0 turn.late)
      | none => .next s
    else
      match s.group core gid, s.waitOf core gid turn.split with
      | some g, some (.snap va desc _) => 
        .next (s.beginAdvance { ctx := g.ctx, va := va, desc := desc } core gid turn.split turn.late)
      | _, _ => .next s

/-! ## `snapq` and `snapdrop` (R370, R371) -/

/-- `snapq` with the value that `v` reads. -/
def snapqOp (i : Instr) (v : State → Header → Group → List Nat → Nat) (s : State) : Out :=
  gated i s fun c g p ls =>
    let h := s.hdr g
    let x := v s h g ls
    let s := s.issue c g p i ls.length
    .next ((s.updGroup c.core c.gid fun g' => (g'.writeAll h i ls x).setFlags (allUV h g i ls)).advance c)

/-- `snapq.state` (R370). -/
noncomputable def execSnapqState (f : FormE) (s : State) : Out :=
  let i := Instr.snapqState f
  snapqOp i (fun s h g ls => s.gen.stateOf (uniVal h g i.info.a i.view.a ls)) s

/-- `snapq.cur` (R370). -/
noncomputable def execSnapqCur (f : FormE) (s : State) : Out := snapqOp (.snapqCur f) (fun s _ _ _ => s.gen.cur) s

/-- `snapq.base` (R370). -/
noncomputable def execSnapqBase (f : FormE) (s : State) : Out := snapqOp (.snapqBase f) (fun s _ _ _ => s.gen.base) s

/-- `snapq.free` (R370). -/
noncomputable def execSnapqFree (f : FormE) (s : State) : Out := snapqOp (.snapqFree f) (fun s _ _ _ => s.gen.poolFree) s

/-- `snapdrop` (R371). A drain works page by page, so it has stopped at once. -/
noncomputable def execSnapdrop (f : Form1) (s : State) : Out :=
  let i := Instr.snapdrop f
  gated i s fun c g p ls =>
    let h := s.hdr g
    let n := uniVal h g i.info.a i.view.a ls
    if !s.maySnap g.ctx then .next (s.trapLow c g p cPROTECT 4 0)
    else
      let s' := s.issue c g p i ls.length
      let uv := allUV h g i ls
      let done := fun (s : State) (v : Nat) =>
        (s.updGroup c.core c.gid fun g' => (g'.writeAll h i ls v).setFlags uv).advance c
      match s.gen.retained.find? fun r => r.gen = n with
      | some r => .next (done (s'.endGeneration r 5) r.status)
      | none => .next (done s' 0)

/-! ## The spool (R373, R374) -/

/-- Pages that an engine has still to pass. -/
def Drain.left (d : Drain) (engine : Nat) : List Nat := if engine = 0 then d.left0 else d.left1

/-- The drain that an engine works on: the lowest generation with pages left for it. -/
def Gens.draining (g : Gens) (engine : Nat) : Option Drain :=
  g.drains.foldl (fun (best : Option Drain) d =>
    if (d.left engine).isEmpty then best
    else match best with
      | none => some d
      | some b => if d.gen < b.gen then some d else best) none

/-- Write bytes to host memory or to a peer, with the poison of some lines; at a peer's address that names this device they are
written at their home. -/
def State.outwardWrite (s : State) (ctx pa : Nat) (bs : List Byte) (bad : List Nat) : Written :=
  let a := s.memKey pa
  let mark := fun (s : State) => bad.foldl (fun (s : State) k => s.poisonLine (a / 64 + k)) s
  if s.isDevice pa then
    match s.homeWrite ctx 0xFFFF a bs false with
    | .done t => .done (mark t)
    | w => w
  else .done (mark (s.store a bs))

/-- Where a page of a drain goes, and where its index entry goes. -/
def GenRec.target (r : GenRec) (d : Drain) (page : Nat) : Nat × Option Nat :=
  if r.incr then (r.dest + 4096 * d.included.idxOf page, some (r.index + 8 * d.included.idxOf page))
  else (r.dest + (page * 4096 - r.rbase), none)

/-- Update a retained generation's record. -/
def Gens.updRec (g : Gens) (n : Nat) (f : GenRec → GenRec) : Gens :=
  { g with retained := g.retained.map fun r => if r.gen = n then f r else r }

/-- A page of a drain has been written: the counts, the pages left, the frames freed. -/
def State.pagePassed (s : State) (d : Drain) (r : GenRec) (page engine : Nat) (bad : Bool) : State :=
  let n := r.drained + 1
  let e := r.errPages + (if bad then 1 else 0)
  let gens := s.gen.updRec r.gen fun r => { r with drained := n, errPages := e, passed := r.passed ++ [page] }
  let drop := fun (l : List Nat) => l.filter (· ≠ page)
  let gens : Gens := { gens with drains := gens.drains.map fun (x : Drain) =>
    if x.gen = d.gen then (if engine = 0 then { x with left0 := drop x.left0 } else { x with left1 := drop x.left1 }) else x }
  { s with gen := gens.freeFrames }.snapWrite r.mute r.ctx (r.va + 0x30) (toBytes 4 n ++ toBytes 4 e) .nothing

/-- One page of a drain: its image, whose dirty lines come back to memory first, is written outward. -/
def State.drainPage (s : State) (d : Drain) (r : GenRec) (page engine : Nat) : Written :=
  if !s.recallable page then .wait else
  let im := s.image page r.gen
  let s := (s.recallPage page).detectAt (4096 * s.gen.imagePage page r.gen) 4096
  let to_ := r.target d page
  let second := fun (s : State) => match to_.2 with
    | some at_ => s.outwardWrite r.ctx at_ (toBytes 8 (page * 4096)) []
    | none => .done s
  match s.outwardWrite r.ctx to_.1 im.1 im.2 with
  | .done s =>
    match second s with
    | .done s => .done ((s.frameDone .table).pagePassed d r page engine (!im.2.isEmpty))
    | w => w
  | w => w

/-- The page that an engine is to drain next, with its drain and its generation. -/
def State.nextDrain (s : State) (engine : Nat) : Option (Drain × GenRec × Nat) := do
  let d ← s.gen.draining engine
  let r ← s.gen.retained.find? (fun r => r.gen = d.gen)
  let page ← (d.left engine).head?
  return (d, r, page)

/-- SPOOL_DRAIN_PAGE (R373): an engine drains its next page. -/
noncomputable def execSpoolDrainPage (engine : Nat) (s : State) : Out :=
  match s.nextDrain engine with
  | none => .next s
  | some (d, r, page) =>
    match s.drainPage d r page engine with
    | .done t => .next t
    | .frame => .next (s.noteFrame { who := .table, page := s.memKey (r.target d page).1 / 4096 })
    | .wait => .next s

/-- SPOOL_DRAIN_COMPLETION (R373): STATUS 3 and EVENT, and the drop of AUTODROP. -/
noncomputable def execSpoolDrainCompletion (gen : Nat) (s : State) : Out :=
  match s.gen.drains.find? (fun d => d.gen = gen), s.gen.retained.find? (fun r => r.gen = gen) with
  | some d, some r =>
    if !(d.left0.isEmpty && d.left1.isEmpty) then .next s
    else
      let gens := s.gen.updRec gen fun r => { r with status := 3 }
      let s := { s with gen := { gens with drains := gens.drains.filter (fun d => d.gen ≠ gen) } }
      let s := s.snapWrite r.mute r.ctx (r.va + 4) (toBytes 4 3) (.signal r.ctx r.event)
      .next (if r.autodrop then s.endGeneration r 5 else s)
  | _, _ => .next s

/-- SPOOL_DRAIN_ABANDON (R374): a write of the spool cannot be delivered. -/
noncomputable def execSpoolDrainAbandon (gen : Nat) (s : State) : Out :=
  match s.gen.drains.find? (fun d => d.gen = gen), s.gen.retained.find? (fun r => r.gen = gen) with
  | some _, some r => .next ((s.endGeneration r 4).post 0x0B 0 0 r.ctx 0xFFFF r.va 0)
  | _, _ => .next s

/-- An uncorrectable error in a tag line (R374): every retained generation is abandoned, and every tag of the line names
Gc. A 64-byte line of the tag area holds the tags of 256 pages. -/
def State.tagLineLost (s : State) (line : Nat) : State :=
  let s := s.gen.retained.foldl (fun (s : State) r => s.endGeneration r 4) s
  let pages := (List.range 256).map (· + 256 * line)
  { s with gen := pages.foldl (fun (g : Gens) p => g.setTag p g.cur) s.gen }

/-- The line of the tag areas that a line of memory is, counted over the stacks (10 R231). -/
def tagLine (line : Nat) : Option Nat :=
  if line < 2 ^ 34 ∧ 2 ^ 30 - 2 ^ 16 ≤ line % 2 ^ 30 then some (line / 2 ^ 30 * 2 ^ 16 + (line % 2 ^ 30 - (2 ^ 30 - 2 ^ 16))) else none

/-- What the use of lost tag lines does, at once (R374). -/
def State.settleTags (s : State) : State :=
  let s' := s.gen.tagLost.foldl (fun (s : State) l => match tagLine l with | some t => (s.detect l).tagLineLost t | none => s) s
  { s' with gen := { s'.gen with tagLost := [] } }

end Sys2Proof.Machine
end

