-- ==== Sys2Proof/Machine/Outside.lean ====
section
/-! DEFINITION. Peer devices and the host (15_coherence_and_host.md R348 to R354, 18_translation_tables.md R414, R415). -/

namespace Sys2Proof.Machine

/-! ## Which pages map a physical address -/

/-- The leaves below a table that map a physical address, each with the virtual address. -/
def State.mapsIn (s : State) (pa : Nat) : Nat → Nat → Nat → List (Nat × DWord)
  | 0, _, _ => []
  | level + 1, table, vp =>
    (List.range 512).flatMap fun i =>
      let e : DWord := BitVec.ofNat 64 (s.readN (table + 8 * i) 8)
      let v := vp + i * 2 ^ (12 + 9 * level)
      if !pteBit e 0 || e.toNat / 2 ^ 53 != 0 then []
      else if level = 0 ∨ pteBit e 52 = true then
        if pteFrame e ≤ pa ∧ pa < pteFrame e + leafSize (level + 1) then [(v + (pa - pteFrame e), e)] else []
      else if pteFrame e < 2 ^ 40 then s.mapsIn pa level (pteFrame e) v else []

/-- Every mapping of a physical address: context, virtual address, leaf entry. -/
def State.mappings (s : State) (pa : Nat) : List (Nat × DWord × DWord) :=
  if s.xl.ctxBase = 0 then []
  else (List.range 64).flatMap fun c =>
    if (s.context c).2 % 2 = 0 then []
    else (s.mapsIn pa 5 ((s.context c).1 / 4096 % 2 ^ 40 * 4096) 0).map fun m =>
      (c, (BitVec.ofNat 57 m.1).signExtend 64, m.2)

/-- The address lies in a sealed range of some context (13 R319). -/
def State.sealedPa (s : State) (pa : Nat) : Bool := (s.mappings pa).any fun m => s.sealed m.1 m.2.1

/-- An answer to the host or to a peer. -/
def State.answer (s : State) (r : Reply) : State := { s with coh := { s.coh with replies := r :: s.coh.replies } }

/-- A write from outside to a sealed range: the sender gets the refusal, the owner an event (13 R319). -/
def State.refuseWrite (s : State) (addr : Nat) : State :=
  (s.post 0x0A cSEALED 0 0xFF 0xFFFF (BitVec.ofNat 64 addr) 0).answer (.refused addr .sealed)

/-- A host is attached: the device is the bridging device of its group (01 R13). -/
def State.hasHost (s : State) : Bool := s.cust.bridging && (List.range 4).any fun p => s.cust.attach.getLsbD p

/-! ## Requests of peers (R349, R350) -/

/-- Address and length of a peer's request. -/
def peerSpan : PeerReq → Nat × Nat
  | .read _ a n => (a, n)
  | .write _ a bs => (a, bs.length)
  | .atomic _ a _ n _ => (a, n)
  | .cas _ a n _ _ => (a, n)
  | .redx _ a _ _ => (a / 64 * 64, 64)

/-- A peer's request writes. -/
def peerWrites : PeerReq → Bool
  | .read _ _ _ => false
  | _ => true

/-- The device that sends a request. -/
def peerDev : PeerReq → Nat
  | .read d _ _ | .write d _ _ | .atomic d _ _ _ _ | .cas d _ _ _ _ | .redx d _ _ _ => d

/-- What a peer's request makes of the word that is there, and its answer. -/
def peerStep (r : PeerReq) (old : List Byte) : List Byte × Reply :=
  let word := fun (a n : Nat) (f : Nat → Nat) => (toBytes n (f (ofBytes old)), Reply.data a old)
  match r with
  | .read _ a _ => (old, .data a old)
  | .write _ a bs => (bs, .written a)
  | .atomic _ a op n v => word a n fun o => atomOp op (8 * n) o v
  | .cas _ a n cmp new => word a n fun o => if o = cmp then new else o
  | .redx _ a size v => word a 64 fun o => redxLine (redxFmt size) o v.toNat

/-- The answer of a request needs the word that is there. -/
def peerReads : PeerReq → Bool
  | .write _ _ _ => false
  | _ => true

/-- Set D of every clean page that maps an address for writes (18 R406). -/
def State.dirtyMaps (s : State) (pa : Nat) : Written :=
  (s.mappings pa).foldl (fun (w : Written) m => match w with | .done t => t.setDirty m.1 m.2.1 | w => w) (.done s)

/-- The first page among those that a write from outside changes that has no shadow frame for its copy. -/
def State.frameless (s : State) (pa : Nat) : Nat :=
  let tables := (s.mappings pa).filterMap fun m => match s.leaf m.1 m.2.1 with | .found _ at_ _ => some (at_ / 4096) | _ => none
  ((pa / 4096 :: tables).find? fun p => (s.cowAt s.gen.cur p false).isNone).getD (pa / 4096)

/-- A peer's request at this device's home slice (R349): performed, refused, or waiting. The bridging device forwards one for
host memory (R351). -/
def State.peerTry (s : State) (r : PeerReq) : Written :=
  let a := (peerSpan r).1
  let n := (peerSpan r).2
  let line := a / 64
  let step := peerStep r (s.read a n)
  if a / 2 ^ 48 = 2 ∧ s.hasHost = true then .done ((if peerWrites r then s.store a step.1 else s).answer step.2)
  else if 2 ^ 40 ≤ a || !s.isDevice a || (s.mappings a).isEmpty then .done (s.answer (.refused a .notPresent))
  else if peerWrites r && s.sealedPa a then .done (s.refuseWrite a)
  else if !s.lostStack a && !(if peerWrites r then s.lineFree line && s.earlyFree line else s.lineCurrent line) then .wait
  else if peerReads r && s.badLine line then .done ((s.detect line).answer (.poison a))
  else if peerWrites r then
    match (s.detect line).dirtyMaps a with
    | .done t =>
      match t.homeWrite 0xFF 0xFFFF a step.1 false with
      | .done t => .done (t.answer step.2)
      | w => w
    | w => w
  else .done ((((s.detect line).useSnoop line).exchange (homeUnits line)).answer step.2)

/-- Present a peer's request: one that cannot be performed yet waits, behind those for its line that came before it. -/
def State.presentPeer (s : State) (r : PeerReq) : State :=
  let a := (peerSpan r).1
  let behind : State := { s with coh := { s.coh with peerReqs := s.coh.peerReqs ++ [r] } }
  if s.coh.peerReqs.any fun q => (peerSpan q).1 / 64 = a / 64 then behind
  else
    match s.peerTry r with
    | .done t => t.frameDone .outside
    | .frame => behind.noteFrame { who := .outside, page := s.frameless a }
    | .wait => behind

/-- The requests of peers that wait are presented again, in their order. -/
def State.settlePeers (s : State) : State :=
  s.coh.peerReqs.foldl State.presentPeer { s with coh := { s.coh with peerReqs := [] } }

/-- PEER_REQUEST (R349, R350). -/
noncomputable def execPeerRequest (r : PeerReq) (s : State) : Out :=
  if 64 ≤ peerDev r || peerDev r = s.dev || (peerSpan r).2 = 0 || (peerSpan r).1 % 64 + (peerSpan r).2 > 64 then .next s
  else .next (s.presentPeer r)

/-! ## Answers of peers and of the host to this device's accesses (R349, R350, R374) -/

/-- Code and DETAIL of a refusal (R350); that of poison is not asked. -/
def refusedFault : Refused → Nat × Nat
  | .sealed => (cSEALED, 0)
  | .notPresent => (cPROTECT, 2)
  | .reduction d => (cREDMODE, d)
  | .poisoned => (0x14, 0)

/-- Accesses of a request that go outside this device and may go now. -/
def State.outsideAccs (s : State) (r : Req) : List Acc :=
  r.accs.filter fun a => !a.performed && !s.isDevice a.pa && s.inOrder r a

/-- Give accesses their answers in lane order: each takes its own bytes of the data. -/
def takeAnswers (k : ReqKind) : List Acc → List Byte → List Acc
  | [], _ => []
  | a :: as, bs =>
    let old := ofBytes (bs.take a.n)
    { a with performed := true, result := if k = .rdx then rdxValue old else old } :: takeAnswers k as (bs.drop a.n)

/-- What memory outside holds after an answered access, as far as this device has seen it. -/
def State.seen (s : State) (k : ReqKind) (a : Acc) : State :=
  match k with
  | .store => s.storeBytesAt a.pa a.bytes
  | .load | .rdx => s.store a.pa (toBytes a.n a.result)
  | k => s.store a.pa (toBytes a.n (wordStep k a.n a.result a))

/-- A peer has acknowledged a request's accesses outside; `bad` says that the data it returns is poison (19 R426). -/
def State.acknowledge (s : State) (r : Req) (data : List Byte) (bad : Bool) : State :=
  let done := takeAnswers r.kind (s.outsideAccs r) data
  let s := if bad then s else done.foldl (fun (s : State) a => s.seen r.kind a) s
  s.setReq { r with sent := none, accs := r.accs.map fun (a : Acc) =>
    match done.find? fun b => b.lane = a.lane with
    | some b => { b with poison := bad }
    | none => a }

/-- A peer has refused a request: the group holds the fault under token 8, which no instruction names, and takes it at its next
clause header, `bar` or `sstep` (the model's choice, notes/assumptions/37.md); the destinations become full with their old
values (02 R54), unless the die has fenced itself (R345). -/
def State.refuseReq (s : State) (r : Req) (f : Nat × Nat) : State :=
  let va := match s.outsideAccs r with | a :: _ => a.va | [] => 0
  let s := { s with fly := { s.fly with reqs := s.fly.reqs.filter fun q => q.id ≠ r.id } }
  let s := if s.dieUp (dieOf r.core) then
      s.updGroup r.core r.gid fun g => r.dst.foldl (fun (g : Group) d => g.updThread d.1 (·.fill d.2.1)) g
    else s
  s.holdFault r.core r.gid r.ctx { tok := 8, code := f.1, detail := f.2, info := va }

/-- The address of a copy's next access outside this device, at which it waits: that of the unit which it moves next, of whose two
reads in a 4-bit transpose the first may lie inside. -/
def State.outsideVa (s : State) (c : Copy) : DWord :=
  let out := fun (va : DWord) => match (s.translate c.core c.ctx va .load).1 with | .ok pa _ => !s.isDevice pa | _ => false
  if c.dir = 0 then
    let first : DWord := BitVec.ofInt 64 (c.srcAddr c.moved 0)
    if c.tr = 2 ∧ out first = false then BitVec.ofInt 64 (c.srcAddr c.moved 1) else first
  else BitVec.ofInt 64 (c.dstAddr c.moved)

/-- A peer has refused a copy (13 R315); the bytes that it has moved are counted. -/
def State.refuseCopy (s : State) (c : Copy) (f : Nat × Nat) : State :=
  (s.closeCopy c).holdFault c.core c.gid c.ctx
    { tok := c.tok, code := f.1, detail := f.2 ||| 0x40, info := s.outsideVa c }

/-- A missing scale block of a started operation that lies outside this device. -/
def State.outsideBlock (s : State) (x : Pmma) : Option Nat :=
  (s.missing x).find? fun b =>
    match (s.translate x.core x.ctx (x.blockAddr b) .load).1 with
    | .ok pa _ => !s.isDevice pa
    | _ => false

/-- What has gone out to a peer or the host since the last step takes the present TIME (R350). -/
def State.settleSent (s : State) : State :=
  let stamp := fun (out : Bool) (t : Option Nat) => if out then some (t.getD s.clk.time) else none
  { s with fly := { s.fly with
      reqs := s.fly.reqs.map (fun (r : Req) => { r with sent := stamp (!(s.outsideAccs r).isEmpty) r.sent }),
      pmmas := s.fly.pmmas.map (fun (x : Pmma) => { x with sent := stamp (x.due.isSome && (s.outsideBlock x).isSome) x.sent }) } }

/-- Update a `pmma` in flight. -/
def State.updPmma (s : State) (id : Nat) (f : Pmma → Pmma) : State :=
  { s with fly := { s.fly with pmmas := s.fly.pmmas.map fun x => if x.id = id then f x else x } }

/-- The answer to a request's accesses outside: an acknowledgement, a refusal, or poison, which a write does not carry. -/
def State.answerReq (s : State) (r : Req) (data : List Byte) : Option Refused → State
  | none => s.acknowledge r data false
  | some .poisoned => s.acknowledge r data (r.kind.reads || !r.dst.isEmpty)
  | some f => s.refuseReq r (refusedFault f)

/-- The answer to a copy's sides outside. -/
def State.answerCopy (s : State) (c : Copy) (data : List Byte) : Option Refused → State
  | none => s.setCopy c.id (some { c with outside := some data })
  | some .poisoned => s.setCopy c.id (some { c with outside := some data, outsideBad := true })
  | some f => s.refuseCopy c (refusedFault f)

/-- The answer to a scale fill outside: the block, a refusal, or poison, which kills the workgroup (12 R286, 19 R426). -/
def State.answerFill (s : State) (x : Pmma) (b : Nat) (data : List Byte) : Option Refused → State
  | none => (s.updPmma x.id fun y => { y with sent := none }).putBlock x b (data ++ List.replicate (64 - data.length) 0)
  | some .poisoned => s.killWg x.wg
  | some f => s.abortPmma x (refusedFault f).1 (refusedFault f).2 (x.blockAddr b)

/-- PEER_RESPONSE (R349, R350): the answer to a request, a copy or a scale fill by its number. A number from 2^48 on is a
physical address outside this device, and the answer is what it holds. -/
noncomputable def execPeerResponse (req : Nat) (data : List Byte) (refusal : Option Refused) (s : State) : Out :=
  if 2 ^ 48 ≤ req then .next (if s.isDevice req || s.target req == .nothing then s else s.store req data)
  else
    match s.req req, s.copyOf req, s.pmmaOf req with
    | some r, _, _ => .next (if (s.outsideAccs r).isEmpty then s else s.answerReq r data refusal)
    | none, some c, _ => .next (if c.sent.isNone then s else s.answerCopy c data refusal)
    | none, none, some x =>
      match s.outsideBlock x with
      | some b => .next (s.answerFill x b data refusal)
      | none => .next s
    | none, none, none => .next s

/-- A request has gone undelivered for 1 ms of TIME. -/
def State.overdue (s : State) (sent : Option Nat) : Bool :=
  match sent with
  | some t => decide (t + 10 ^ 6 ≤ s.clk.time)
  | none => false

/-- ADXEL_ABANDON (R350): a request that could not be delivered for 1 ms is abandoned, and its context takes a context fault. -/
noncomputable def execAdxelAbandon (req : Nat) (s : State) : Out :=
  match s.req req, s.copyOf req, s.pmmaOf req with
  | some r, _, _ => .next (if s.overdue r.sent then s.contextFault r.ctx 0 0 r.core 0 0 else s)
  | none, some c, _ => .next (if c.outside.isNone && s.overdue c.sent then s.contextFault c.ctx 0 0 c.core 0 0 else s)
  | none, none, some x => .next (if s.overdue x.sent then s.contextFault x.ctx 0 0 x.core 0 0 else s)
  | none, none, none => .next s

/-! ## The host (R351 to R354) -/

/-- Set the bias bit of a page, at the home of the table's byte. -/
def State.setBias (s : State) (page : Nat) (b : Bool) : Written :=
  if s.xl.biasBase = 0 then .done s
  else
    let a := s.xl.biasBase.toNat + page / 8
    let old := s.readN a 1
    let bit := 2 ^ (page % 8)
    let new := if b then old ||| bit else if old.testBit (page % 8) then old - bit else old
    s.homeWrite 0xFF 0xFFFF a (toBytes 1 new) false

/-- The home may perform an operation of the host on a line: no device die holds a copy, and no L1 of its own die. -/
def State.hostFree (s : State) (line : Nat) : Bool :=
  s.dieUp (homeDie (line * 64)) && !s.transient line && (s.entry line).st == .i && (s.bucketCores (homeDie (line * 64)) line).isEmpty

/-- A write of the host at its home. -/
def State.hostWrite (s : State) (pa : Nat) (bs : List Byte) : Written :=
  let ls := linesIn pa bs.length
  if s.lostStack pa then .done (s.post 0x0A 0 0 0xFF 0xFFFF (BitVec.ofNat 64 pa) 0)
  else if !ls.all (fun l => s.hostFree l && s.earlyFree l) then .wait
  else s.prepared (ls.flatMap homeUnits) (pa / 4096) false fun t => t.store pa bs

/-- The flip of a page that is in progress: the oldest. -/
def State.flipOf (s : State) (page : Nat) : Option Flip := s.coh.flips.find? fun f => f.page = page

/-- A flip of the page to host bias is requested or under way; one that is not requested yet is started. -/
def State.wantFlip (s : State) (page : Nat) : State :=
  let coming := match s.coh.flips.reverse.find? fun f => f.page = page with
    | some f => f.toHost
    | none => false
  if coming then s
  else { s with coh := { s.coh with flips := s.coh.flips ++ [{ page := page, toHost := true, waitingLines := [] }] } }

/-- The owner's table maps the page as bias-managed, and the decoder exposes it (R351, R352). -/
def State.biasManaged (s : State) (addr : Nat) : Bool :=
  decide (addr < 2 ^ 40) && s.tagged (addr / 4096) && s.xl.biasBase != 0 && (s.mappings addr).any fun m => pteBit m.2.2 7

/-- A host request on a page under host bias, with no flip in progress: what the host has answered for the line before stands no
longer. -/
def State.serveHost (s : State) (q : HostReq) : Written :=
  let line := q.addr / 64
  let s := s.useSnoop line
  match q.write with
  | none =>
    if !s.lostStack q.addr && !(s.lineAtHome line && s.earlyFree line) then .wait
    else if s.badLine line then .done ((s.detect line).answer (.poison q.addr))
    else .done (((s.detect line).exchange (homeUnits line)).answer (.data (64 * line) (s.read (64 * line) 64)))
  | some bs =>
    if s.sealedPa q.addr then .done (s.refuseWrite q.addr)
    else match s.hostWrite q.addr bs with
      | .done t => .done (t.answer (.written q.addr))
      | w => w

/-- The host has answered for a line: the flip that waits for it goes on, or the device access does, as `inv` says after a
BISnpInv or a BISnpData (R352, R353). -/
def State.snoopDone (s : State) (line : Nat) (inv : Bool) : State :=
  match s.flipOf (line / 64) with
  | some f =>
    let flips := s.coh.flips.map fun (g : Flip) => if g = f then { g with waitingLines := g.waitingLines.erase line } else g
    { s with coh := { s.coh with flips := flips } }
  | none => { s with coh := { s.coh with snooped := (line, inv) :: s.coh.snooped.filter (·.1 ≠ line) } }

/-- What the host writes back for a line, and the end of its answer (16 R361); a sealed line keeps its data (14 R334). -/
def State.takeBack (s : State) (line : Nat) (inv : Bool) (bs : List Byte) : Written :=
  if s.sealedPa (64 * line) then .done ((s.refuseWrite (64 * line)).snoopDone line inv)
  else match s.hostWrite (64 * line) bs with
    | .done t => .done (t.snoopDone line inv)
    | w => w

/-- Present a host request: answered with poison, served, or waiting for a flip, a line or a frame. -/
def State.presentHost (s : State) (inv : Nat → Bool) (q : HostReq) : State :=
  let page := q.addr / 4096
  let put := fun (s : State) => ({ s with coh := { s.coh with hostReqs := s.coh.hostReqs ++ [q] } } : State)
  let go := fun (w : Written) => match w with
    | .done t => t.frameDone .outside
    | .frame => (put s).noteFrame { who := .outside, page := page }
    | .wait => put s
  if q.back then go (s.takeBack (q.addr / 64) (inv (q.addr / 64)) ((q.write.getD []).take 64))
  else if !s.biasManaged q.addr then
    (s.post 0x0A 0 0 0xFF 0xFFFF (BitVec.ofNat 64 q.addr) 0).answer (.poison q.addr)
  else if (s.flipOf page).isSome || !s.biasBit page then put (s.wantFlip page)
  else if s.coh.hostReqs.any fun x => !x.back && x.addr / 64 = q.addr / 64 then put s
  else go (s.serveHost q)

/-- The host requests that wait are presented again, in their order. -/
def State.settleHost (s : State) (inv : Nat → Bool) : State :=
  s.coh.hostReqs.foldl (fun (s : State) q => s.presentHost inv q) { s with coh := { s.coh with hostReqs := [] } }

/-- HOST_REQUEST (R351, R352). -/
noncomputable def execHostRequest (addr : Nat) (write : Option (List Byte)) (s : State) : Out :=
  let n := match write with | some bs => bs.length | none => 64
  if !s.hasHost || n = 0 || 64 < addr % 64 + n && write.isSome then .next s
  else .next (s.presentHost (fun _ => false) { addr := addr, write := write })

/-- The home can flush a line: every die that holds a copy answers. -/
def State.mayFlush (s : State) (line : Nat) : Bool :=
  let h := homeDie (line * 64)
  s.dieUp h && (s.entry line).holders.all fun d => s.dieUp d && s.reach h d

/-- Every device copy of a page's lines goes, with the L1 copies (R353). -/
def State.flushPage (s : State) (page : Nat) : State :=
  (flipLines page).foldl (fun (s : State) l =>
    let s := dies8.foldl (fun (s : State) d => (s.dropL1 d l).updDie d fun x => { x with l2 := x.l2.filter (· ≠ l) }) s
    s.setEntry l { s.entry l with st := .i, owner := 0, sharers := 0, written := false }) s

/-- A flip ends once its bit can be written. -/
def State.endFlip (s : State) (f : Flip) : State :=
  match s.setBias f.page f.toHost with
  | .done s => { s.frameDone .table with coh := { s.coh with flips := s.coh.flips.erase f } }
  | .frame => s.noteFrame { who := .table, page := (s.xl.biasBase.toNat + f.page / 8) / 4096 }
  | .wait => s

/-- BIAS_FLIP_TO_HOST (R353, R354): the page is flushed and the bit is set; the waiting host requests are served then. -/
noncomputable def execBiasFlipToHost (page : Nat) (s : State) : Out :=
  match s.flipOf page with
  | none => .next s
  | some f =>
    if !f.toHost || !(flipLines page).all s.mayFlush then .next s
    else
      let s := s.flushPage page
      .next ({ s with coh := { s.coh with invals := s.coh.invals.filter (fun v => v.line / 64 ≠ page) } }.endFlip f)

/-- BIAS_FLIP_TO_DEVICE (R353): the host has answered for all 64 lines. A host request that waits starts a flip back. -/
noncomputable def execBiasFlipToDevice (page : Nat) (s : State) : Out :=
  match s.flipOf page with
  | none => .next s
  | some f =>
    if f.toHost || !f.waitingLines.isEmpty then .next s
    else .next (s.endFlip f)

end Sys2Proof.Machine
end

