-- ==== Sys2Proof/Machine/Barriers.lean ====
section
/-! DEFINITION. Named barriers, supersteps and event counters (17_queues_scheduling.md R385 to R389, R398). -/

namespace Sys2Proof.Machine

/-! ## Named barriers (R387, R388) -/

/-- Requests and copies that an arrival orders before its release (14 R327, 13 R314). -/
def State.beforeArrival (s : State) (c : Cur) : List Nat :=
  s.earlier c (fun _ => true) ++
    (s.fly.copies.filter fun x => x.core = c.core && x.gid = c.gid).map (·.id)

/-- Workgroups of a split's lanes, each with its number of lanes. -/
def laneWgs (g : Group) (ls : List Nat) : List (Nat × Nat) :=
  let ws := (ls.map fun l => (g.thread l).wg).eraseDups
  ws.map fun w => (w, (ls.filter fun l => (g.thread l).wg = w).length)

/-- `n` threads arrive at barrier `b` of a workgroup. -/
def State.arriveBar (s : State) (w b n : Nat) (ids : List Nat) : State :=
  s.updWg w fun x => { x with barCount := FMap.put x.barCount b ((FMap.find x.barCount b).getD 0 + n),
                              barReqs := FMap.put x.barReqs b ((FMap.find x.barReqs b).getD [] ++ ids) }

/-- Phase of a barrier. -/
def Wg.phase (w : Wg) (b : Nat) : Nat := (FMap.find w.barPhase b).getD 0

/-- A barrier releases its open phase when enough threads have arrived and what came before is performed (R387). -/
def State.releaseBar (s : State) (w : Nat) (b : Nat) : State :=
  match s.wg w with
  | none => s
  | some x =>
    match FMap.find x.barCount b with
    | none => s
    | some a =>
      if s.liveOf w ≤ a && s.allPerformed ((FMap.find x.barReqs b).getD []) then
        s.updWg w fun x => { x with barCount := FMap.erase x.barCount b, barReqs := FMap.erase x.barReqs b,
                                    barPhase := FMap.put x.barPhase b (x.phase b + 1) }
      else s

/-- Every barrier that can release does so. -/
def State.settleBarriers (s : State) : State :=
  s.wgs.foldl (fun (s : State) e => e.2.barCount.foldl (fun (s : State) b => s.releaseBar e.1 b.1) s) s

/-- `bar` and `bara`: the arrival. A fault that the group holds for a token is taken at a `bar` (`takes`) and not at a
`bara` (12 R286, 13 R315). -/
def barOp (i : Instr) (takes : Bool) (s : State)
    (k : State → Cur → List (Nat × Nat × Nat) → Out) : Out :=
  gated i s fun c g p ls =>
    let h := s.hdr g
    let b := uniVal h g i.info.a i.view.a ls
    match if takes then g.heldFor none else none with
    | some x => .next (s.takeHeld c p x)
    | none =>
      if h.barriers ≤ b then .next (s.trapLow c g p cRESOURCE 0 0)
      else
        let ids := s.beforeArrival c
        let ws := laneWgs g ls
        let tickets := ws.map fun w => (w.1, b, match s.wg w.1 with | some x => x.phase b | none => 0)
        let uv := allUV h g i ls
        let s := (s.issue c g p i ls.length).updGroup c.core c.gid (·.setFlags uv)
        k (ws.foldl (fun (s : State) w => s.arriveBar w.1 b w.2 ids) s) c tickets

/-- `bar` (R387): it arrives and waits for the release. -/
noncomputable def execBar (f : FormE) (s : State) : Out :=
  barOp (.bar f) true s fun s c tickets => .next (s.stall c (.barrier tickets) (some c.next)).settleBarriers

/-- `bara` (R387): it arrives and goes on. -/
noncomputable def execBara (f : FormE) (s : State) : Out :=
  barOp (.bara f) false s fun s c _ => .next (s.advance c).settleBarriers

/-! ## Supersteps (R389) -/

/-- QUEUE, 0x13. -/
def cQUEUE : Nat := 0x13

/-- Workgroups of a launch's grid, one stage. -/
def LaunchRec.coords (r : LaunchRec) : Nat := r.gx * r.gy * r.gz

/-- Cohort of a grid coordinate (R383). -/
def LaunchRec.cohortOf (r : LaunchRec) (coord : Nat) : Nat := if r.sscope = 5 then 0 else coord / Nat.max 1 r.cohort

/-- Cohort of a grid workgroup. -/
def LaunchRec.wgCohort (r : LaunchRec) (wgid : Word) : Nat := r.cohortOf (wgid.toNat % Nat.max 1 r.coords)

/-- Live threads of a cohort: resident ones, and those that wait for their restore. -/
def State.cohortLive (s : State) (l : Nat) (x : Launch) (cohort : Nat) : Nat :=
  (s.wgs.foldl (fun n e => if e.2.launch = l && e.2.node.isNone && x.lr.wgCohort e.2.wgid == cohort then n + s.liveOf e.1 else n) 0) +
    x.away.foldl (fun n a => if a.node.isNone && a.cohort == cohort then n + a.live else n) 0

/-- Phase of a launch's superstep barrier. -/
def Launch.ssPhaseOf (x : Launch) (cohort : Nat) : Nat := (FMap.find x.ssPhase cohort).getD 0

/-- `n` threads of a cohort arrive. -/
def State.arriveStep (s : State) (l cohort n : Nat) (ids : List Nat) : State :=
  s.updLaunch l fun x => { x with ssCount := FMap.put x.ssCount cohort ((FMap.find x.ssCount cohort).getD 0 + n),
                                  ssReqs := FMap.put x.ssReqs cohort ((FMap.find x.ssReqs cohort).getD [] ++ ids) }

/-- `sstep` (R389): every active thread arrives in its own cohort, and the split waits. -/
noncomputable def execSstep (f : FormE) (s : State) : Out :=
  gated (.sstep f) s fun c g p ls =>
    match g.heldFor none with
    | some x => .next (s.takeHeld c p x)
    | none =>
      match s.launch g.launch with
      | none => .next (s.trapLow c g p cQUEUE 3 0)
      | some x =>
        let node := match s.wg (wgOf g p) with | some w => w.node.isSome | none => false
        if x.lr.sscope = 0 ∨ f.escope ≠ x.lr.sscope ∨ node = true then .next (s.trapLow c g p cQUEUE 3 0)
        else
          let ids := s.beforeArrival c
          let cohorts := (laneWgs g ls).map fun w =>
            ((match s.wg w.1 with | some y => x.lr.wgCohort y.wgid | none => 0), w.2)
          let tickets := (cohorts.map (·.1)).eraseDups.map fun k => (k, x.ssPhaseOf k)
          let s := s.issue c g p (.sstep f) ls.length
          let s := cohorts.foldl (fun (s : State) k => s.arriveStep g.launch k.1 k.2 ids) s
          .next (s.stall c (.superstep g.launch tickets) (some c.next))

/-- A member of a cohort is saved and away (R389): a workgroup that waits for its restore, or a group that a pre-emption in
progress has already taken off its core. -/
def State.cohortAway (s : State) (l : Nat) (x : Launch) (cohort : Nat) : Bool :=
  x.away.any (fun a => a.node.isNone && a.cohort == cohort) ||
    s.cores.any fun c => c.2.saved.any fun y => y.group.launch == l && y.group.lanes.any fun t =>
      !y.group.dead.getLsbD t.1 && (match s.wg t.2.wg with | some w => x.lr.wgCohort w.wgid == cohort | none => false)

/-- The phase of a cohort can release: its arrivals have reached its live threads, what came before them is performed, and no
member waits for its restore. -/
def State.stepReady (s : State) (l cohort : Nat) : Bool :=
  match s.launch l with
  | none => false
  | some x =>
    match FMap.find x.ssCount cohort with
    | none => false
    | some a => decide (s.cohortLive l x cohort ≤ a) && !s.cohortAway l x cohort && s.allPerformed ((FMap.find x.ssReqs cohort).getD [])

/-- SUPERSTEP_RELEASE (R389). -/
noncomputable def execSuperstepRelease (launch cohort : Nat) (s : State) : Out :=
  if s.stepReady launch cohort then
    .next (s.updLaunch launch fun x =>
      { x with ssCount := FMap.erase x.ssCount cohort, ssReqs := FMap.erase x.ssReqs cohort,
               ssPhase := FMap.put x.ssPhase cohort (x.ssPhaseOf cohort + 1) })
  else .next s

/-! ## Event counters (R398) -/

/-- Stages 6 and 7 of `evsig` and `evwait` on the counter's address, then `k` with the physical address and its entry. -/
def eventOp (i : Instr) (acc : Access) (s : State) (k : State → Cur → Group → Split → List Nat → DWord → Nat → DWord → Out) :
    Out :=
  gated i s fun c g p ls =>
    let g := g.asIssued p
    let va : DWord := BitVec.ofNat 64 (uniVal (s.hdr g) g i.info.a i.view.a ls)
    if va.toNat % 8 ≠ 0 then .next (s.trapLow c g p cMISALIGN 0 va)
    else
      let r := s.translate c.core g.ctx va acc
      match r.1 with
      | .trap code detail => .next (s.trapLow c g p code detail va)
      | .noContext d => .next (s.walkFault g.ctx d c.core c.pc va (g.thread (lowLane ls)).tid)
      | .busy line => .next (s.stall c (.lines [(line, false)]) none)
      | .page => .next (s.parkWhole c g ls (va, acc.kind, false))
      | .light => .next (s.parkWhole c g ls (va, acc.kind, true))
      | .ok pa e =>
        if pteBit e 4 then .next (s.trapLow c g p cPROTECT 3 va)
        else k (s.fillTlb c.core r.2) c g p ls va pa e

/-- `evsig` (R398): a release, whose add is performed at the counter's home. -/
noncomputable def execEvsig (f : FormE) (s : State) : Out :=
  let i := Instr.evsig f
  eventOp i .add s fun s c g p ls va pa e =>
    let uv := allUV (s.hdr g) g i ls
    if !s.slotsFree c.core 1 then .next (s.stall c (.slots 1) none) else
    let acc : Acc := { lane := lowLane ls, va := va, pa := pa, n := 8, op1 := uniVal (s.hdr g) g i.info.b i.view.b ls,
                       sx := pteBit e 5, cp := pteCP e }
    let m : MemShape := { kind := .signal, access := .add, n := 8, order := 2, scope := f.escope, returns := false }
    let s := (s.issue c g p i ls.length).updGroup c.core c.gid (·.setFlags uv)
    .next ((s.addReq (newReq c g p m false [acc] [])).advance c)

/-- `evwait` (R398): it waits at the counter. -/
noncomputable def execEvwait (f : FormE) (s : State) : Out :=
  let i := Instr.evwait f
  eventOp i .load s fun s c g p ls va _ _ =>
    let uv := allUV (s.hdr g) g i ls
    let thr := uniVal (s.hdr g) g i.info.b i.view.b ls
    let s := (s.issue c g p i ls.length).updGroup c.core c.gid (·.setFlags uv)
    .next (s.stall c (.event va thr f.escope) (some c.next))

/-- A wait whose address no longer answers as it did: the instruction runs again, with no second issue, and meets what there is
to meet. -/
def Split.again (p : Split) (rrb now : Nat) : Split :=
  { p with wait := if p.clause.isNone then .held else .ready, resume := none, rt := now, issued := true,
           replay := some { rrb := rrb, dst := [], instr := 0 } }

/-- EVWAIT_REREAD (R398): the counter is read through its present translation, after the split's earlier accesses to its
bytes, once in a cycle; at or above the threshold the wait ends as an acquire. A counter outside this device is read as the last answer for
it stands (PEER_RESPONSE). -/
noncomputable def execEvwaitReread (core gid split : Nat) (s : State) : Out :=
  match s.group core gid with
  | none => .next s
  | some g =>
    match g.split split with
    | none => .next s
    | some p =>
      match p.wait with
      | .event va thr scope =>
        let r := s.translate core g.ctx va .load
        let again := s.updSplit core gid split (·.again g.rrb s.now)
        match r.1 with
        | .ok pa e =>
          let line := pa / 64
          let mine := s.fly.reqs.any fun r => r.core = core && r.gid = gid && r.splits.getLsbD split && !r.done &&
            (r.acquires || r.accs.any fun a => !a.performed && decide (a.pa < pa + 8) && decide (pa < a.pa + a.n))
          let ok := !s.isDevice pa || s.lostStack pa ||
            (s.served line false && s.lineAtHome line && s.reach (dieOf core) (homeDie pa) &&
              s.earlyOk pa 8 (·.blind true scope core gid (wgOf g p) (wgsIn g p)))
          if pteBit e 4 then .next again
          else if mine || !ok || !s.dieUp (dieOf core) || decide (s.now ≤ p.rt) then .next s
          else
            let bad := s.isDevice pa && s.badLine line
            let s := s.fillTlb core r.2
            let s := if s.isDevice pa then s.homeRead core (some g.ctx) line else s
            if bad then .next (s.killShared core gid)
            else if thr ≤ s.readN pa 8 then
              .next (s.updSplit core gid split fun p => p.goPast (p.resume.getD p.pc) s.now)
            else .next (s.updSplit core gid split fun p => { p with rt := s.now })
        | .busy _ => .next s
        | .trap _ _ | .page | .light | .noContext _ => .next again
      | _ => .next s

end Sys2Proof.Machine
end

