-- ==== Sys2Proof/Machine/WorkGraph.lean ====
section
/-! DEFINITION. Work graphs: node FIFOs, their records and their balancing (17_queues_scheduling.md R390 to R396). -/

namespace Sys2Proof.Machine

/-! ## The queue store (R391) -/

/-- Bytes of a team's queue store. -/
def queueStore : Nat := 262144

/-- Bytes of a list of records. -/
def recBytes (l : List NodeRec) : Nat := l.foldl (fun n r => n + r.bytes.length) 0

/-- The records that lie in a team's store or shares, each with its launch: those of its FIFOs, and those in transit to it, for which
room is held (R395). -/
def Queues.held (q : Queues) (team : Nat) : List (Nat × NodeRec) :=
  (q.fifos.flatMap fun f => if f.team = team then f.recs.map fun r => (f.launch, r) else []) ++
    q.transit.flatMap fun t => if t.team = team then t.recs.map fun r => (t.launch, r) else []

/-- Bytes of a team's store in use. -/
def Queues.storeUsed (q : Queues) (team : Nat) : Nat :=
  recBytes (((q.held team).filter fun e => e.2.spilled.isEmpty).map (·.2))

/-- Bytes of a team's share of a launch's spill area in use. -/
def Queues.spillUsed (q : Queues) (team launch : Nat) : Nat :=
  recBytes (((q.held team).filter fun e => e.1 = launch && !e.2.spilled.isEmpty).map (·.2))

/-- The words of a team's share of a launch's spill area in use. -/
def Queues.spillWords (q : Queues) (team launch : Nat) : List Nat :=
  (q.held team).flatMap fun e => if e.1 = launch then e.2.spilled else []

/-- A team's share of a launch's spill area in bytes. -/
def State.spillShare (s : State) (launch : Nat) : Nat :=
  match s.launch launch with
  | some x => if x.lr.spillBase = 0 then 0 else x.lr.spillSize / 128 * 4096
  | none => 0

/-- Free bytes of a team's store and of its spill share for a launch. -/
def State.queueFree (s : State) (team launch : Nat) : Nat × Nat :=
  (queueStore - s.q.storeUsed team, s.spillShare launch - s.q.spillUsed team launch)

/-- Records of these sizes find room, in order, in what is free. -/
def fitsFree : List Nat → Nat × Nat → Bool
  | [], _ => true
  | n :: ns, (a, b) => if n ≤ a then fitsFree ns (a - n, b) else if n ≤ b then fitsFree ns (a, b - n) else false

/-- A FIFO's records. -/
def Queues.fifo (q : Queues) (team launch node : Nat) : Option Fifo :=
  q.fifos.find? fun f => f.team = team && f.launch = launch && f.node = node

/-- Replace a FIFO's records; an empty one is not listed. -/
def Queues.setFifo (q : Queues) (team launch node : Nat) (rs : List NodeRec) (expired : Bool) : Queues :=
  let others := q.fifos.filter fun f => !(f.team = team && f.launch = launch && f.node = node)
  { q with fifos := if rs.isEmpty then others
                    else others ++ [{ team := team, launch := launch, node := node, recs := rs, expired := expired }] }

/-- The 8-byte words of the team's share that a spilled record takes: the lowest that are free. Where in the share a record
lies is the model's choice (notes/assumptions/30.md). -/
def State.spillRoom (s : State) (team launch n : Nat) : List Nat :=
  let used := s.q.spillWords team launch
  ((List.range (used.length + n)).filter fun w => !used.contains w).take n

/-- Write a spilled record to the team's share of the launch's spill area, in the launch's context (R391). -/
def State.spill (s : State) (team launch : Nat) (words : List Nat) (bs : List Byte) : State :=
  match s.launch launch with
  | none => s
  | some x =>
    let base := x.lr.spillBase + BitVec.ofNat 64 (team * s.spillShare launch)
    (words.mapIdx fun i w => (i, w)).foldl (fun (s : State) e =>
      s.descriptorWrite x.lr.ctx (base + BitVec.ofNat 64 (8 * e.2)) ((bs.drop (8 * e.1)).take 8) .nothing) s

/-- Where a record of some bytes goes at a team: to its store, or to its share of the spill area when that is full (R391). -/
def State.roomFor (s : State) (team launch : Nat) (bs : List Byte) : NodeRec :=
  { bytes := bs, entered := s.now,
    spilled := if (s.queueFree team launch).1 < bs.length then s.spillRoom team launch ((bs.length + 7) / 8) else [] }

/-- A record that has its room enters a FIFO as the newest, and starts its wait (R392, R395). -/
def State.putRec (s : State) (team launch node : Nat) (r : NodeRec) : State :=
  let old := s.q.fifo team launch node
  let q := s.q.setFifo team launch node ((old.map (·.recs)).getD [] ++ [{ r with entered := s.now }]) ((old.map (·.expired)).getD false)
  ({ s with q := q } : State).spill team launch r.spilled r.bytes

/-- Append one record as the newest (R391, R392). -/
def State.appendRec (s : State) (team launch node : Nat) (bs : List Byte) : State :=
  s.putRec team launch node (s.roomFor team launch bs)

/-- Take the `n` oldest records of a FIFO. -/
def State.popRecs (s : State) (team launch node n : Nat) : List NodeRec × State :=
  match s.q.fifo team launch node with
  | none => ([], s)
  | some f => (f.recs.take n, { s with q := s.q.setFifo team launch node (f.recs.drop n) (f.expired && n == 0) })

/-- A FIFO's node table entry. -/
def State.nodeEntry (s : State) (launch node : Nat) : Option NodeEntry :=
  match s.launch launch with
  | some x => x.nodeTab[node]?
  | none => none

/-- A FIFO is due (R393). -/
def State.fifoDue (s : State) (f : Fifo) : Bool :=
  match s.nodeEntry f.launch f.node with
  | some e => decide (e.batch ≤ f.recs.length) || f.expired
  | none => false

/-! ## `enq` and `deq` (R392, R394) -/

/-- `enq` (R392): its checks, its release, and the records of its threads in ascending lane order. -/
noncomputable def execEnq (f : FormE) (s : State) : Out :=
  let i := Instr.enq f
  gated i s fun c g p ls =>
    let h := s.hdr g
    let off := fun l => fieldVal h g.rrb (g.thread l) i.info.a i.view.a .int
    let node := fun l => fieldVal h g.rrb (g.thread l) i.info.b i.view.b .int
    let size := fun l => match s.nodeEntry g.launch (node l) with | some e => e.recSize | none => 0
    match stageTrap c ((ls.filter fun l => (s.nodeEntry g.launch (node l)).isNone).map fun l => (cQUEUE, 1, l)) (fun _ => 0) with
    | some t => .next (s.trap c t)
    | none =>
      let bad := ls.filterMap fun l =>
        if off l % 8 ≠ 0 then some (cMISALIGN, 0, l) else if h.scratch < off l + size l then some (cSCRATCH, 0, l) else none
      match stageTrap c bad (fun l => BitVec.ofNat 64 (off l)) with
      | some t => .next (s.trap c t)
      | none =>
        match s.earlier c (fun _ => true) with
        | id :: ids => .next (s.stall c (.requests (id :: ids)) none)
        | [] =>
          let team := teamOf c.core
          let sizes := ls.map size
          if !fitsFree sizes (s.queueFree team g.launch) then
            let full := s.q.queueFull.contains (team, g.launch)
            let s := if full then s else
              { s.post 0x07 0 0 g.ctx c.core 0 0 with q := { s.q with queueFull := (team, g.launch) :: s.q.queueFull } }
            .next (s.stall c (.queueRoom sizes) none)
          else
            let recs := ls.map fun l =>
              (node l, match s.wg (g.thread l).wg with | some w => s.wgRead w h (off l) (size l) | none => [])
            let s := s.issue c g p i ls.length
            let s := { s with q := { s.q with queueFull := s.q.queueFull.filter (· ≠ (team, g.launch)) } }
            .next ((recs.foldl (fun (s : State) r => s.appendRec team g.launch r.1 r.2) s).advance c)

/-- ENQ_RESUME (R391): room has freed for an `enq` that waits. -/
noncomputable def execEnqResume (core gid split : Nat) (s : State) : Out :=
  match s.group core gid with
  | none => .next s
  | some g =>
    match (g.split split).map Split.wait with
    | some (.queueRoom sizes) =>
      if fitsFree sizes (s.queueFree (teamOf core) g.launch) then
        .next (s.updSplit core gid split fun p =>
          { p with wait := if p.clause.isNone then .held else .ready, rt := s.now })
      else .next s
    | _ => .next s

/-- Write records to a workgroup's scratch, one after another (R393, R394). -/
def State.writeRecs (s : State) (w : Wg) (h : Header) (size : Nat) : Nat → List NodeRec → State
  | _, [] => s
  | off, r :: rs => State.writeRecs (s.blockStore w h off r.bytes) w h size (off + size) rs

/-- `deq` (R394). -/
noncomputable def execDeq (f : FormE) (s : State) : Out :=
  let i := Instr.deq f
  gated i s fun c g p ls =>
    let h := s.hdr g
    let a := uniVal h g i.info.a i.view.a ls
    let m := uniVal h g i.info.b i.view.b ls
    if m = 0 ∨ 1024 < m then .next (s.trapLow c g p cILLEGAL 3 0)
    else
      match (s.wg (wgOf g p)).bind fun w => w.node.map fun n => (w, n) with
      | none => .next (s.trapLow c g p cQUEUE 2 0)
      | some (w, n) =>
        let size := match s.nodeEntry g.launch n.node with | some e => e.recSize | none => 8
        let info : DWord := BitVec.ofNat 64 a
        if a % 8 ≠ 0 then .next (s.trapLow c g p cMISALIGN 0 info)
        else if h.scratch < a + m * size then .next (s.trapLow c g p cSCRATCH 0 info)
        else s.afterAcquires c (s.donePan c g p i ls fun s =>
          let y := s.popRecs n.team g.launch n.node m
          (y.2.writeRecs w h size a y.1).updGroup c.core c.gid (·.writeAll h i ls y.1.length))

/-! ## MAXWAIT and the exchange (R393, R395) -/

/-- MAXWAIT_EXPIRY (R393): the oldest record of a FIFO has waited MAXWAIT cycles. -/
noncomputable def execMaxwaitExpiry (team launch node : Nat) (s : State) : Out :=
  match s.q.fifo team launch node, s.nodeEntry launch node with
  | some f, some e =>
    match f.recs.head? with
    | some r =>
      if r.entered + e.maxWait ≤ s.now then .next { s with q := s.q.setFifo team launch node f.recs true } else .next s
    | none => .next s
  | _, _ => .next s

/-- A move that an engine decides: from a team to a neighbour, of a node's newest records. -/
structure Move where
  src : Nat
  dst : Nat
  launch : Nat
  node : Nat
  n : Nat
  deriving DecidableEq, Repr

/-- Depth that a team sends. -/
def Queues.depth (q : Queues) (team launch node : Nat) : Nat := ((q.fifo team launch node).map (·.recs.length)).getD 0

/-- The neighbours of a team, the shallower first and of equal depth the lower (R395). -/
def Queues.neighbours (q : Queues) (f : Fifo) : List Nat :=
  let a := (f.team + 127) % 128
  let b := (f.team + 1) % 128
  let da := q.depth a f.launch f.node
  let db := q.depth b f.launch f.node
  if da < db ∨ (da = db ∧ a < b) then [a, b] else [b, a]

/-- Records of `n` bytes that find room in what is free: each lies wholly in the store or wholly in the share (R391). -/
def recordRoom (n : Nat) (free : Nat × Nat) : Nat := free.1 / n + free.2 / n

/-- What is free after `k` records of `n` bytes, the store being taken first. -/
def roomAfter (n k : Nat) (free : Nat × Nat) : Nat × Nat :=
  let a := Nat.min k (free.1 / n)
  (free.1 - a * n, free.2 - (k - a) * n)

/-- The free record capacity that a neighbour has sent, less twice what moves from a team to it take already, since it receives from
both its sides: half of it is what more may be moved (R395). -/
def State.freeCapacity (s : State) (ms : List Move) (size : Nat → Nat → Nat) (t u launch rs : Nat) : Nat :=
  recordRoom rs ((ms.filter fun m => m.src = t && m.dst = u).foldl
    (fun free m => roomAfter (Nat.max 1 (size m.launch m.node)) (2 * m.n) free) (s.queueFree u launch))

/-- The moves of one FIFO, given those decided so far. -/
def State.movesOf (s : State) (size : Nat → Nat → Nat) (f : Fifo) (ms : List Move) : List Move :=
  let thr := match s.launch f.launch with | some x => if x.lr.balthr = 0 then 64 else x.lr.balthr | none => 64
  let rs := Nat.max 1 (size f.launch f.node)
  ((s.q.neighbours f).foldl (fun (acc : Nat × List Move) u =>
    let d := s.q.depth u f.launch f.node
    if acc.1 < d + thr then acc
    else
      let k := Nat.min (Nat.min ((acc.1 - d) / 2) 256) (s.freeCapacity acc.2 size f.team u f.launch rs / 2)
      if k = 0 then acc
      else (acc.1 - k, acc.2 ++ [{ src := f.team, dst := u, launch := f.launch, node := f.node, n := k }]))
    (f.recs.length, ms)).2

/-- Room for records in transit at a team, in their order. -/
def State.holdRoom (s : State) (id : Nat) (m : Move) : List (List Byte) → State
  | [] => s
  | bs :: rest =>
    let r := s.roomFor m.dst m.launch bs
    let q := { s.q with transit := s.q.transit.map fun (t : Transit) => if t.id = id then { t with recs := t.recs ++ [r] } else t }
    State.holdRoom { s with q := q } id m rest

/-- Carry out a move: the newest records are in transit, and their room at the neighbour is held. Where records of several sizes leave
a last one no room there, it stays. -/
def State.move (s : State) (m : Move) : State :=
  match s.q.fifo m.src m.launch m.node with
  | none => s
  | some f =>
    let rs := Nat.max 1 ((f.recs.head?.map (·.bytes.length)).getD 1)
    let keep := f.recs.length - Nat.min m.n (recordRoom rs (s.queueFree m.dst m.launch))
    let q := s.q.setFifo m.src m.launch m.node (f.recs.take keep) (f.expired && keep != 0)
    let t : Transit := { id := s.fresh, team := m.dst, launch := m.launch, node := m.node, recs := [] }
    ({ s with fresh := s.fresh + 1, q := { q with transit := q.transit ++ [t] } } : State).holdRoom s.fresh m
      ((f.recs.drop keep).map (·.bytes))

/-- QUEUE_EXCHANGE (R395): all engines decide on the depths sent in this cycle; what the last exchange moved has arrived. -/
noncomputable def execQueueExchange (s : State) : Out :=
  if s.now < s.q.exchangeAt || !s.q.transit.isEmpty then .next s
  else
    let size := fun l n => match s.nodeEntry l n with | some e => e.recSize | none => 8
    let ms := s.q.fifos.foldl (fun ms f => s.movesOf size f ms) []
    let s := ms.foldl State.move s
    .next { s with q := { s.q with exchangeAt := s.q.exchangeAt + 1024 } }

/-- RECORD_TRANSIT_ARRIVAL (R395): moved records enter the neighbour's FIFO as its newest. -/
noncomputable def execRecordTransitArrival (id : Nat) (s : State) : Out :=
  match s.q.transit.find? fun t => t.id = id with
  | none => .next s
  | some t =>
    let s := { s with q := { s.q with transit := s.q.transit.filter (fun x => x.id ≠ id) } }
    .next (t.recs.foldl (fun (s : State) r => s.putRec t.team t.launch t.node r) s)

end Sys2Proof.Machine
end

