-- ==== Sys2Proof/Machine/Launch.lean ====
section
/-! DEFINITION. The launch unit, its rings and records, the distributor and its placements, retirement and completion
(17_queues_scheduling.md R375 to R383, R390, R393, R396, R397; 02 R56, R57; 10 R235 to R239; 01 R16 to R20). -/

namespace Sys2Proof.Machine

/-! ## Records and headers (Tables 17.2, 2.11, 17.5) -/

/-- A launch record's fields. -/
def launchRec (bs : List Byte) : LaunchRec :=
  let f := fieldAt bs
  let w := fun o n => (BitVec.ofNat 64 (f o n) : DWord)
  let ndep := f 0x26 1
  { version := f 0 2, prio := f 2 1, sscope := f 3 1, kernel := w 8 8, gx := f 0x10 4, gy := f 0x14 4, gz := f 0x18 4,
    threads := f 0x1C 2, stages := f 0x1E 1, ctx := f 0x1F 1, cohort := f 0x20 4, balthr := f 0x24 2, ndep := ndep,
    args := w 0x30 8, done := w 0x38 8, spillBase := w 0x40 8, spillSize := f 0x48 4,
    deps := (List.range (Nat.min 3 ndep)).map fun j => (w (0x50 + 16 * j) 8, w (0x58 + 16 * j) 8),
    reservedZero := f 0x27 9 == 0 && f 0x4C 4 == 0 && f 4 4 == 0 &&
      (List.range 3).all fun j => decide (j < ndep) || f (0x50 + 16 * j) 16 == 0 }

/-- A field of Table 17.2 is within its limits, for a ring of a class. The context must be valid (18 R399). -/
def LaunchRec.legal (r : LaunchRec) (cls : Nat) (owner : Bool) : Bool :=
  r.version == 1 && decide (r.prio ≤ 7) && (!owner || r.prio == cls) && [0, 3, 4, 5].contains r.sscope &&
    r.kernel.toNat % 128 == 0 && decide (1 ≤ r.gx) && decide (1 ≤ r.gy) && decide (1 ≤ r.gz) && decide (1 ≤ r.threads) &&
    decide (r.threads ≤ 1024) && decide (r.ctx ≤ 63) && decide (r.ndep ≤ 3) && r.reservedZero && r.args.toNat % 8 == 0 &&
    r.done.toNat % 8 == 0 && r.spillBase.toNat % 4096 == 0 && r.spillSize % 128 == 0 &&
    r.deps.all (fun d => d.1.toNat % 8 == 0) &&
    (if r.sscope = 0 then r.cohort == 0
     else if r.sscope = 5 then r.cohort == r.coords
     else decide (1 ≤ r.cohort) && decide (r.cohort ≤ r.coords))

/-- A kernel header's fields. -/
def headerOf (bs : List Byte) : Header :=
  let f := fieldAt bs
  { entry := f 4 4, regs := f 8 1, rotBase := f 9 1, rotSize := f 10 1, barriers := f 11 1, scratch := f 12 4,
    cpans := f 0x10 1, lpans := f 0x11 1, gangMax := f 0x12 1, stages := f 0x13 1, handler := f 0x14 4, ysave := f 0x18 2,
    argBytes := f 0x1A 2, ydiscard := f 0x1C 4, ten := BitVec.ofNat 32 (f 0x20 4), sigMode := f 0x24 1 == 1,
    dictN := f 0x26 2, dict := BitVec.ofNat 64 (f 0x28 8), nodes := BitVec.ofNat 64 (f 0x30 8), nodeN := f 0x38 2 }

/-- Storage pans that a workgroup needs. -/
def Header.storagePans (h : Header) : Nat := (h.scratch + 16383) / 16384

/-- Every limit of Table 2.11, the pan sum and the alignments of R57. -/
def headerLegal (bs : List Byte) : Bool :=
  let f := fieldAt bs
  let h := headerOf bs
  f 0 2 == 1 && f 2 2 == 0x4E58 && f 0x25 1 == 0 && f 0x3A 70 == 0 && decide (f 0x24 1 ≤ 1) && h.entry % 128 == 0 &&
    decide (1 ≤ h.regs) && decide (h.regs ≤ 128) && h.rotBase % 2 == 0 && h.rotSize % 2 == 0 && decide (h.rotSize ≤ 128) &&
    decide (h.rotBase + h.rotSize ≤ h.regs) && decide (h.barriers ≤ 16) && h.scratch % 64 == 0 &&
    decide (h.scratch ≤ 458752) && decide (h.cpans ≤ 28) && decide (h.lpans ≤ 8) && decide (1 ≤ h.gangMax) &&
    decide (h.gangMax ≤ 6) && decide (1 ≤ h.stages) && decide (h.stages ≤ 16) && h.handler % 128 == 0 &&
    h.argBytes % 8 == 0 && h.ten &&& ~~~0x000107FF#32 == 0 && decide (h.dictN ≤ 1024) &&
    (h.dictN == 0 || h.dict.toNat % 8 == 0) && (h.nodes != 0 || h.nodeN == 0) &&
    decide (h.storagePans + h.cpans + h.lpans ≤ 32)

/-- A small immediate that a field holds. -/
def Fld.fixed (x : Fld) : Option Nat := if x.mode = .small then some (immValue .int 1 x.f) else none

/-- The entry names, in a field fixed in it, a barrier, a gang or a register count that the header does not allow. That a
direct pair or run which starts below REGS and ends past it, or a `regroup` of more than REGS registers, is refused at the
launch is the model's choice: R57 names only a direct field at or above REGS (notes/assumptions/26.md). -/
def overDeclared (h : Header) (i : Instr) : Bool :=
  (slotsOf i).any (fun sl => sl.fld.mode = .direct && decide (h.regs < sl.fld.f.toNat + sl.w)) ||
    (match i with
      | .bar f | .bara f => (Fld.fixed f.a).any (h.barriers ≤ ·)
      | .gang f => (Fld.fixed f.a).any fun v => decide (h.gangMax < popCount (BitVec.ofNat 32 v))
      | .regroup f => decide (h.regs < f.b.f.toNat)
      | _ => false)

/-- The selector of an `srd` or `swr` is in Table 4.5; those of h0 to h15 can be legal. -/
def selectorPossible (i : Instr) : Bool :=
  if i.info.op = 0x22 then srdLegal true i.view.a.f.toNat else if i.info.op = 0x23 then swrLegal true i.view.d.f.toNat else true

/-- A dictionary entry could be legal under the header (R57). -/
noncomputable def entryPossible (h : Header) (e : Word × Word) : Bool :=
  match decodeWords e.1 e.2 with
  | .ok i => (e.1.toNat / 2 ^ 30 != 0 || e.2 == 0) && selectorPossible i && !overDeclared h i
  | .error _ => false

/-- A node table entry, and whether it keeps Table 17.5. -/
def nodeEntryOf (h : Header) (bs : List Byte) : NodeEntry × Bool :=
  let f := fieldAt bs
  let e : NodeEntry := { entry := f 0 4, recSize := f 4 2, batch := f 6 2, maxWait := f 8 4 }
  (e, e.entry % 128 == 0 && decide (8 ≤ e.recSize) && decide (e.recSize ≤ 256) && e.recSize % 8 == 0 && decide (1 ≤ e.batch) &&
    decide (e.batch ≤ 1024) && decide (e.batch * e.recSize ≤ h.scratch) && decide (1 ≤ e.maxWait) &&
    decide (e.maxWait ≤ 2 ^ 24) && f 12 20 == 0)

/-- Split bytes in chunks of `n`. -/
def chunks (n : Nat) : Nat → List Byte → List (List Byte)
  | 0, _ => []
  | k + 1, bs => bs.take n :: chunks n k (bs.drop n)

/-! ## Reads of a context without a group (18 R463) -/

/-- How a read of virtual memory by the launch unit ends. -/
inductive VaRead where
  | ok (bs : List Byte) (s : State)
  | wait (page : DWord) (kind : Nat) (s : State)
  /-- a line cannot be served now -/
  | busy
  | lost (s : State)
  | dead (detail : Nat) (va : DWord) (s : State)

/-- Read `n` bytes, page by page. -/
def State.readVa (s : State) (ctx : Nat) : Nat → DWord → Nat → VaRead
  | 0, _, _ => .ok [] s
  | fuel + 1, va, n =>
    if n = 0 then .ok [] s
    else
      let k := Nat.min n (4096 - va.toNat % 4096)
      match s.groupless ctx va .load k with
      | .go pa _ s' =>
        match State.readVa s' ctx fuel (va + BitVec.ofNat 64 k) (n - k) with
        | .ok bs s'' => .ok (s'.read pa k ++ bs) s''
        | r => r
      | .wait page kind _ => .wait page kind s
      | .busy => .busy
      | .lost s' => .lost s'
      | .contextFault d => .dead d va s

/-- What the launch unit finds of a record's kernel. -/
inductive Verdict where
  | good (h : Header) (dict : List (Word × Word)) (nodes : List NodeEntry)
  | refuse (status : Nat)
  | wait (page : DWord) (kind : Nat)
  | busy
  | dead (detail : Nat) (va : DWord)

/-- A dictionary entry's words. -/
def dictEntry (bs : List Byte) : Word × Word := (BitVec.ofNat 32 (fieldAt bs 0 4), BitVec.ofNat 32 (fieldAt bs 4 4))

/-- Read and check header, dictionary and node table (R57, R378). -/
noncomputable def State.readKernel (s : State) (r : LaunchRec) : Verdict × State :=
  match s.readVa r.ctx 2 r.kernel 128 with
  | .wait page kind s => (.wait page kind, s)
  | .busy => (.busy, s)
  | .lost s => (.refuse 4, s)
  | .dead d va s => (.dead d va, s)
  | .ok bs s =>
    let h := headerOf bs
    if !headerLegal bs || r.stages != h.stages then (.refuse 4, s)
    else
      match s.readVa r.ctx 4 h.dict (8 * h.dictN) with
      | .wait page kind s => (.wait page kind, s)
      | .busy => (.busy, s)
      | .lost s => (.refuse 4, s)
      | .dead d va s => (.dead d va, s)
      | .ok db s =>
        let dict := (chunks 8 h.dictN db).map dictEntry
        if dict.any (fun e => !entryPossible h e) then (.refuse 4, s)
        else
          match s.readVa r.ctx 1024 h.nodes (32 * h.nodeN) with
          | .wait page kind s => (.wait page kind, s)
          | .busy => (.busy, s)
          | .lost s => (.refuse 4, s)
          | .dead d va s => (.dead d va, s)
          | .ok nb s =>
            let ns := (chunks 32 h.nodeN nb).map (nodeEntryOf h)
            if ns.any (!·.2) then (.refuse 4, s) else (.good h dict (ns.map (·.1)), s)

/-- What the reads of a record's dependence counters give (R380). -/
inductive Deps where
  | hold
  | unmet
  | refuse
  | wait (page : DWord) (kind : Nat)
  | busy
  | dead (detail : Nat) (va : DWord)

/-- Read the counters in order. -/
def State.readDeps (s : State) (ctx : Nat) : List (DWord × DWord) → Deps × State
  | [] => (.hold, s)
  | d :: ds =>
    match s.readVa ctx 1 d.1 8 with
    | .wait page kind s => (.wait page kind, s)
    | .busy => (.busy, s)
    | .lost s => (.refuse, s)
    | .dead e va s => (.dead e va, s)
    | .ok bs s => if d.2.toNat ≤ ofBytes bs then State.readDeps s ctx ds else (.unmet, s)

/-! ## Fits (01 R16, R20, 10 R236) -/

/-- Groups of a workgroup. -/
def LaunchRec.groups (r : LaunchRec) : Nat := (r.threads + 31) / 32

/-- Bytes of a track's register slice that a group takes (R16). -/
def Header.groupBytes (h : Header) : Nat := 128 * ((h.regs + 7) / 8 * 8)

/-- Free bytes and groups of a core's tracks. -/
abbrev Loads := List (Nat × Nat)

/-- The track that takes a group: the one with the most free bytes that can hold it, the lowest of equal ones (R20). -/
def bestTrack (need : Nat) (ls : Loads) : Option Nat :=
  ((List.range ls.length).foldl (fun (best : Option (Nat × Nat)) t =>
    match ls[t]? with
    | some (free, n) =>
      if n < 8 ∧ need ≤ free then
        match best with
        | some (_, f) => if f < free then some (t, free) else best
        | none => some (t, free)
      else best
    | none => best) none).map (·.1)

/-- Assign `n` groups in turn: their tracks and the loads afterwards. -/
def assignTracks (need : Nat) : Nat → Loads → Option (List Nat × Loads)
  | 0, ls => some ([], ls)
  | n + 1, ls => do
    let t ← bestTrack need ls
    let r ← assignTracks need n (ls.modify t fun x => (x.1 - need, x.2 + 1))
    some (t :: r.1, r.2)

/-- Loads of an empty core. -/
def emptyLoads : Loads := List.replicate 16 (16384, 0)

/-- Loads of a core's tracks. -/
def State.loads (s : State) (core : Nat) : Loads :=
  (s.core core).groups.foldl (fun (ls : Loads) e =>
    ls.modify (trackOf e.1) fun x => (x.1 - (s.hdr e.2).groupBytes, x.2 + 1)) emptyLoads

/-- Workgroups resident on a core. -/
def State.wgsOn (s : State) (core : Nat) : List (Nat × Wg) := s.wgs.filter fun e => e.2.core = core

/-- The header of a launch. -/
def State.launchHdr (s : State) (l : Nat) : Header := match s.launch l with | some x => x.hdr | none => {}

/-- Pans that workgroups own, W (R235). -/
def CoreSt.ownedPans (k : CoreSt) : Nat := ((List.range 32).filter fun p => k.owner p < 0x80).length

/-- The L1 target T of a core (R236). -/
def State.l1Target (s : State) (core : Nat) : Nat :=
  (s.wgsOn core).foldl (fun n e => Nat.max n (s.launchHdr e.2.launch).lpans) 0

/-- How many more workgroups of `ng` groups a core can hold, up to `n` (R20, R236). -/
def roomFrom (h : Header) (ng : Nat) : Nat → Loads → Nat → Nat → Nat → Nat
  | 0, _, _, _, _ => 0
  | n + 1, ls, slots, bars, pans =>
    match assignTracks h.groupBytes ng ls with
    | none => 0
    | some y =>
      if slots = 0 ∨ bars < h.barriers ∨ pans < h.storagePans + h.cpans then 0
      else 1 + roomFrom h ng n y.2 (slots - 1) (bars - h.barriers) (pans - (h.storagePans + h.cpans))

/-- A regroup of a set is in progress on a core: a group has arrived, or the shuffle runs (08 R194). The node workgroups of one node
form a set of their own (R393). -/
def State.regrouping (s : State) (core : Nat) (key : RegroupKey) : Bool :=
  (s.core core).shuffles.any (fun h => (h.launch, h.node) = key) ||
    (s.core core).groups.any fun e => s.regroupKey e.2 = key && e.2.splits.any fun x =>
      match x.2.wait with | .regroup _ _ _ _ => true | _ => false

/-- No workgroup of a regroup set may come to a core now: a request of its context is pending there (04 R99), a regroup of the
set is in progress (08 R194), or the core's die is quarantined (15 R346). -/
def State.coreClosed (s : State) (core : Nat) (key : RegroupKey) (ctx : Nat) : Bool :=
  ((s.core core).yreqV && (s.core core).yreqCtx == ctx) || s.regrouping core key || s.coh.quar.getLsbD (dieOf core)

/-- How many of `n` workgroups of a launch's resources a core can hold now. -/
def State.coreRoom (s : State) (core : Nat) (key : RegroupKey) (ctx : Nat) (h : Header) (ng n : Nat) : Nat :=
  let here := s.wgsOn core
  let taken := (s.core core).ownedPans + Nat.max (s.l1Target core) h.lpans
  if s.coreClosed core key ctx || decide (32 < taken) then 0
  else
    roomFrom h ng n (s.loads core) (128 - here.length)
      (256 - here.foldl (fun m e => m + (s.launchHdr e.2.launch).barriers) 0) (32 - taken)

/-- How many of `n` workgroups an empty core can hold. -/
def emptyRoom (h : Header) (ng n : Nat) : Nat := roomFrom h ng n emptyLoads 128 256 (32 - h.lpans)

/-- FIT (R378). -/
def fitsEmpty (r : LaunchRec) (h : Header) (nodes : List NodeEntry) : Bool :=
  let c := emptyRoom h r.groups 128
  let cols := 16 * c / Nat.max 1 h.stages
  let share := (r.coords + 7) / 8
  decide (1 ≤ c) && decide (h.stages ≤ 16 * c) &&
    (match r.sscope with
      | 3 => decide (r.cohort ≤ cols)
      | 4 => decide (r.cohort ≤ 16 * cols)
      | 5 => decide (share ≤ 16 * cols)
      | _ => true) &&
    nodes.all fun e => decide (1 ≤ emptyRoom h ((e.batch + 31) / 32) 1)

/-- SHAPE (R378). -/
def shapeBad (r : LaunchRec) (h : Header) : Bool := decide (2 ^ 32 < h.stages * r.coords * 32 * r.groups)

/-! ## Acceptance, refusal, start (R376 to R381) -/

/-- Write a launch record's STATUS, and then what follows. -/
def State.setStatus (s : State) (addr st : Nat) (after : Follow) : State :=
  s.deviceWrite { id := 0, chan := .word (addr + 4), pa := addr + 4, bytes := toBytes 4 st, follow := after }

/-- The end of a launch: STATUS, then DONE in its context, if the record names one (R378, R379). -/
def State.finish (s : State) (addr : Nat) (r : LaunchRec) (st : Nat) : State :=
  s.setStatus addr st (if r.ctx ≤ 63 then .signal r.ctx r.done else .nothing)

/-- The units of a launch, each with its workgroups as coordinate and stage (R381, R383). -/
def unitsOf (r : LaunchRec) (stages : Nat) : List (List (Nat × Nat)) :=
  let one := fun c => (List.range stages).map fun st => (c, st)
  if r.sscope = 3 ∨ r.sscope = 4 then
    (List.range ((r.coords + r.cohort - 1) / Nat.max 1 r.cohort)).map fun u =>
      ((List.range r.cohort).map (u * r.cohort + ·)).filter (· < r.coords) |>.flatMap one
  else (List.range r.coords).map one

/-- Deal the units to the dies (R381): a grid of SSCOPE 5 as one share for each die. -/
def dealt (l : Nat) (x : Launch) (now : Nat) : List WaitUnit :=
  let us := (unitsOf x.lr x.hdr.stages).mapIdx fun u ws => ((x.startDie + u) % 8, ws)
  if x.lr.sscope = 5 then
    ((List.range 8).map fun d => ({ launch := l, die := d, wgs := (us.filter fun u => u.1 = d).flatMap (·.2), since := now } : WaitUnit)).filter
      fun w => !w.wgs.isEmpty
  else us.map fun u => { launch := l, die := u.1, wgs := u.2, since := now }

/-- Start an accepted launch: STATUS 2, its units wait in the distributors. -/
def State.startLaunch (s : State) (l : Nat) : State :=
  match s.launch l with
  | none => s
  | some x =>
    let s := s.setStatus x.addr 2 .nothing
    let x := { x with st := .running, gridLeft := x.lr.coords * x.hdr.stages }
    { s with q := { s.q with launches := FMap.put s.q.launches l x, waiting := s.q.waiting ++ dealt l x s.now } }

/-- Accept a record: its key, its start die and its place in the acceptance order (R381). -/
def State.accept (s : State) (addr : Nat) (r : LaunchRec) (st : LaunchSt) (h : Header) (dict : List (Word × Word))
    (nodes : List NodeEntry) : Nat × State :=
  let k := s.newKey
  let n := s.q.accepted
  let x : Launch := { addr := addr, prio := r.prio, lr := r, hdr := h, dict := dict, nodeTab := nodes, startDie := n % 8,
                      accept := n, st := st }
  (k.1, { k.2 with q := { k.2.q with accepted := n + 1, launches := FMap.put k.2.q.launches k.1 x } })

/-- A launch waits for a page of one of its reads. -/
def State.parkLaunch (s : State) (l ctx : Nat) (page : DWord) (kind : Nat) : State :=
  (s.park (.launchRead l) ctx 0xFFFF [(page, kind, false)]).1

/-- A launch whose kernel has been read: its dependences decide whether it starts or stays pending. -/
def State.judgeDeps (s : State) (l : Nat) (x : Launch) : State :=
  let pend := fun (s : State) (since : Option Nat) => s.updLaunch l fun x => { x with st := .pending since }
  match s.readDeps x.lr.ctx x.lr.deps with
  | (.hold, s) => pend s (some s.now)
  | (.unmet, s) => pend s none
  | (.refuse, s) => { s.finish x.addr x.lr 4 with q := { s.q with launches := FMap.erase s.q.launches l } }
  | (.wait page kind, s) => (pend s none).parkLaunch l x.lr.ctx page kind
  | (.busy, s) => pend s none
  | (.dead d va, s) => (pend s none).walkFault x.lr.ctx d 0xFFFF 0 va 0

/-- The checks that follow the reads. -/
def kernelStatus (r : LaunchRec) (h : Header) (nodes : List NodeEntry) : Option Nat :=
  if shapeBad r h then some 6 else if !fitsEmpty r h nodes then some 5 else none

/-- Serve a record that the launch unit has read (R376, R378); none while a line that it is to read cannot be served. -/
noncomputable def State.serveRecord (s : State) (addr : Nat) (r : LaunchRec) (cls : Nat) (owner : Bool) : Option State :=
  if !r.legal cls owner || s.xl.ctxBase == 0 then some (s.finish addr r 4)
  else if !s.badLine (s.contextLine r.ctx) && !s.lineCurrent (s.contextLine r.ctx) then none
  else if (s.context r.ctx).2 % 2 == 0 then some (s.finish addr r 4)
  else
    match s.readKernel r with
    | (.busy, _) => none
    | (.refuse st, s) => some (s.finish addr r st)
    | (.wait page kind, s) =>
      let k := s.accept addr r .reading {} [] []
      some ((k.2.setStatus addr 1 .nothing).parkLaunch k.1 r.ctx page kind)
    | (.dead d va, s) =>
      let k := s.accept addr r .reading {} [] []
      some ((k.2.setStatus addr 1 .nothing).walkFault r.ctx d 0xFFFF 0 va 0)
    | (.good h dict nodes, s) =>
      match kernelStatus r h nodes with
      | some st => some (s.finish addr r st)
      | none =>
        match s.readDeps r.ctx r.deps with
        | (.busy, _) => none
        | (.refuse, s) => some (s.finish addr r 4)
        | (.hold, s) =>
          let k := s.accept addr r (.pending (some s.now)) h dict nodes
          some (k.2.startLaunch k.1)
        | (.unmet, s) => some ((s.accept addr r (.pending none) h dict nodes).2.setStatus addr 1 .nothing)
        | (.wait page kind, s) =>
          let k := s.accept addr r (.pending none) h dict nodes
          some ((k.2.setStatus addr 1 .nothing).parkLaunch k.1 r.ctx page kind)
        | (.dead d va, s) =>
          let k := s.accept addr r (.pending none) h dict nodes
          some ((k.2.setStatus addr 1 .nothing).contextFault r.ctx (walkCode d) d 0xFFFF va 0)

/-- A launch waits for a page. -/
def State.launchParked (s : State) (l : Nat) : Bool := s.fly.parks.any fun p => p.who == .launchRead l

/-- A launch whose reads waited goes on with them once its page has been served. -/
noncomputable def State.resumeReading (s : State) (l : Nat) : State :=
  match s.launch l with
  | none => s
  | some x =>
    if x.st != .reading || s.launchParked l then s
    else
      let drop := fun (s : State) => { s with q := { s.q with launches := FMap.erase s.q.launches l } }
      match s.readKernel x.lr with
      | (.refuse st, s) => drop (s.finish x.addr x.lr st)
      | (.busy, _) => s
      | (.wait page kind, s) => s.parkLaunch l x.lr.ctx page kind
      | (.dead d va, s) => s.walkFault x.lr.ctx d 0xFFFF 0 va 0
      | (.good h dict nodes, s) =>
        match kernelStatus x.lr h nodes with
        | some st => drop (s.finish x.addr x.lr st)
        | none =>
          let x := { x with hdr := h, dict := dict, nodeTab := nodes, st := .pending none }
          let s := { s with q := { s.q with launches := FMap.put s.q.launches l x } }
          s.judgeDeps l x

/-- Every launch whose reads can go on. -/
noncomputable def State.settleLaunches (s : State) : State :=
  s.q.launches.foldl (fun (s : State) e => s.resumeReading e.1) s

/-! ## Rings (R375, R376) -/

/-- The owner ring holds live entries and is enabled. -/
def Ring.ownerLive (r : Ring) : Bool := r.obase != 0 && ringSizeOk r.osize 16 65536 && r.owptr != r.orptr
/-- The device ring holds live entries and is enabled. -/
def Ring.deviceLive (r : Ring) : Bool := r.dbase != 0 && ringSizeOk r.dsize 16 65536 && r.dwptr != r.drptr

/-- OWPTR_WRITE (R375). -/
noncomputable def execOwptrWrite (master cls : Nat) (value : BitVec 32) (s : State) : Out :=
  if 8 ≤ cls then .next s
  else ownerWrite s master (0x40C + 0x40 * cls) fun s =>
    if (s.ring cls).osize < value - (s.ring cls).orptr then s else s.updRing cls fun r => { r with owptr := value }

/-- The highest class with a live ring. -/
def State.headClass (s : State) : Option Nat :=
  [7, 6, 5, 4, 3, 2, 1, 0].find? fun c => (s.ring c).ownerLive || (s.ring c).deviceLive

/-- Launches on the pending list. -/
def State.pendingList (s : State) : List (Nat × Launch) :=
  s.q.launches.filter fun e => match e.2.st with | .reading | .pending _ => true | _ => false

/-- Pending launches whose dependences hold, with the cycle since. -/
def State.readyList (s : State) : List (Nat × Launch × Nat) :=
  s.q.launches.filterMap fun e => match e.2.st with | .pending (some t) => some (e.1, e.2, t) | _ => none

/-- The record at a physical address cannot be read (R376). -/
def State.unreadable (s : State) (pa : Nat) : Bool :=
  s.target pa == .nothing || (s.isDevice pa && (s.badLine (s.memKey pa / 64) || s.badLine (s.memKey pa / 64 + 1)))

/-- Address of the ring entry that the launch unit takes next in a class, and whether the owner ring holds it: within a class
the two rings alternate. -/
def Ring.headEntry (r : Ring) : Nat × Bool :=
  if r.ownerLive && !(r.deviceLive && r.devNext) then (r.obase.toNat + 8 * (r.orptr.toNat % r.osize.toNat), true)
  else (r.dbase.toNat + 8 * (r.drptr.toNat % r.dsize.toNat), false)

/-- The launch unit can read `n` bytes at a physical address now, or finds at once that they cannot be read. -/
def State.readableAt (s : State) (pa n : Nat) : Bool :=
  !s.isDevice pa || s.lostStack (s.memKey pa) || (linesIn (s.memKey pa) n).all s.lineCurrent

/-- LAUNCH_RING_TAKE (R376): the entry is taken once all that it leads to can be read. -/
noncomputable def execLaunchRingTake (s : State) : Out :=
  match s.headClass with
  | none => .next s
  | some c =>
    if s.readyList.any (fun e => decide (c ≤ e.2.1.prio)) || decide (256 ≤ s.pendingList.length) then .next s
    else
      let at_ := (s.ring c).headEntry.1
      let owner := (s.ring c).headEntry.2
      let e := s.readN (s.memKey at_) 8
      let t := s.updRing c fun r =>
        if owner then { r with orptr := r.orptr + 1, devNext := true } else { r with drptr := r.drptr + 1, devNext := false }
      if !s.readableAt at_ 8 then .next s
      else if e % 128 ≠ 0 then .next (t.post 0x09 0 0 0xFF 0xFFFF (BitVec.ofNat 64 e) 0)
      else if !s.readableAt e 128 then .next s
      else
        let t := if s.isDevice e then t.detectAt (s.memKey e) 128 else t
        if s.unreadable e then .next (t.post 0x09 0 0 0xFF 0xFFFF (BitVec.ofNat 64 e) 0) else
        match t.serveRecord e (launchRec (s.read (s.memKey e) 128)) c owner with
        | some t => .next t
        | none => .next s

/-- PENDING_LAUNCH_START (R376): the one whose dependences came to hold first. -/
noncomputable def execPendingLaunchStart (launch : Nat) (s : State) : Out :=
  match s.readyList.find? fun e => e.1 = launch with
  | some e => if s.readyList.any (fun f => decide (f.2.2 < e.2.2)) then .next s else .next (s.startLaunch launch)
  | none => .next s

/-- DEPENDENCE_REREAD (R380). -/
noncomputable def execDependenceReread (launch : Nat) (s : State) : Out :=
  match s.launch launch with
  | none => .next s
  | some x =>
    match x.st with
    | .pending none => if s.launchParked launch then .next s else .next (s.judgeDeps launch x)
    | _ => .next s

/-! ## The pan partition (10 R235 to R239) -/

/-- Free pans, ascending. -/
def CoreSt.freeList (k : CoreSt) : List Nat := (List.range 32).filter fun p => k.owner p = 0xFF

/-- L1 pans, descending. -/
def CoreSt.l1List (k : CoreSt) : List Nat := ((List.range 32).filter fun p => k.owner p = 0xFE).reverse

/-- Take pans for a slot: from the L1 by take-back, to storage mode, zeroed. -/
def CoreSt.takePan (k : CoreSt) (slot pan : Nat) : CoreSt :=
  let was := k.owner pan = 0xFE
  let left := k.l1.filter fun x => x.pan ≠ pan
  let k := if was then { (k.count 0x09 1 none) with pl1 := k.pl1 &&& ~~~((1#32) <<< pan), l1 := left } else k
  { (k.setPan pan 0) with
    pown := FMap.set 0xFF k.pown pan slot,
    pans := k.pans.filter (fun e => e.1 / 16384 ≠ pan),
    badRows := k.badRows.filter (fun r => r / 256 ≠ pan), flipped := k.flipped.filter (fun b => b / 131072 ≠ pan) }

/-- The L1 grows towards its target from free pans (R237). -/
def CoreSt.growL1 (k : CoreSt) (target : Nat) : CoreSt :=
  (k.freeList.take (target - k.l1List.length)).foldl (fun (k : CoreSt) p =>
    { (k.setPan p 0) with pown := FMap.set 0xFF k.pown p 0xFE, pl1 := k.pl1 ||| (1#32) <<< p }) k

/-- Insert in an ascending list of numbers. -/
def ascending (l : List Nat) : List Nat := sortBy (fun a b => decide (a < b)) l

/-- The lowest free workgroup slot of a core; that it is the lowest is the model's choice (notes/assumptions/43.md). -/
def State.freeSlot (s : State) (core : Nat) : Nat :=
  ((List.range 128).find? fun k => (s.wgsOn core).all fun e => e.2.slot ≠ k).getD 0

/-- Take the pans of a new workgroup: storage pans first, then compute pans, each in ascending number (R232, R237). -/
def State.takePans (s : State) (core slot : Nat) (h : Header) : State × List Nat × List Nat :=
  let k := s.core core
  let avail := k.freeList ++ k.l1List
  let st := avail.take h.storagePans
  let cp := (avail.drop h.storagePans).take h.cpans
  (s.setCore core ((st ++ cp).foldl (fun (k : CoreSt) p => k.takePan slot p) k), ascending st, ascending cp)

/-! ## Placing a workgroup (R237, R20, R393) -/

/-- The identity of a new workgroup. -/
structure Ident where
  wgid : Word
  x : Word
  y : Word
  z : Word
  stage : Nat
  node : Option NodeId
  /-- TID of thread 0 -/
  tid0 : Nat
  threads : Nat
  entry : DWord
  nrec : Nat
  deriving DecidableEq, Repr

/-- A new group (Table 4.1, R19). -/
def newGroupOf (l : Nat) (x : Launch) (wk : Nat) (d : Ident) (pos now : Nat) : Group :=
  let n := Nat.min 32 (d.threads - 32 * pos)
  let live : Mask := BitVec.ofNat 32 (2 ^ n - 1)
  { launch := l, ctx := x.lr.ctx, wgpos := pos,
    lanes := (List.range 32).map fun lane => (lane, { tid := BitVec.ofNat 32 (d.tid0 + 32 * pos + lane), wg := wk }),
    dead := ~~~live,
    splits := [(0, { pc := d.entry, active := live, wait := .held, cls := x.prio, rt := now, clauseEnd := now })],
    ten := x.hdr.ten, nrec := BitVec.ofNat 32 d.nrec, phase := .placed }

/-- The lowest free slot of a track; that it is the lowest is the model's choice (notes/assumptions/43.md). -/
def CoreSt.freeGid (k : CoreSt) (track : Nat) : Nat :=
  ((List.range 8).map (8 * track + ·)).find? (fun g => (FMap.find k.groups g).isNone) |>.getD (8 * track)

/-- A workgroup of a regroup set fits a core now. -/
def State.fitsCore (s : State) (core : Nat) (key : RegroupKey) (x : Launch) (ng : Nat) : Bool :=
  s.coreRoom core key x.lr.ctx x.hdr ng 1 == 1

/-- Place a workgroup on a core that it fits: its slot, its pans, its groups on their tracks, and the L1's growth. -/
def State.placeWg (s : State) (core l : Nat) (x : Launch) (d : Ident) : Nat × State :=
  let k := s.newKey
  let wk := k.1
  let s := k.2
  let slot := s.freeSlot core
  let y := s.takePans core slot x.hdr
  let s := y.1
  let wait := if x.hdr.storagePans + x.hdr.cpans = 0 then 0 else 64
  let w : Wg := { launch := l, ctx := x.lr.ctx, core := core, slot := slot, wgid := d.wgid, x := d.x, y := d.y, z := d.z,
                  stage := d.stage, node := d.node, storage := y.2.1, compute := y.2.2, zeroing := some (s.now + wait) }
  let s := { s with wgs := FMap.put s.wgs wk w }
  let ng := (d.threads + 31) / 32
  let tracks := match assignTracks x.hdr.groupBytes ng (s.loads core) with | some t => t.1 | none => []
  let s := (tracks.mapIdx fun pos t => (pos, t)).foldl (fun (s : State) p =>
    s.setGroup core ((s.core core).freeGid p.2) (newGroupOf l x wk d p.1 s.now)) s
  (wk, s.updCore core (·.growL1 (s.l1Target core)))

/-- Identity of a grid workgroup (Table 4.5). -/
def gridIdent (x : Launch) (coord stage : Nat) : Ident :=
  let r := x.lr
  let id := stage * r.coords + coord
  { wgid := BitVec.ofNat 32 id, x := BitVec.ofNat 32 (coord % r.gx), y := BitVec.ofNat 32 (coord / r.gx % r.gy),
    z := BitVec.ofNat 32 (coord / (r.gx * r.gy)), stage := stage, node := none, tid0 := id * 32 * r.groups,
    threads := r.threads, entry := r.kernel + BitVec.ofNat 64 x.hdr.entry, nrec := 0 }

/-- Place workgroups one after another, each on its core; none where one does not fit. -/
def State.placeAll (s : State) (l : Nat) (x : Launch) : List ((Nat × Nat) × Nat) → Option State
  | [] => some s
  | (w, core) :: rest =>
    if s.fitsCore core (l, none) x x.lr.groups then State.placeAll (s.placeWg core l x (gridIdent x w.1 w.2)).2 l x rest else none

/-! ## The distributor (R381, R382) -/

/-- Work that waits in a die's distributor, as R382 orders it: class, acceptance, lowest WGID; the cycle since which it
waits; and whether it could be placed now. -/
structure Waiting where
  die : Nat
  prio : Nat
  accept : Nat
  wgid : Nat
  since : Nat
  fits : Bool
  deriving DecidableEq, Repr

/-- The order of R382. -/
def Waiting.before (a b : Waiting) : Bool :=
  decide (b.prio < a.prio) || (a.prio == b.prio && (decide (a.accept < b.accept) ||
    (a.accept == b.accept && decide (a.wgid < b.wgid))))

/-- It has waited 2^20 cycles. -/
def Waiting.starved (w : Waiting) (now : Nat) : Bool := decide (w.since + 2 ^ 20 ≤ now)

/-- Something that has waited too long keeps `w` from being placed (R382). -/
def Waiting.starves (o w : Waiting) (now : Nat) : Bool :=
  o.die == w.die && o.starved now && decide (w.prio ≤ o.prio) && !(w.starved now && w.before o)

/-- `o` keeps `w` from being placed: it is ahead and fits, or it has waited too long and its class is no lower. -/
def Waiting.holds (o w : Waiting) (now : Nat) : Bool :=
  (o.die == w.die && o.before w && o.fits) || o.starves w now

/-- Cores of a team, of a die. -/
def teamCores (t : Nat) : List Nat := (List.range 16).map (16 * t + ·)
/-- Teams of a die. -/
def dieTeams (d : Nat) : List Nat := (List.range 16).map (16 * d + ·)

/-- Workgroups of a launch that a team can take now, up to `n`. -/
def State.teamRoom (s : State) (l : Nat) (x : Launch) (t n : Nat) : Nat :=
  (teamCores t).foldl (fun m c => m + s.coreRoom c (l, none) x.lr.ctx x.hdr x.lr.groups (n - m)) 0

/-- A unit could be placed on its die now. -/
def State.unitFits (s : State) (u : WaitUnit) : Bool :=
  match s.launch u.launch with
  | none => false
  | some x =>
    let st := Nat.max 1 x.hdr.stages
    if x.lr.sscope = 3 then (dieTeams u.die).any fun t => decide (u.wgs.length ≤ s.teamRoom u.launch x t u.wgs.length)
    else decide (u.wgs.length / st ≤ (dieTeams u.die).foldl (fun m t => m + s.teamRoom u.launch x t u.wgs.length / st) 0)

/-- Shares of the same launch under SSCOPE 5, or the unit alone. -/
def State.together (s : State) (u : WaitUnit) : List WaitUnit :=
  match s.launch u.launch with
  | some x => if x.lr.sscope = 5 then s.q.waiting.filter fun w => w.launch = u.launch else [u]
  | none => [u]

/-- A waiting unit in R382's order, which fits its die. -/
def State.unitEntry (s : State) (u : WaitUnit) : Option Waiting :=
  (s.launch u.launch).map fun x =>
    { die := u.die, prio := x.prio, accept := x.accept,
      wgid := u.wgs.foldl (fun n w => Nat.min n (w.2 * x.lr.coords + w.1)) (2 ^ 32), since := u.since,
      fits := s.unitFits u }

/-- The pans that `n` pans taken on a core are: the lowest free ones, then L1 pans from the highest (10 R237). -/
def CoreSt.nextPans (k : CoreSt) (n : Nat) : List Nat := (k.freeList ++ k.l1List).take n

/-- The tracks of a core for the groups of a restored unit, which fits as placements do (R236, 10 R240, 01 R17, R20). The pans that it
takes go to storage mode first (10 R237). -/
def State.unitRoom (s : State) (core : Nat) (key : RegroupKey) (ctx : Nat) (h : Header) (ng nw comp : Nat) : Option (List Nat) :=
  let k := s.core core
  let here := s.wgsOn core
  let bars := here.foldl (fun m e => m + (s.launchHdr e.2.launch).barriers) 0
  let mine := k.nextPans (nw * (h.storagePans + h.cpans))
  if s.coreClosed core key ctx || decide (128 < here.length + nw) || decide (256 < bars + nw * h.barriers) ||
      decide (28 + (mine.filter fun p => k.panState p = 1 || k.panState p = 3).length < k.inCompute + comp) ||
      decide (32 < k.ownedPans + nw * (h.storagePans + h.cpans) + Nat.max (s.l1Target core) h.lpans) then none
  else (assignTracks h.groupBytes ng (s.loads core)).map (·.1)

/-- Request slots that stores in flight of saved groups, under their identifiers, need on a core that does not hold them yet. -/
def State.slotsMoving (s : State) (core : Nat) (keys : List Nat) : Nat :=
  (s.fly.reqs.filter fun r => r.core ≠ core && keys.contains r.gid).foldl (fun n r => n + r.slots) 0

/-- The tracks of a core for a unit that waits to be restored there, with a request slot for each of its stores in flight (01 R15). -/
def State.restoreRoom (s : State) (r : RestoreReq) (x : Launch) : Option (List Nat) :=
  if s.slotsFree r.core (s.slotsMoving r.core r.keys) then
    s.unitRoom r.core (r.launch, r.node) x.lr.ctx x.hdr r.ng r.nw r.comp
  else none

/-- A restore in R382's order: its launch's class and acceptance. -/
def State.restoreWaiting (s : State) (r : RestoreReq) : Option Waiting :=
  (s.launch r.launch).map fun x =>
    { die := dieOf r.core, prio := x.prio, accept := x.accept, wgid := r.wgid, since := r.since,
      fits := (s.restoreRoom r x).isSome }

/-- The cycle since which a FIFO has been due (R393). -/
def Fifo.dueSince (f : Fifo) (e : NodeEntry) : Nat :=
  let full := (f.recs[e.batch - 1]?).map (·.entered)
  let old := if f.expired then f.recs.head?.map (·.entered + e.maxWait) else none
  match full, old with
  | some a, some b => Nat.min a b
  | some a, none | none, some a => a
  | none, none => 0

/-- The node workgroup of a due FIFO in R382's order; its WGID reads 0xFFFFFFFF. -/
def State.fifoWaiting (s : State) (f : Fifo) : Option Waiting :=
  match s.launch f.launch, s.nodeEntry f.launch f.node with
  | some x, some e =>
    if s.fifoDue f && x.st == .running then
      some { die := f.team / 16, prio := x.prio, accept := x.accept, wgid := 0xFFFFFFFF, since := f.dueSince e,
             fits := (teamCores f.team).any fun c => s.fitsCore c (f.launch, some f.node) x ((Nat.min f.recs.length e.batch + 31) / 32) }
    else none
  | _, _ => none

/-- All that waits, each as it fits its own die. -/
def State.entries (s : State) : List Waiting :=
  s.q.waiting.filterMap s.unitEntry ++ s.q.restores.filterMap s.restoreWaiting ++ s.q.fifos.filterMap s.fifoWaiting

/-- A waiting unit in R382's order. A share of a grid under SSCOPE 5 could be placed where every share fits its die and nothing
keeps one from being placed there that has waited too long; otherwise it waits for another die, and stops no later entry (R381). -/
def State.unitWaiting (s : State) (u : WaitUnit) : Option Waiting :=
  let shares := (s.together u).filterMap s.unitEntry
  (s.unitEntry u).map fun w =>
    { w with fits := if (s.together u).length ≤ 1 then w.fits else
        shares.all fun e => e.fits && s.entries.all fun o => shares.contains o || !o.starves e s.now }

/-- Everything that waits in the distributors. -/
def State.waitingWork (s : State) : List Waiting :=
  s.q.waiting.filterMap s.unitWaiting ++ s.q.restores.filterMap s.restoreWaiting ++ s.q.fifos.filterMap s.fifoWaiting

/-- R382 lets waiting work be placed. -/
def State.mayGo (s : State) (w : Waiting) : Bool := s.waitingWork.all fun o => o == w || !o.holds w s.now

/-- R382 lets a unit be placed: nothing ahead of it on its die fits, and nothing that has waited too long holds it back. -/
def State.mayPlace (s : State) (u : WaitUnit) : Bool := (s.unitWaiting u).all s.mayGo

/-- The cores that a unit's workgroups get respect its scope and its columns (R20, R381, R383). -/
def coresLegal (u : WaitUnit) (x : Launch) (ps : List ((Nat × Nat) × Nat)) : Bool :=
  ps.all (fun p => dieOf p.2 = u.die) &&
    (if x.lr.sscope = 3 then ps.all fun p => ps.all fun q => teamOf p.2 = teamOf q.2
     else ps.all fun p => ps.all fun q => p.1.1 ≠ q.1.1 || teamOf p.2 = teamOf q.2)

/-- Pair the workgroups of units with the cores given. -/
def pairUnits : List WaitUnit → List Nat → List (WaitUnit × List ((Nat × Nat) × Nat))
  | [], _ => []
  | u :: us, cs => (u, u.wgs.zip cs) :: pairUnits us (cs.drop u.wgs.length)

/-- WORKGROUP_PLACEMENT (R237, R381, R382): a waiting unit goes to the cores that the distributor chooses. -/
noncomputable def execWorkgroupPlacement (unit : Nat) (cores : List Nat) (s : State) : Out :=
  match s.q.waiting[unit]? with
  | none => .next s
  | some u =>
    match s.launch u.launch with
    | none => .next s
    | some x =>
      let us := s.together u
      let ps := pairUnits us cores
      if cores.length ≠ us.foldl (fun n w => n + w.wgs.length) 0 ∨ !us.all s.mayPlace ∨ !ps.all (fun p => coresLegal p.1 x p.2) then
        .next s
      else
        match s.placeAll u.launch x (ps.flatMap (·.2)) with
        | some s' => .next { s' with q := { s'.q with waiting := s'.q.waiting.filter (fun w => !us.contains w) } }
        | none => .next s

/-- PAN_ZEROING_DONE (R237): the workgroup's groups become Ready. -/
noncomputable def execPanZeroingDone (wg : Nat) (s : State) : Out :=
  match s.wg wg with
  | none => .next s
  | some w =>
    match w.zeroing with
    | none => .next s
    | some t =>
      if s.now < t then .next s
      else
        let s := s.updWg wg fun x => { x with zeroing := none }
        .next (s.updCore w.core fun k => { k with groups := k.groups.map fun (e : Nat × Group) =>
          if e.2.phase = .placed ∧ e.2.lowWg = wg then
            (e.1, { e.2 with phase := .running, splits := e.2.splits.map fun (p : Nat × Split) => (p.1, { p.2 with rt := s.now }) })
          else e })

/-- NODE_BATCH_PLACEMENT (R393): a due FIFO's oldest records become a node workgroup on a core of its team. -/
noncomputable def execNodeBatchPlacement (team launch node core : Nat) (s : State) : Out :=
  match s.q.fifo team launch node, s.launch launch, s.nodeEntry launch node with
  | some f, some x, some e =>
    let n := Nat.min f.recs.length e.batch
    if !s.fifoDue f || teamOf core != team || !(s.fifoWaiting f).all s.mayGo || x.st != .running || !s.fitsCore core (launch, some node) x ((n + 31) / 32) then .next s
    else
      let seq := (FMap.find s.q.nodeSeq team).getD 0
      let y := s.popRecs team launch node n
      let d : Ident := { wgid := 0xFFFFFFFF, x := BitVec.ofNat 32 node, y := BitVec.ofNat 32 team, z := BitVec.ofNat 32 seq,
                         stage := 0, node := some { node := node, team := team, seq := seq, count := n }, tid0 := 0, threads := n,
                         entry := x.lr.kernel + BitVec.ofNat 64 e.entry, nrec := n }
      let z := y.2.placeWg core launch x d
      let s := { z.2 with q := { z.2.q with nodeSeq := FMap.put z.2.q.nodeSeq team (seq + 1) } }
      match s.wg z.1 with
      | some w => .next (s.writeRecs w x.hdr e.recSize 0 y.1)
      | none => .next s
  | _, _, _ => .next s

/-! ## Retirement, quiescence, completion (R465, R396, R379) -/

/-- WORKGROUP_RETIREMENT (R465, 08 R183, 13 R316): no thread of it lives, none of its groups drains, its copies are
complete. -/
noncomputable def execWorkgroupRetirement (wg : Nat) (s : State) : Out :=
  match s.wg wg with
  | none => .next s
  | some w =>
    let copies := s.fly.copies.any fun c => (c.dir != 0 && c.srcWg = wg) || c.srcWg = wg || c.dstWg = some wg
    let draining := (s.core w.core).groups.any fun e => e.2.phase = .draining && e.2.lanes.any fun t => t.2.wg = wg
    if s.liveOf wg ≠ 0 ∨ copies ∨ draining then .next s
    else
      let s := s.dropWg wg
      .next (if w.node.isSome then s else s.updLaunch w.launch fun x => { x with gridLeft := x.gridLeft - 1 })

/-- A launch has workgroups resident or saved. -/
def State.hasWork (s : State) (l : Nat) (x : Launch) : Bool :=
  x.gridLeft != 0 || !x.away.isEmpty || s.wgs.any fun e => e.2.launch = l

/-- QUIESCENCE (R396): posted once for a graph launch. -/
noncomputable def execQuiescence (launch : Nat) (s : State) : Out :=
  match s.launch launch with
  | none => .next s
  | some x =>
    if x.st != .running || x.hdr.nodes == 0 || s.hasWork launch x || s.q.fifos.any (fun f => f.launch = launch) ||
        s.q.transit.any (fun t => t.launch = launch) then .next s
    else .next (s.updLaunch launch fun x => { x with quiesced := true })

/-- A write of a launch's queue engines to its spill area is not performed yet. -/
def State.spilling (s : State) (l : Nat) (x : Launch) : Bool :=
  let inside := fun (va : DWord) => x.lr.spillBase.toNat ≤ va.toNat && decide (va.toNat < x.lr.spillBase.toNat + 128 * s.spillShare l)
  (s.fly.writes.any fun w => w.ctx = some x.lr.ctx && inside w.va) ||
    s.fly.parks.any fun p => p.ctx = x.lr.ctx && match p.who with | .write va _ _ => inside va | _ => false

/-- LAUNCH_COMPLETION (R379): STATUS 3, then DONE. -/
noncomputable def execLaunchCompletion (launch : Nat) (s : State) : Out :=
  match s.launch launch with
  | none => .next s
  | some x =>
    if x.st != .running || s.hasWork launch x || (x.hdr.nodes != 0 && !x.quiesced) ||
        s.fly.reqs.any (fun r => r.launch = launch && !r.done) || s.spilling launch x then .next s
    else
      let s := s.finish x.addr x.lr 3
      .next { s with q := { s.q with launches := FMap.erase s.q.launches launch } }

/-! ## The `launch` instruction (R397) -/

/-- The device ring of a class takes one more entry. -/
def Ring.canAppend (r : Ring) : Bool := r.dbase != 0 && ringSizeOk r.dsize 16 65536 && r.dwptr - r.drptr != r.dsize

/-- Append a record to its class's device ring: CTX, the entry, DWPTR. -/
def State.appendLaunch (s : State) (pa ctx : Nat) (ring : Nat) : Written :=
  let r := s.ring ring
  match s.outwardWrite ctx (pa + 0x1F) (toBytes 1 ctx) [] with
  | .done s =>
    match s.outwardWrite ctx (r.dbase.toNat + 8 * (r.dwptr.toNat % r.dsize.toNat)) (toBytes 8 pa) [] with
    | .done s => .done ((s.frameDone .table).updRing ring fun r => { r with dwptr := r.dwptr + 1 })
    | w => w
  | w => w

/-- Lines that the append of a record writes, and the pages that they lie in. -/
def State.appendLines (s : State) (pa ring : Nat) : List Nat :=
  let r := s.ring ring
  [s.memKey pa / 64, s.memKey (r.dbase.toNat + 8 * (r.dwptr.toNat % r.dsize.toNat)) / 64]

/-- `launch` (R397). -/
noncomputable def execLaunch (f : FormE) (s : State) : Out :=
  let i := Instr.launch f
  gated i s fun c g p ls =>
    let g := g.asIssued p
    let h := s.hdr g
    let va : DWord := BitVec.ofNat 64 (uniVal h g i.info.a i.view.a ls)
    if va.toNat % 128 ≠ 0 then .next (s.trapLow c g p cMISALIGN 0 va)
    else
      let r := s.translate c.core g.ctx va .rmw
      match r.1 with
      | .trap code detail => .next (s.trapLow c g p code detail va)
      | .noContext d => .next (s.walkFault g.ctx d c.core c.pc va (g.thread (lowLane ls)).tid)
      | .busy line => .next (s.stall c (.lines [(line, false)]) none)
      | .page => .next (s.parkWhole c g ls (va, Access.rmw.kind, false))
      | .light => .next (s.parkWhole c g ls (va, Access.rmw.kind, true))
      | .ok pa _ =>
        match s.earlier c (fun _ => true) with
        | id :: ids => .next (s.stall c (.requests (id :: ids)) none)
        | [] =>
          let line := pa / 64
          if s.isDevice pa && !(s.lostStack pa || s.homeReads c.core line) then .next (s.stall c (.lines [(line, true)]) none)
          else if s.isDevice pa && s.badLine line then .next ((s.detect line).killShared c.core c.gid)
          else
            let p1 := s.readN (pa + 2) 1
            let go := fun (t : State) (d : Nat) =>
              let t := t.fillTlb c.core r.2
              let t := if t.isDevice pa then t.homeRead c.core (some g.ctx) line else t
              let t := (t.issue c g p i ls.length).updGroup c.core c.gid (·.setFlags (allUV h g i ls))
              Host.Outcome.next ((t.updGroup c.core c.gid fun x => x.writeAll h i ls d).advance c)
            if 7 < p1 ∨ (s.ring p1).canAppend = false then go s 1
            else
              let lines := s.appendLines pa p1
              let wait := fun (t : State) => Host.Outcome.next (t.stall c (.lines (lines.map fun l => (l, true))) none)
              match s.appendLaunch pa g.ctx p1 with
              | .done t => go t 0
              | .frame =>
                let page := (lines.find? fun l => (s.cowAt s.gen.cur (l / 64) false).isNone).getD line / 64
                wait (s.noteFrame { who := .table, page := page, ctx := g.ctx, core := c.core })
              | .wait => wait s

end Sys2Proof.Machine
end

