-- ==== Sys2Proof/Machine/Preempt.lean ====
section
/-! DEFINITION. Pre-emption: the request, the ripcord, the save of groups and workgroups, and kills of contexts
(04_register_state.md R99; 09_traps_preemption.md R218 to R222, R226 to R228). -/

namespace Sys2Proof.Machine

/-- A register of a core's window (19 Table 19.2). -/
def coreWindow (core off : Nat) : Nat := 0x1000000 + 0x1000 * core + off

/-- An address without its bits [11:0]. -/
def pageBase (a : DWord) : Nat := a.toNat / 4096 * 4096

/-- An image area (R222): 1 MiB of this device's memory that holds no byte of the 4 MiB at the top of a stack (10 R231). -/
def areaValid (b : Nat) : Bool :=
  b != 0 && decide (b + 2 ^ 20 ≤ 2 ^ 40) && decide (b % 2 ^ 36 + 2 ^ 20 + 2 ^ 22 ≤ 2 ^ 36)

/-- The one pre-emption event of a request (R221). -/
def State.postSaved (s : State) (core : Nat) : State :=
  s.post 0x04 0 0 (s.core core).yreqCtx core (s.core core).saveBase 0

/-- SAVESTAT of a status and a size in 4 KiB units (Table 9.4). -/
def saveStatOf (status total : Nat) : Word := BitVec.ofNat 32 (status * 2 ^ 30 + (total + 4095) / 4096)

/-- YREQ_WRITE (R99, R222). -/
noncomputable def execYreqWrite (master core : Nat) (value : BitVec 32) (s : State) : Out :=
  if 2048 ≤ core then .next s
  else ownerWrite s master (coreWindow core 0x040) fun s =>
    if (s.core core).yreqV || !value.getLsbD 31 then s
    else if areaValid (pageBase (s.core core).saveBase) then
      s.updCore core fun k => { k with yreqV := true, yreqCtx := value.toNat % 64, yreqAt := s.now, saveFault := false }
    else
      let s := s.post 0x04 0 0 (value.toNat % 64) core (s.core core).saveBase 0
      s.updCore core fun k => { k with saveStat := saveStatOf 3 0 }

/-- DEADLINE_WRITE (R99): 0 loads 50,000, and a write while V is 1 is ignored. -/
noncomputable def execDeadlineWrite (master core : Nat) (value : BitVec 32) (s : State) : Out :=
  if 2048 ≤ core then .next s
  else ownerWrite s master (coreWindow core 0x044) fun s =>
    if (s.core core).yreqV then s
    else
      let n := if value = 0 then 50000 else value.toNat
      s.updCore core fun k => { k with deadline := n, deadlineSet := n }

/-- RIPCORD (R219): at DEADLINE 0 every group of the context on the core that is not draining is to be saved; its splits stop being
ready, and their PASS is 0 (17 R384). -/
noncomputable def execRipcord (core : Nat) (s : State) : Out :=
  let k := s.core core
  if k.yreqV && k.deadline == 0 then
    let mine := (k.groups.filter fun e => e.2.ctx = k.yreqCtx && e.2.phase != .draining).map (·.1)
    .next (mine.foldl (fun (s : State) g => (s.updGroup core g fun x =>
      { x.mapSplits fun q => { q with pass := 0 } with phase := .ripped }).freeTrack core g) s)
  else .next s

/-! ## Saving a group and its workgroups (R218 to R220) -/

/-- Workgroups of a group's live threads. -/
def Group.wgsOf (g : Group) : List Nat := ((maskLanes g.live).map fun l => (g.thread l).wg).eraseDups

/-- What a save waits for: tokens at zero, long-latency results written, copies and a running shuffle ended, scratch
accesses performed, and a `snap` at the barrier unit complete (R218, R219, R200, 13 R316). -/
def State.saveReady (s : State) (core gid : Nat) (g : Group) : Bool :=
  g.tok.isEmpty &&
    !(s.fly.reqs.any fun r => r.core = core && r.gid = gid && !r.dst.isEmpty) &&
    !(s.fly.scratch.any fun r => r.core = core && r.gid = gid) &&
    !(s.fly.sfu.any fun r => r.core = core && r.gid = gid) &&
    !(s.fly.copies.any fun c => c.core = core && (c.gid = gid || g.wgsOf.contains c.srcWg || c.dstWg.any g.wgsOf.contains)) &&
    !(s.core core).shuffles.any (fun h => (h.launch, h.node) = s.regroupKey g) &&
    g.splits.all (fun e => match e.2.wait with | .snap _ _ _ | .snapEnd _ => false | _ => true)

/-- Bytes and poisoned rows of a pan. -/
def State.panImage (s : State) (core pan : Nat) : List Byte × List Nat :=
  (s.panRead core (16384 * pan) 16384, (s.core core).badRows.filterMap fun r => if r / 256 = pan then some (r % 256) else none)

/-- Compute pans of a workgroup in some state. -/
def State.computeMask (s : State) (w : Wg) (p : Nat → Nat → Bool) : Nat :=
  (w.compute.mapIdx fun i pan => if p i ((s.core w.core).panState pan) then 2 ^ i else 0).foldl (· + ·) 0

/-- A workgroup of a core is to be saved (R220): threads of it live in saved groups, no resident group has any, no draining
group holds threads of it, no `pmma` and no copy uses its pans (R285, 13 R316), and no `pswap` of the cycle is still to take place. -/
def State.wgSaveReady (s : State) (core wk : Nat) : Bool :=
  let k := s.core core
  k.saved.any (fun g => g.group.liveIn wk != 0) && k.groups.all (fun e => !(e.2.lanes.any fun t => t.2.wg = wk)) &&
    !(s.fly.pmmas.any fun x => x.wg = wk) && !(s.fly.copies.any fun c => c.srcWg = wk || c.dstWg = some wk) &&
    !(s.fly.swaps.any fun x => x.1 = wk)

/-- A workgroup's last group has been saved: its pans are saved and it leaves the core (R220). -/
def State.saveWg (s : State) (core wk : Nat) : State :=
  match s.wg wk with
  | none => s
  | some w =>
    let mine := (s.core core).saved.filter fun g => g.group.liveIn wk != 0
    let dropped := fun i => mine.all (fun g => !g.forced) && (s.launchHdr w.launch).ydiscard / 2 ^ i % 2 == 1
    let kept := (w.compute.mapIdx fun i pan => if dropped i then none else some pan).filterMap id
    let live := mine.foldl (fun n g => n + g.group.liveIn wk) 0
    let x : SavedWg := { key := wk, wg := { w with sluiceAt := none, zeroing := none },
                         images := (w.storage ++ kept).map (s.panImage core),
                         saved := s.computeMask w fun i _ => !dropped i,
                         mode := s.computeMask w fun _ st => st = 1 || st = 2, live := live }
    let cohort := match s.launch w.launch with | some l => l.lr.wgCohort w.wgid | none => 0
    let a : AwayWg := { key := wk, wgid := w.wgid, node := w.node, cohort := cohort, live := live }
    ((s.dropWg wk).updLaunch w.launch fun l => { l with away := l.away ++ [a] }).updCore core fun k =>
      { k with savedWgs := k.savedWgs ++ [x] }

/-- Requests of a group in flight go under another identifier. -/
def Flight.moveReqs (f : Flight) (core gid core' gid' : Nat) : Flight :=
  { f with reqs := f.reqs.map fun r => if r.core = core ∧ r.gid = gid then { r with core := core', gid := gid' } else r }

/-- Every workgroup of a pending save whose groups have left goes after them (R220). -/
def State.settleSaves (s : State) : State :=
  s.wgs.foldl (fun (s : State) e =>
    let k := s.core e.2.core
    if k.yreqV && k.yreqCtx == e.2.ctx && s.wgSaveReady e.2.core e.1 then s.saveWg e.2.core e.1 else s) s

/-- Take a group off its core: it goes to the saved groups. -/
def State.saveGroup (s : State) (core gid : Nat) (g : Group) : State :=
  let k := s.newKey
  let x : SavedGroup := { gid := gid, key := 129 + k.1, group := g, forced := g.phase == .ripped, set := s.regroupKey g }
  let s := (k.2.freeTrack core gid).dropGroup core gid
  let s := { s with fly := { (s.fly.moveReqs core gid core x.key) with
    parks := s.fly.parks.filter fun p =>
      match p.who with
      | .split c i _ _ _ => !(c = core && i = gid)
      | _ => true } }
  s.updCore core fun k => { k with saved := k.saved ++ [x] }

/-- GROUP_SAVE (R218, R219). -/
noncomputable def execGroupSave (core gid : Nat) (s : State) : Out :=
  match s.group core gid with
  | none => .next s
  | some g =>
    if (g.phase == .yielding || g.phase == .ripped) && s.saveReady core gid g then .next (s.saveGroup core gid g) else .next s

/-! ## The context image (R223, R224) -/

/-- Fields of four splits, `n` bytes each. -/
def perSplit (g : Group) (n : Nat) (f : Split → Nat) : List Byte :=
  (List.range 4).flatMap fun i => toBytes n (match g.split i with | some p => f p | none => 0)

/-- The split's instruction is parked, or it has been and its unfinished lanes have not run again (R203): its page is served and the
replay is due, or the handler has it re-executed for them (R211). -/
def Split.parks (p : Split) : Bool :=
  match p.wait with
  | .parked _ => true
  | _ => p.resume.isNone && (p.replay.isSome || p.only.isSome)

/-- SPLST of a split (Table 9.7). -/
def splst (p : Split) : Nat :=
  if p.parks then 2 else match p.wait with
  | .ready | .yielding | .latch _ | .fault _ _ _ _ _ => 0
  | .parked _ => 2
  | .record _ => 3
  | .regroup _ _ _ _ => 4
  | _ => 1

/-- A chain reference. -/
def chainByte (c : Option Nat) : Nat := c.getD 0xFF

/-- RECORD i (Table 9.7). -/
def recordBytes (g : Group) (i : Nat) : List Byte :=
  match FMap.find g.records i with
  | some r => toBytes 8 r.j.toNat ++ toBytes 4 r.fmt.toNat ++ toBytes 4 r.wmask.toNat ++ toBytes 1 r.members.toNat ++
      toBytes 1 r.arrived.toNat ++ toBytes 1 (chainByte r.outer) ++ toBytes 1 1 ++ toBytes 12 0
  | none => toBytes 32 0

/-- The state block (Table 9.7). -/
def stateBlock (prio : Nat) (g : Group) : List Byte :=
  let mode := (if g.handler.isSome then 1 else 0) + (if g.keyu then 2 else 0)
  perSplit g 8 (·.pc.toNat) ++ perSplit g 4 (·.active.toNat) ++ perSplit g 4 (·.fmt.toNat) ++ perSplit g 4 (·.sig.toNat) ++
    toBytes 4 g.dead.toNat ++ toBytes 4 g.flags.toNat ++ toBytes 4 g.ten.toNat ++ toBytes 4 g.gang.toNat ++
    toBytes 1 g.rrb ++ toBytes 1 ((List.range 4).foldl (fun n i => if (g.split i).isSome then n + 2 ^ i else n) 0) ++
    toBytes 1 mode ++ toBytes 1 prio ++ perSplit g 1 splst ++ perSplit g 1 (·.stack.length) ++ toBytes 4 g.wgpos ++
    toBytes 4 g.recNo.toNat ++ toBytes 4 g.nrec.toNat ++
    toBytes 1 (match g.handler with | some h => h.split | none => 0) ++
    (List.range 4).flatMap (fun i => toBytes 1 (match g.split i with | some p => chainByte p.chain | none => 0xFF)) ++
    toBytes 3 0 ++ (List.range 3).flatMap (recordBytes g) ++ toBytes 32 0

/-- Lanes of a parked instruction that are unfinished. -/
def parkMask (p : Split) : Nat := if p.parks then (p.only.getD p.active).toNat else 0

/-- The lane block (Table 9.8); `ws` are the unit's workgroups. -/
def laneBlock (ws : List Nat) (g : Group) : List Byte :=
  lanes32.flatMap (fun l => toBytes 4 (g.thread l).tid.toNat) ++
    lanes32.flatMap (fun l => (List.range 4).flatMap fun k => toBytes 1 (FMap.get 0#8 (g.thread l).x k).toNat) ++
    (List.range 7).flatMap (fun k => toBytes 4 (maskOf (lanes32.filter fun l => (g.thread l).p.getLsbD k)).toNat) ++
    perSplit g 4 parkMask ++
    lanes32.flatMap (fun l => toBytes 1 (if g.dead.getLsbD l then 0xFF else ws.idxOf (g.thread l).wg)) ++ toBytes 52 0

/-- A stack entry (08 Table 8.3). -/
def entryBytes (e : StackEntry) : List Byte :=
  toBytes 8 e.resume.toNat ++ toBytes 8 e.join.toNat ++ toBytes 4 e.dmask.toNat ++ toBytes 4 e.wmask.toNat ++
    toBytes 4 e.fmt.toNat ++ toBytes 4 (if e.deferred then 1 else 0)

/-- The stacks of splits 0 to 3, bottom entry first. -/
def stackBytes (g : Group) : List Byte :=
  (List.range 4).flatMap fun i => match g.split i with | some p => p.stack.reverse.flatMap entryBytes | none => []

/-- A group record (R224). The granules that a yield does not save hold what they held (22 R459). -/
def groupRecord (prio regs : Nat) (ws : List Nat) (g : Group) : List Byte :=
  stateBlock prio g ++ laneBlock ws g ++ stackBytes g ++
    (List.range regs).flatMap (fun n => lanes32.flatMap fun l => toBytes 4 (FMap.get 0#32 (g.thread l).v n).toNat) ++
    (List.range 16).flatMap fun n => toBytes 4 (FMap.get 0#32 g.h n).toNat

/-- A workgroup record (Table 9.9) whose first pan image has index `firstp`. -/
def wgRecord (cpans firstp : Nat) (x : SavedWg) : List Byte :=
  toBytes 4 x.wg.wgid.toNat ++ toBytes 2 firstp ++ toBytes 1 x.wg.storage.length ++ toBytes 1 cpans ++ toBytes 4 x.saved ++
    toBytes 4 x.mode ++ toBytes 2 x.live ++
    (match x.wg.node with
      | some n => toBytes 4 n.node ++ toBytes 4 n.team ++ toBytes 4 n.seq
      | none => toBytes 12 0) ++ toBytes 2 0 ++
    (List.range 16).flatMap fun b => toBytes 2 ((FMap.find x.wg.barCount b).getD 0)

/-- A unit of an image (R30): a launch, its groups in record order and its workgroups. -/
structure ImageUnit where
  launch : Nat
  addr : Nat
  prio : Nat
  hdr : Header
  groups : List SavedGroup
  wgs : List SavedWg
  deriving DecidableEq, Repr

/-- Record order of groups: WGPOS, then GID (R223, 08 R465). -/
def SavedGroup.before (a b : SavedGroup) : Bool :=
  decide (a.group.wgpos < b.group.wgpos) || (a.group.wgpos == b.group.wgpos && decide (a.gid < b.gid))

/-- The units that a core has saved. -/
def State.imageUnits (s : State) (core : Nat) : List ImageUnit :=
  let k := s.core core
  ((ascending (k.saved.map fun g => g.group.launch)).eraseDups).filterMap fun l =>
    (s.launch l).map fun x =>
      { launch := l, addr := x.addr, prio := x.prio, hdr := x.hdr,
        groups := sortBy SavedGroup.before (k.saved.filter fun g => g.group.launch = l),
        wgs := k.savedWgs.filter fun w => w.wg.launch = l }

/-- A unit entry (Table 9.6). -/
def unitEntry (firstg firstw : Nat) (u : ImageUnit) : List Byte :=
  let arriving := u.groups.any fun g => g.group.splits.any fun e => splst e.2 = 4
  toBytes 8 u.addr ++ toBytes 2 firstg ++ toBytes 1 u.groups.length ++ toBytes 1 u.wgs.length ++ toBytes 2 firstw ++
    toBytes 1 ((if arriving then 1 else 0) + (if u.groups.all (fun g => !g.forced) then 2 else 0)) ++ toBytes 1 0

/-- The unit table's entries in use, from running indices. -/
def unitTable : Nat → Nat → List ImageUnit → List Byte
  | _, _, [] => []
  | g, w, u :: us => unitEntry g w u ++ unitTable (g + u.groups.length) (w + u.wgs.length) us

/-- The group records of the units. -/
def groupArea (us : List ImageUnit) : List Byte :=
  us.flatMap fun u => u.groups.flatMap fun g => groupRecord u.prio u.hdr.regs (u.wgs.map (·.key)) g.group

/-- The workgroup records, from a running pan index. -/
def wgArea : Nat → List (Nat × SavedWg) → List Byte
  | _, [] => []
  | p, x :: xs => wgRecord x.1 p x.2 ++ wgArea (p + x.2.images.length) xs

/-- Round up to a multiple of 4,096. -/
def pageUp (n : Nat) : Nat := (n + 4095) / 4096 * 4096

/-- An image: its bytes and its poisoned lines, as line numbers from its base. -/
structure Image where
  bytes : List Byte
  bad : List Nat
  deriving DecidableEq, Repr

/-- The image of the units (R223, Table 9.5). -/
def State.imageOf (s : State) (core status ctx : Nat) (us : List ImageUnit) : Image :=
  let gs := groupArea us
  let ws := us.flatMap fun u => u.wgs.map fun w => (u.hdr.cpans, w)
  let pans := ws.flatMap fun w => w.2.images
  let wgoff := 4096 + gs.length
  let wend := wgoff + 64 * ws.length
  let panoff := pageUp wend
  let total := if pans.isEmpty then wend else panoff + 16384 * pans.length
  let table := unitTable 0 0 us
  let header := toBytes 2 1 ++ toBytes 2 0x4349 ++ toBytes 4 status ++ toBytes 4 ctx ++ toBytes 4 core ++
    toBytes 8 s.clk.clock ++ toBytes 8 s.clk.time ++ toBytes 4 us.length ++
    toBytes 4 (us.foldl (fun n u => n + u.groups.length) 0) ++ toBytes 4 ws.length ++ toBytes 4 pans.length ++
    toBytes 8 0x1000 ++ toBytes 8 wgoff ++ toBytes 8 panoff ++ toBytes 8 total ++ toBytes 48 0 ++ table ++
    toBytes (2048 - table.length) 0 ++ toBytes 1920 0
  let body := header ++ gs ++ wgArea 0 ws
  { bytes := if pans.isEmpty then body else body ++ toBytes (panoff - wend) 0 ++ pans.flatMap (·.1),
    bad := (pans.mapIdx fun i p => p.2.map fun r => panoff / 64 + 256 * i + r).flatMap id }

/-- Write consecutive pages of device memory for a core. -/
def State.writePages (s : State) (ctx core : Nat) : Nat → Nat → List Byte → Written
  | 0, _, _ => .done s
  | n + 1, pa, bs =>
    if bs.isEmpty then .done s
    else match s.homeWrite ctx core pa (bs.take 4096) false with
      | .done s => s.writePages ctx core n (pa + 4096) (bs.drop 4096)
      | w => w

/-- Write an image. A line of the area that holds an uncorrectable error is written poisoned (R222). -/
def State.writeImage (s : State) (ctx core base : Nat) (im : Image) : Written :=
  let first := base / 64
  let bad := ((List.range ((im.bytes.length + 63) / 64)).map (first + ·)).filter s.badLine ++ im.bad.map (first + ·)
  match s.writePages ctx core 256 base im.bytes with
  | .done s => .done { s with poisoned := bad ++ s.poisoned.filter (fun l => !bad.contains l) }
  | w => w

/-- An image that cannot be written yet waits for its lines, or for a shadow frame (16 R367). -/
def State.imageWaits (s : State) (core : Nat) (w : Written) : State :=
  let k := s.core core
  match w with
  | .frame =>
    let first := pageBase k.saveBase / 4096
    let page := (((List.range 256).map (first + ·)).find? fun p => (s.cowAt s.gen.cur p false).isNone).getD first
    s.noteFrame { who := .table, page := page, ctx := k.yreqCtx, core := core }
  | .done _ | .wait => s

/-- What the device keeps of a saved group: its registers and predicates are in the image. -/
def SavedGroup.kept (g : SavedGroup) : SavedGroup :=
  { g with group := { g.group with lanes := g.group.lanes.map fun e => (e.1, { empty := e.2.empty }) } }

/-- The request of a core is over: V clears and DEADLINE reloads (R99). -/
def CoreSt.endRequest (k : CoreSt) (stat : Word) : CoreSt :=
  { k with saveStat := stat, yreqV := false, deadline := k.deadlineSet, saved := [], savedWgs := [], saveFault := false }

/-- Offsets of the units' first group records, from a running one. -/
def unitOffsets : Nat → List ImageUnit → List Nat
  | _, [] => []
  | o, u :: us => o :: unitOffsets (o + (groupArea [u]).length) us

/-- What the device writes at the end of a save: the units' image with STATUS 0, or 1 with nothing saved; after a context
fault the header alone, with STATUS 2 (R221). -/
def State.saveEnd (s : State) (core : Nat) : Nat × List ImageUnit × Image :=
  let k := s.core core
  if k.saveFault then (2, [], s.imageOf core 2 k.yreqCtx [])
  else
    let us := s.imageUnits core
    let status := if us.isEmpty then 1 else 0
    (status, us, s.imageOf core status k.yreqCtx us)

/-- A save can end: no group of the context is resident and unsaved, its workgroups have gone with them, and a cycle has
passed since the request (04 R99); after a context fault, kill-complete has been posted. -/
def State.saveOver (s : State) (core : Nat) : Bool :=
  let k := s.core core
  k.yreqV && decide (k.yreqAt < s.now) && (k.groupsOf k.yreqCtx).isEmpty &&
    (if k.saveFault then !s.killing.contains k.yreqCtx
     else k.saved.all fun g => g.group.wgsOf.all fun w => (s.wg w).isNone)

/-- PREEMPTION_COMPLETE (R221, R226): the image, SAVESTAT, V and one event. -/
noncomputable def execPreemptionComplete (core : Nat) (s : State) : Out :=
  let k := s.core core
  if !s.saveOver core then .next s
  else
    let e := s.saveEnd core
    let us := e.2.1
    let im := e.2.2
    match s.writeImage k.yreqCtx core (pageBase k.saveBase) im with
    | .done t =>
      let x : KeptImage := { base := pageBase k.saveBase, core := core, clock := s.now, ctx := k.yreqCtx,
                             groups := us.flatMap fun u => u.groups.map SavedGroup.kept,
                             wgs := us.flatMap fun u => u.wgs.map fun w => { w with images := [] },
                             offs := unitOffsets 4096 us }
      let t := if us.isEmpty then t else { t with kept := t.kept ++ [x] }
      .next (((t.frameDone .table).postSaved core).updCore core (·.endRequest (saveStatOf e.1 im.bytes.length)))
    | w => .next (s.imageWaits core w)

/-! ## Kills of contexts (R227, R228) -/

/-- OWNER_CONTEXT_KILL (R227, R228): the rules give no register for it; the owner's order kills, and another master's does nothing, the
model's choice (notes/assumptions/45.md). -/
noncomputable def execOwnerContextKill (master ctx : Nat) (s : State) : Out :=
  if s.cust.attach.getLsbD master && master == s.cust.owner && decide (ctx < 64) then
    .next (s.contextFault ctx 0 0 0xFFFF 0 0)
  else .next s

/-- STATUS 7 and DONE of a killed launch (17 R379). -/
def State.endKilled (s : State) (l : Nat) (x : Launch) : State :=
  let s := s.finish x.addr x.lr 7
  { s with q := { s.q with launches := FMap.erase s.q.launches l } }

/-- KILL_COMPLETE (R227, 17 R379, 18 R417): every write of the context is performed or discarded. -/
noncomputable def execKillComplete (ctx : Nat) (s : State) : Out :=
  if !s.killing.contains ctx then .next s
  else
    let s := s.post 0x03 0 0 ctx 0xFFFF 0 0
    let s := { s with killing := s.killing.filter (· ≠ ctx),
                      xl := { s.xl with seals := s.xl.seals.filter fun e => e.2.ctx ≠ ctx } }
    let dead := s.q.launches.filter fun e => e.2.st == .killed && e.2.lr.ctx = ctx
    .next (dead.foldl (fun (s : State) e => s.endKilled e.1 e.2) s)

end Sys2Proof.Machine
end

