-- ==== Sys2Proof/Machine/Custody.lean ====
section
/-! DEFINITION. System registers, integrity and custody (19_counters_integrity_custody.md R420 to R432, 01 R14). -/

namespace Sys2Proof.Machine

/-! ## Election and handover (R428, R429) -/

/-- Rank of a port. -/
def Custody.rank (c : Custody) (p : Nat) : Nat := (FMap.find c.ranks p).getD 0

/-- The attached port with the lowest rank, the lowest of equal ones. -/
def Custody.lowest (c : Custody) : Option Nat :=
  (List.range 5).foldl (fun (best : Option Nat) p =>
    if !c.attach.getLsbD p then best
    else match best with
      | none => some p
      | some q => if c.rank p < c.rank q then some p else best) none

/-- The election (R428): it cancels a handover; without an attached master the owner stays. -/
def Custody.elect (c : Custody) : Custody :=
  { c with owner := c.lowest.getD c.owner, handover := none, handoverReg := c.handoverReg &&& 0x7FFFFFFF }

/-- Nanoseconds of TIME that the owner's port may be down. -/
def portDownTime : Nat := 10 ^ 8

/-- The owner's port has been down for 100 ms of TIME (R428). -/
def State.ownerGone (s : State) : Bool :=
  match FMap.find s.cust.portDown s.cust.owner with
  | some since => decide (since + portDownTime ≤ s.clk.time)
  | none => false

/-- OWNER_PORT_DOWN_TIMEOUT (R428): the owner's port has been down for 100 ms of TIME, so its master is no longer attached. -/
noncomputable def execOwnerPortDownTimeout (s : State) : Out :=
  if s.ownerGone then
    .next { s with cust := ({ s.cust with attach := s.cust.attach &&& ~~~((1#5) <<< s.cust.owner) } : Custody).elect }
  else .next s

/-- A master can be attached at a port: the baseboard controller at port 4, and hosts at ports 0 to 3 of a bridging device, whose
ports train as CXL (01 R13). -/
def Custody.trains (c : Custody) (port : Nat) : Bool := port == 4 || (c.bridging && decide (port < 4))

/-- A change at a port at a TIME: its link goes down or comes up, its master attaches or detaches; the owner's detachment starts an
election (R428). -/
def Custody.portChange (c : Custody) (port time : Nat) : PortChange → Custody
  | .attach => if c.trains port then { c with attach := c.attach ||| (1#5) <<< port, portDown := FMap.erase c.portDown port } else c
  | .detach =>
    let d : Custody := { c with attach := c.attach &&& ~~~((1#5) <<< port), portDown := FMap.erase c.portDown port }
    if port = c.owner then d.elect else d
  | .down => if (FMap.find c.portDown port).isSome then c else { c with portDown := FMap.put c.portDown port time }
  | .up => { c with portDown := FMap.erase c.portDown port }

/-- MASTER_ATTACH_DETACH (R428). -/
noncomputable def execMasterAttachDetach (port : Nat) (change : PortChange) (s : State) : Out :=
  if 4 < port then .next s else .next { s with cust := s.cust.portChange port s.clk.time change }

/-- Nanoseconds in which a handover must be accepted. -/
def handoverTime : Nat := 10 ^ 9

/-- A write to HANDOVER (Table 19.10): the owner's offer, or the target's acceptance; every other write is discarded. -/
def handoverWrite (master : Nat) (value : BitVec 32) (s : State) : Out :=
  let port := value.toNat % 8
  let pend := value.getLsbD 31
  if !s.cust.attach.getLsbD master then .next s
  else if master = s.cust.owner then
    if !pend then .next { s with cust := { s.cust with handover := none, handoverReg := BitVec.ofNat 32 port } }
    else if s.cust.attach.getLsbD port then
      .next { s with cust := { s.cust with handover := some (port, s.clk.time),
                                           handoverReg := BitVec.ofNat 32 (2 ^ 31 + port) } }
    else .next s
  else
    match s.cust.handover with
    | some (t, since) =>
      if pend && port = master && t = master && decide (s.clk.time < since + handoverTime) then
        .next { s with cust := { s.cust with owner := master, handover := none, handoverReg := BitVec.ofNat 32 port } }
      else .next (s.post 0x0C 0 0 0xFF 0xFFFF 0x804 0)
    | none => .next (s.post 0x0C 0 0 0xFF 0xFFFF 0x804 0)

/-- HANDOVER_OFFER (R429). -/
noncomputable def execHandoverOffer (master : Nat) (value : BitVec 32) (s : State) : Out := handoverWrite master value s

/-- HANDOVER_ACCEPT (R429). -/
noncomputable def execHandoverAccept (master : Nat) (value : BitVec 32) (s : State) : Out := handoverWrite master value s

/-- HANDOVER_LAPSE (R429): 1 s of TIME has passed. -/
noncomputable def execHandoverLapse (s : State) : Out :=
  match s.cust.handover with
  | some (_, since) =>
    if since + handoverTime ≤ s.clk.time then
      .next { s with cust := { s.cust with handover := none, handoverReg := s.cust.handoverReg &&& 0x7FFFFFFF } }
    else .next s
  | none => .next s

/-- PACKAGE_RESET (16 R357, R428): every register and counter at its reset value, then the election. Device memory stays as
HBM holds it (13 R306); firmware, configuration, fuses and erased keys stay, the masters stay attached, and a port that is down
is down from TIME 0 on. -/
noncomputable def execPackageReset (s : State) : Out :=
  let c : Custody := { s.cust with handover := none, handoverReg := 0,
                                   portDown := s.cust.portDown.map fun e => (e.1, 0),
                                   keys := if s.cust.keysErased then s.cust.keys else State.reset.cust.keys }
  .next { State.reset with
    dev := s.dev, agenda := s.agenda, turns := s.turns, fresh := s.fresh, mem := s.mem, poisoned := s.poisoned,
    latent := s.latent, soft := s.soft, cust := c.elect }

/-! ## System windows (R420, R421) -/

/-- A write to a register of the package window; reserved bits are ignored (00 R5). -/
def State.writePackage (s : State) (off : Nat) (v : DWord) : State :=
  let w : Word := v.setWidth 32
  let ringOff := off - 0x400
  let c := ringOff / 0x40
  if off = 0x210 then
    if s.gen.retained.isEmpty && w.toNat % 16 = 0 && decide (w.toNat ≤ 512) then { s with gen := { s.gen with poolGib := w.toNat } } else s
  else if off = 0x218 then { s with gen := { s.gen with snapCtx := v } }
  else if 0x400 ≤ off ∧ off < 0x600 then
    let r := s.ring c
    match ringOff % 0x40 with
    | 0x00 => if r.owptr = r.orptr then s.updRing c fun r => { r with obase := v } else s
    | 0x08 => if r.owptr = r.orptr then s.updRing c fun r => { r with osize := w } else s
    | 0x18 => if r.dwptr = r.drptr then s.updRing c fun r => { r with dbase := v } else s
    | 0x20 => if r.dwptr = r.drptr then s.updRing c fun r => { r with dsize := w } else s
    | _ => s
  else if off = 0x600 then { s with xl := { s.xl with ctxBase := v } }
  else if off = 0x608 then { s with xl := { s.xl with pfBase := v } }
  else if off = 0x610 then { s with xl := { s.xl with pfSize := w } }
  else if off = 0x620 then { s with xl := { s.xl with fxTime := w } }
  else if off = 0x628 then { s with xl := { s.xl with splBase := v } }
  else if off = 0x630 then if s.xl.splStat.getLsbD 31 then s else { s with xl := { s.xl with splCnt := w } }
  else if off = 0x640 then { s with xl := { s.xl with splCtx := w &&& 0x3F } }
  else if off = 0x648 then { s with xl := { s.xl with biasBase := v } }
  else if off = 0x680 then { s with fq := { s.fq with base := v } }
  else if off = 0x688 then { s with fq := { s.fq with size := w } }
  else if off = 0x690 then { s with fq := { s.fq with tail := w } }
  else if off = 0x704 then { s with coh := { s.coh with quarCnt := 0 } }
  else s

/-- A write to a register of a C-die's window. -/
def State.writeDie (s : State) (die off : Nat) (v : DWord) : State :=
  let w : Word := v.setWidth 32
  s.updDie die fun d =>
    match off with
    | 0x100 => { d with migBase := v }
    | 0x108 => { d with migSize := w }
    | 0x114 => if w.toNat / 256 % 256 ≥ w.toNat % 256 then d else { d with migThr := w &&& 0xFFFF }
    | 0x118 => { d with migEpoch := w }
    | 0x180 => { d with eccCor := 0 }
    | 0x184 => { d with eccUnc := 0 }
    | 0x188 => { d with mirRetry := 0 }
    | 0x18C => { d with deadLane := 0 }
    | 0x190 => { d with mCheck := 0 }
    | _ => d

/-- A write to a register of a core's window. The owner's write of a counter's register stands against a `pmc` of its cycle (R423). -/
def State.writeCore (s : State) (core off : Nat) (v : DWord) : State :=
  s.updCore core fun k =>
    if off = 0x048 then if k.yreqV then k else { k with saveBase := v }
    else if 0x080 ≤ off ∧ off < 0x0A0 ∧ off % 4 = 0 then
      { k with pmcSel := FMap.set 0#32 k.pmcSel ((off - 0x80) / 4) (v.setWidth 32 &&& 0x7FFF),
               pmcOwner := (off - 0x80) / 4 :: k.pmcOwner }
    else if 0x0A0 ≤ off ∧ off < 0x0E0 ∧ off % 8 = 0 then
      { k with pmcCnt := FMap.set 0#64 k.pmcCnt ((off - 0xA0) / 8) v, pmcOwner := (8 + (off - 0xA0) / 8) :: k.pmcOwner }
    else if off = 0x0E0 then { k with pmcCtx := v }
    else k

/-- Offsets whose writes are events of their own: YREQ, DEADLINE, OWPTR, PFTAIL, PFREPLY, SPLREQ, HANDOVER. -/
def ownEvent (off : Nat) : Bool :=
  off = 0x618 || off = 0x61C || off = 0x638 || off = 0x804 || (decide (0x400 ≤ off) && decide (off < 0x600) && off % 0x40 = 0x0C) ||
    (decide (0x1000000 ≤ off) && decide (off < 0x1800000) && (off % 0x1000 = 0x040 || off % 0x1000 = 0x044))

/-- SYSTEM_REGISTER_WRITE (R420, R421): writes to read-only registers and to reserved offsets are discarded. -/
noncomputable def execSystemRegisterWrite (master off : Nat) (value : BitVec 64) (s : State) : Out :=
  if ownEvent off then .next s
  else ownerWrite s master off fun s =>
    if off < 0x10000 then s.writePackage off value
    else if 0x100000 ≤ off ∧ off < 0x180000 then s.writeDie ((off - 0x100000) / 0x10000) (off % 0x10000) value
    else if 0x1000000 ≤ off ∧ off < 0x1800000 then s.writeCore ((off - 0x1000000) / 0x1000) (off % 0x1000) value
    else s

/-! ## Firmware, identity, alarm (R430 to R432) -/

/-- An image is accepted (R430). -/
def Custody.accepts (c : Custody) (image : List Byte) : Bool :=
  !c.keysErased && Config.rsaVerifies image && Config.slhVerifies image && decide (c.fuseVersion ≤ Config.imageVersion image)

/-- The masters at ports that do not train any more are detached; the owner's detachment starts an election. -/
def Custody.retrain (c : Custody) : Custody :=
  let c : Custody := { c with attach := if c.bridging then c.attach else c.attach &&& 0b10000 }
  if c.attach.getLsbD c.owner then c else c.elect

/-- FIRMWARE_IMAGE (R430): an accepted image runs, an accepted configuration block gives ranks, the alarm policy and whether the
device bridges (01 R13). -/
noncomputable def execFirmwareImage (config : Bool) (image : List Byte) (s : State) : Out :=
  if !s.cust.accepts image then .next s
  else
    let c : Custody := { s.cust with fuseVersion := Nat.max s.cust.fuseVersion (Config.imageVersion image) }
    let c : Custody := if config then
        ({ c with config := image, eraseOnAlarm := Config.configErases image, bridging := Config.configBridging image,
                  ranks := (List.range 5).map fun p => (p, Config.configRank image p % 256) } : Custody).retrain
      else { c with firmware := image }
    .next { s with cust := c }

/-- What an attestation report says (R431). -/
def Report.body (r : Report) : List Byte :=
  toBytes 48 r.rom.toNat ++ toBytes 48 r.firmware.toNat ++ toBytes 48 r.config.toNat ++ toBytes 1 r.owner ++ toBytes 32 r.nonce.toNat

/-- ATTESTATION_REPORT (R431): signed under both schemes, each with its key; refused once the keys are erased (R432). -/
noncomputable def execAttestationReport (_port : Nat) (nonce : BitVec 256) (s : State) : Out :=
  if s.cust.keysErased then .next s
  else
    let r : Report := { rom := sha384 Config.bootRom, firmware := sha384 s.cust.firmware,
                        config := sha384 s.cust.config, owner := s.cust.owner, nonce := nonce, sigs := [] }
    let r := { r with sigs := s.cust.keys.mapIdx fun scheme k => Config.sign scheme k r.body }
    .next { s with cust := { s.cust with reports := r :: s.cust.reports } }

/-- An alarm (R432): under the policy of erasing, the keys are gone before the event is posted. -/
def State.alarm (s : State) : State :=
  let s := if s.cust.eraseOnAlarm then
      { s with cust := { s.cust with keys := s.cust.keys.map fun _ => 0, keysErased := true } }
    else s
  s.post 0x0F 0 0 0xFF 0xFFFF 0 0

/-- The device is provisioned anew: it derives its keys again (R431, R432). -/
noncomputable def State.reprovision (s : State) : State :=
  { s with cust := { s.cust with keys := State.reset.cust.keys, keysErased := false } }

/-- SECURITY_ALARM (R432): an alarm, or the re-provisioning that ends what it has erased. -/
noncomputable def execSecurityAlarm (cause : Alarm) (s : State) : Out :=
  match cause with
  | .reprovisioned => .next s.reprovision
  | .tamper | .firmware | .policy => .next s.alarm

/-! ## Integrity (R425, R426) -/

/-- PATROL_SCRUB (R426): a corrected error is counted and written back; an uncorrectable one is counted, poisons the line
and is posted. One in a tag line ends the snapshots (16 R374). -/
noncomputable def execPatrolScrub (line : Nat) (s : State) : Out :=
  if 2 ^ 34 ≤ line then .next s
  else if !s.latent.contains line then .next (s.detect line)
  else
    let s := (s.detect line).post 0x0E 0 0 0xFF (homeDie (line * 64)) (BitVec.ofNat 64 (64 * line)) 0
    .next (match tagLine line with | some t => s.tagLineLost t | none => s)

/-- An uncorrectable error of a core is counted on its die. -/
def State.countUnc (s : State) (core : Nat) : State := s.updDie (dieOf core) fun d => { d with eccUnc := satInc d.eccUnc }

/-- A context's line, its page-table entry or image header, is an uncorrectable error: it is counted at its home and poisoned, and the
context takes a context fault (R425, R426). -/
def State.contextLineLost (s : State) (ctx line : Nat) : State :=
  if 64 ≤ ctx || 2 ^ 34 ≤ line then s
  else
    let s := if s.latent.contains line then s.detect line
      else (s.poisonLine line).updDie (homeDie (line * 64)) fun d => { d with eccUnc := satInc d.eccUnc }
    s.contextFault ctx cUNCORRECTABLE 0 0xFFFF 0 0

/-- An error arises in a line, and nothing has met it yet. -/
def State.lineError (s : State) (line : Nat) (correctable : Bool) : State :=
  if 2 ^ 34 ≤ line then s
  else if correctable then { s with soft := line :: s.soft.filter (· ≠ line) }
  else { s with latent := line :: s.latent.filter (· ≠ line) }

/-- A cell of a pan in compute mode flips (R426): until the pan returns to storage mode the results hold it. -/
def State.flipCell (s : State) (core pan bit : Nat) : State :=
  let st := (s.core core).panState pan
  let b := 131072 * pan + bit
  if 2048 ≤ core || 32 ≤ pan || 131072 ≤ bit || !(st = 1 || st = 3) then s
  else (s.updCore core (·.flip b)).updCore core fun k =>
    { k with flipped := if k.flipped.contains b then k.flipped.filter (· ≠ b) else b :: k.flipped }

/-- UNCORRECTABLE_ERROR_CONSUMED (R426, 09 R216, R217): what the data covers dies; and the errors that are corrected, that nothing has
met yet, or that flip a cell. -/
noncomputable def execUncorrectableErrorConsumed (site : ErrSite) (s : State) : Out :=
  match site with
  | .thread core gid lane => if lane < 32 then .next ((s.countUnc core).killLane core gid lane) else .next s
  | .group core gid => .next ((s.countUnc core).killShared core gid)
  | .panRow wg => match s.wg wg with
    | some w => .next ((s.countUnc w.core).killWg wg)
    | none => .next s
  | .pageTable ctx line => .next (s.contextLineLost ctx line)
  | .imageHeader ctx line => .next (s.contextLineLost ctx line)
  | .line line correctable => .next (s.lineError line correctable)
  | .corrected die => if die < 8 then .next (s.updDie die fun d => { d with eccCor := satInc d.eccCor }) else .next s
  | .cell core pan bit => .next (s.flipCell core pan bit)

/-- POWER_CAP_THROTTLE (01 R14): the rate of the core clock; TIME keeps its own. The power manager sets one rate for all cores of the
package, the model's choice (notes/assumptions/44.md). -/
noncomputable def execPowerCapThrottle (mhz : Nat) (s : State) : Out :=
  if 1 ≤ mhz ∧ mhz ≤ 1900 then .next { s with clk := { s.clk with mhz := mhz } } else .next s

end Sys2Proof.Machine
end

