-- ==== Sys2Proof/Machine/Restore.lean ====
section
/-! DEFINITION. Restore of a unit of a context image (09_traps_preemption.md R225, Tables 9.5 to 9.10; 01 R30; 10 R240). -/

namespace Sys2Proof.Machine

/-! ## Clause headers (02 R34, R36 to R40, R48) -/

/-- The word that holds the instruction at a PC (R34). -/
def wordOf (pc : DWord) : DWord := pc &&& ~~~3#64

/-- COUNT. -/
def hdrCount (w : Word) : Nat := bits w 29 26
/-- CLASS. -/
def hdrClass (w : Word) : Nat := bits w 25 23
/-- WAIT names token k. -/
def hdrWaits (w : Word) (k : Nat) : Bool := w.getLsbD (15 + k)
/-- STALL. -/
def hdrStall (w : Word) : Nat := bits w 14 8
/-- YCHK. -/
def hdrYchk (w : Word) : Bool := w.getLsbD 7

/-- A word is a clause header that R36 admits. -/
def headerOk (w : Word) : Bool := bits w 31 30 == 3 && hdrCount w != 0 && hdrClass w != 7 && bits w 6 0 == 0

/-- Code `n` of a kind-10 word. -/
def codeOf (w : Word) (n : Nat) : Nat := w.toNat / 2 ^ (15 * n) % 2 ^ 15
/-- V of a code. -/
def codeValid (c : Nat) : Bool := c / 2 ^ 14 % 2 == 1

/-! ## Where an image's parts lie (Tables 9.5, 9.6) -/

/-- A field of memory. -/
def State.word (s : State) (a n : Nat) : Nat := s.readN a n

/-- Some line of `n` bytes from `a` is an uncorrectable error. -/
def State.badBytes (s : State) (a n : Nat) : Bool :=
  (List.range (n / 64 + 2)).any fun i => decide ((a / 64 + i) * 64 < a + n) && s.badLine (a / 64 + i)

/-- Bytes of a group record at `a` (R224): its depths are in the state block. -/
def State.recordSize (s : State) (regs a : Nat) : Nat :=
  704 + 32 * ((List.range 4).foldl (fun n i => n + s.word (a + 0x68 + i) 1) 0) + 128 * regs

/-- Addresses of consecutive group records. -/
def State.recordsAt (s : State) (regs : Nat) : Nat → Nat → List Nat
  | 0, _ => []
  | n + 1, a => a :: s.recordsAt regs n (a + s.recordSize regs a)

/-- The running launch of a record's address in a context. -/
def State.launchAt (s : State) (ctx addr : Nat) : Option (Nat × Launch) :=
  s.q.launches.find? fun e => e.2.addr = addr && e.2.lr.ctx = ctx && e.2.st == .running

/-- Offset of the first group record of unit `i`: the records of the units before it come first. None where the launch of one
of those is known no longer. -/
def State.unitStart (s : State) (base ctx : Nat) : Nat → Option Nat
  | 0 => some 0x1000
  | i + 1 => do
    let o ← s.unitStart base ctx i
    let e := base + 0x80 + 16 * i
    let x ← s.launchAt ctx (s.word e 8)
    return (s.recordsAt x.2.hdr.regs (s.word (e + 10) 1) (base + o)).foldl (fun n r => n + s.recordSize x.2.hdr.regs r) o

/-- A unit entry, and where its parts lie. -/
structure UnitAt where
  addr : Nat
  firstg : Nat
  ng : Nat
  nw : Nat
  firstw : Nat
  /-- its group records -/
  recs : Nat
  /-- its workgroup records -/
  wrecs : Nat
  /-- pan image 0 of the whole image -/
  pans : Nat
  deriving DecidableEq, Repr

/-- Unit `i` of the image at `base`; `recs` is the offset of its group records. -/
def State.unitAt (s : State) (base recs i : Nat) : UnitAt :=
  let e := base + 0x80 + 16 * i
  let firstw := s.word (e + 12) 2
  { addr := s.word e 8, firstg := s.word (e + 8) 2, ng := s.word (e + 10) 1, nw := s.word (e + 11) 1, firstw := firstw,
    recs := base + recs, wrecs := base + s.word (base + 0x38) 8 + 64 * firstw, pans := base + s.word (base + 0x40) 8 }

/-! ## Groups -/

/-- A stack entry at an address. -/
def State.entryAt (s : State) (a : Nat) : StackEntry :=
  { resume := BitVec.ofNat 64 (s.word a 8), join := BitVec.ofNat 64 (s.word (a + 8) 8),
    dmask := BitVec.ofNat 32 (s.word (a + 0x10) 4), wmask := BitVec.ofNat 32 (s.word (a + 0x14) 4),
    fmt := BitVec.ofNat 32 (s.word (a + 0x18) 4), deferred := s.word (a + 0x1C) 1 % 2 == 1 }

/-- A chain reference. -/
def chainOf (b : Nat) : Option Nat := if b ≤ 2 then some b else none

/-- The join records of a state block. -/
def State.joinsAt (s : State) (a : Nat) : FMap JoinRecord :=
  (List.range 3).filterMap fun i =>
    let r := a + 0x80 + 32 * i
    if s.word (r + 19) 1 = 1 then
      some (i, { j := BitVec.ofNat 64 (s.word r 8), fmt := BitVec.ofNat 32 (s.word (r + 8) 4),
                 wmask := BitVec.ofNat 32 (s.word (r + 12) 4), members := BitVec.ofNat 4 (s.word (r + 16) 1),
                 arrived := BitVec.ofNat 4 (s.word (r + 17) 1), outer := chainOf (s.word (r + 18) 1) })
    else none

/-- What a restored split waits for: it arrives again at a regroup and at a latch, and a parked one replays. -/
def Wait.restored (w : Wait) (inClause : Bool) : Wait :=
  match w with
  | .regroup _ _ _ _ | .latch _ | .parked _ | .yielding => if inClause then .ready else .held
  | w => w

/-- Whether the instruction at the split's PC counts as issued: one that arrives again is issued again, a parked one goes
on. -/
def Split.restoredIssued (p : Split) : Bool :=
  match p.wait with
  | .regroup _ _ _ _ | .latch _ | .yielding => false
  | _ => p.issued

/-- Where a restored split goes on when its wait ends. -/
def Split.restoredResume (p : Split) : Option DWord :=
  match p.wait with
  | .regroup _ _ _ _ | .latch _ | .parked _ | .yielding => none
  | _ => p.resume

/-- Bottom address of a split's stack entries. -/
def State.stackAt (s : State) (a i : Nat) : Nat :=
  a + 640 + 32 * ((List.range i).foldl (fun n j => n + s.word (a + 0x68 + j) 1) 0)

/-- Split `i` of the group record at `a`; `p` is what the device keeps of it. The STALL of its next clause counts from the restore: the
model's choice (01 R24; notes/assumptions/46.md). -/
def State.splitAt (s : State) (a i now : Nat) (p : Split) : Split :=
  { p with
    pc := BitVec.ofNat 64 (s.word (a + 8 * i) 8), active := BitVec.ofNat 32 (s.word (a + 0x20 + 4 * i) 4),
    fmt := BitVec.ofNat 32 (s.word (a + 0x30 + 4 * i) 4), sig := BitVec.ofNat 32 (s.word (a + 0x40 + 4 * i) 4),
    stack := ((List.range (s.word (a + 0x68 + i) 1)).map fun k => s.entryAt (s.stackAt a i + 32 * k)).reverse,
    chain := chainOf (s.word (a + 0x79 + i) 1),
    wait := p.wait.restored p.clause.isSome, resume := p.restoredResume, issued := p.restoredIssued,
    only := if p.only.isSome then some (BitVec.ofNat 32 (s.word (a + 0x11C + 256 + 4 * i) 4)) else none,
    cls := s.word (a + 0x63) 1, rt := now, clauseEnd := now, pass := 0 }

/-- A lane's registers, from the register area at `r`; a yield saves only the granules of YSAVE (R218). -/
def State.regsAt (s : State) (r regs ysave lane : Nat) (yielded : Bool) : FMap Word :=
  (List.range regs).filterMap fun n =>
    let v : Word := BitVec.ofNat 32 (s.word (r + 128 * n + 4 * lane) 4)
    if v = 0 ∨ (yielded ∧ ysave / 2 ^ (n / 8) % 2 = 0) then none else some (n, v)

/-- A thread of the group record at `a`; `ws` are the unit's workgroups. -/
def State.threadAt (s : State) (a regs ysave lane : Nat) (yielded : Bool) (ws : List Nat) (kept : Thread) : Thread :=
  let b := a + 256
  let parked := (List.range 4).any fun i => s.word (b + 0x11C + 4 * i) 4 / 2 ^ lane % 2 = 1
  { v := s.regsAt (a + s.recordSize regs a - 64 - 128 * regs) regs ysave lane yielded,
    empty := if parked then kept.empty else 0,
    x := (List.range 4).filterMap fun k =>
      let v : Byte := BitVec.ofNat 8 (s.word (b + 0x80 + 4 * lane + k) 1)
      if v = 0 then none else some (k, v),
    p := (List.range 7).foldl (fun (m : BitVec 7) k =>
      if s.word (b + 0x100 + 4 * k) 4 / 2 ^ lane % 2 = 1 then m ||| (1#7) <<< k else m) 0,
    tid := BitVec.ofNat 32 (s.word (b + 4 * lane) 4), wg := (ws[s.word (b + 0x12C + lane) 1]?).getD kept.wg }

/-- The group record at `a`. A fault that a token holds stays with the group until it is taken (12 R286, 13 R315;
notes/assumptions/21.md). -/
def State.restoredGroup (s : State) (a now : Nat) (ws : List Nat) (k : SavedGroup) : Group :=
  let h := s.launchHdr k.group.launch
  let w := fun o => (BitVec.ofNat 32 (s.word (a + o) 4) : Word)
  let handler := if s.word (a + 0x62) 1 % 2 = 1 then k.group.handler else none
  { k.group with
    lanes := lanes32.map fun l => (l, s.threadAt a h.regs h.ysave l (!k.forced) ws (k.group.thread l)),
    dead := w 0x50, flags := w 0x54 &&& flagsMask, ten := w 0x58 &&& tenMask, gang := w 0x5C, rrb := s.word (a + 0x60) 1,
    keyu := s.word (a + 0x62) 1 / 2 % 2 == 1, wgpos := s.word (a + 0x6C) 4, recNo := w 0x70, nrec := w 0x74,
    splits := ((List.range 4).filterMap fun i =>
        if s.word (a + 0x61) 1 / 2 ^ i % 2 = 1 then
          some (i, s.splitAt a i now ((k.group.split i).getD { pc := 0, active := 0, wait := .held }))
        else none) ++
      (match handler, k.group.split 4 with
        | some _, some p => [(4, { p with rt := now, pass := 0, clauseEnd := now, wait := p.wait.restored p.clause.isSome })]
        | _, _ => []),
    recent := 0,
    records := s.joinsAt a, tok := [], handler := handler.map fun x => { x with split := s.word (a + 0x78) 1 },
    h := (List.range 16).filterMap fun n =>
      let v : Word := BitVec.ofNat 32 (s.word (a + s.recordSize h.regs a - 64 + 4 * n) 4)
      if v = 0 then none else some (n, v),
    phase := .running }

/-! ## What an image alone gives (notes/assumptions/21.md) -/

/-- The word at an address of a context, as a core would fetch it. -/
def State.codeAt (s : State) (core ctx : Nat) (va : DWord) : Option Word :=
  match (s.translate core ctx va .fetch).1 with
  | .ok pa _ => if s.badLine (pa / 64) then none else some (BitVec.ofNat 32 (s.readN pa 4))
  | _ => none

/-- Instructions that a word of a clause holds, and its bytes with those of the word that extends it. -/
def wordSpan (w : Word) : Nat × Nat :=
  if bits w 31 30 = 1 then (1, 8) else if bits w 31 30 = 2 ∧ codeValid (codeOf w 1) = true then (2, 4) else (1, 4)

/-- The clause that holds `pc`, found by reading the words from `at_` on, where a header stands or a clause goes on. -/
def clauseFrom (word : DWord → Option Word) (pc : DWord) : Nat → DWord → Option Clause → Option Clause
  | 0, _, _ => none
  | n + 1, at_, c =>
    match word at_, c.filter (0 < ·.left) with
    | some w, some c =>
      if wordOf pc = at_ then some { c with left := c.left - pc.toNat % 4 / 2 }
      else clauseFrom word pc n (at_ + BitVec.ofNat 64 (wordSpan w).2) (some { c with left := c.left - (wordSpan w).1 })
    | some w, none =>
      if pc = at_ || !headerOk w then none
      else clauseFrom word pc n (at_ + 4) (some { header := at_, left := hdrCount w, cls := hdrClass w })
    | none, _ => none

/-- The clause that a split at `pc` stands in: the first clause of a 128-byte block begins with the block. -/
def State.clauseOf (s : State) (core ctx : Nat) (pc : DWord) : Option Clause :=
  clauseFrom (s.codeAt core ctx) pc 33 (pc &&& ~~~127#64) none

/-- Split `i` of the group record at `a`, as far as SPLST and the code tell what it waits for. -/
def State.bareSplit (s : State) (core ctx a i : Nat) : Split :=
  let pc : DWord := BitVec.ofNat 64 (s.word (a + 8 * i) 8)
  let c := s.clauseOf core ctx pc
  let p : Split := { pc := pc, active := 0, clause := c, wait := if c.isSome then .ready else .held }
  match s.word (a + 0x64 + i) 1 with
  | 2 => { p with wait := .parked 0, issued := true, only := some 0,
                  replay := some { rrb := s.word (a + 0x60) 1, dst := [], instr := 0 } }
  | 3 => { p with wait := .record (s.word (a + 0x79 + i) 1) }
  | _ => p

/-- The handler split of a group record at `a` in handler mode: the handler begins again, by the record in h0 to h7. -/
def State.bareHandler (s : State) (a hblock : Nat) (h : Header) (kernel : DWord) : Handler × Split :=
  let w := fun n => s.word (hblock + 4 * n) 4
  let k := s.word (a + 0x78) 1
  let pc : DWord := BitVec.ofNat 64 (w 1 + 2 ^ 32 * w 2)
  let lane := w 0 / 2 ^ 8 % 32
  let only := if w 0 / 2 ^ 15 % 2 = 1 then some (BitVec.ofNat 32 (s.word (a + 0x21C + 4 * k) 4)) else none
  ({ split := k, lane := lane, pc := pc, next := pc + (if w 6 / 2 ^ 30 = 1 then 8 else 4), only := only },
    { pc := kernel + BitVec.ofNat 64 h.handler, active := bitMask lane, fmt := BitVec.ofNat 32 (s.word (a + 0x30 + 4 * k) 4),
      wait := .held, cls := s.word (a + 0x63) 1 })

/-- The group record at `a` with nothing kept of it, and whether it yielded. -/
def State.bareGroup (s : State) (core l a : Nat) (x : Launch) (yielded : Bool) : SavedGroup :=
  let ctx := x.lr.ctx
  let splits := (List.range 4).map fun i => (i, s.bareSplit core ctx a i)
  let y := s.bareHandler a (a + s.recordSize x.hdr.regs a - 64) x.hdr x.lr.kernel
  let inHandler := s.word (a + 0x62) 1 % 2 = 1
  { gid := 0, key := 128, forced := !yielded, set := (l, none),
    group := { launch := l, ctx := ctx, wgpos := 0, lanes := [], dead := 0,
               splits := splits ++ (if inHandler then [(4, y.2)] else []), handler := if inHandler then some y.1 else none } }

/-- The workgroup record at `a` with nothing kept of it, under a key. -/
def State.bareWg (s : State) (l a key : Nat) (x : Launch) : SavedWg :=
  let id := s.word a 4
  let d := gridIdent x (id % Nat.max 1 x.lr.coords) (id / Nat.max 1 x.lr.coords)
  let node : Option NodeId :=
    if id = 0xFFFFFFFF then some { node := s.word (a + 0x12) 4, team := s.word (a + 0x16) 4, seq := s.word (a + 0x1A) 4, count := 0 }
    else none
  let w : Wg := { launch := l, ctx := x.lr.ctx, core := 0, slot := 0, wgid := BitVec.ofNat 32 id,
                  x := if node.isSome then BitVec.ofNat 32 (s.word (a + 0x12) 4) else d.x,
                  y := if node.isSome then BitVec.ofNat 32 (s.word (a + 0x16) 4) else d.y,
                  z := if node.isSome then BitVec.ofNat 32 (s.word (a + 0x1A) 4) else d.z,
                  stage := if node.isSome then 0 else d.stage, node := node }
  { key := key, wg := w, images := [], saved := 0, mode := 0, live := 0 }

/-- The instruction at a split's PC that has arrived at a barrier, with the address that follows it. -/
noncomputable def State.arrivedAt (s : State) (core ctx : Nat) (pc : DWord) : Option (Instr × DWord) :=
  match s.codeAt core ctx pc, s.codeAt core ctx (pc + 4) with
  | some w0, some w1 =>
    match bits w0 31 30, decodeWords w0 w1 with
    | 1, .ok i => some (i, pc + 8)
    | _, _ => none
  | _, _ => none

/-- A split with nothing kept that had arrived at a `bar` or an `sstep` waits there; any other that waits runs its instruction
again. -/
noncomputable def State.rearrive (s : State) (core a i : Nat) (x : Launch) (g : Group) (p : Split) : Split :=
  if s.word (a + 0x64 + i) 1 ≠ 1 then p
  else
    let ls := activeLanes g p
    match s.arrivedAt core g.ctx p.pc with
    | some (.bar f, next) =>
      let b := uniVal x.hdr g (Instr.bar f).info.a (Instr.bar f).view.a ls
      { p with issued := true, resume := some next, wait := .barrier ((laneWgs g ls).map fun w =>
          (w.1, b, match s.wg w.1 with | some y => y.phase b | none => 0)) }
    | some (.sstep _, next) =>
      let ks := ((laneWgs g ls).map fun w => match s.wg w.1 with | some y => x.lr.wgCohort y.wgid | none => 0).eraseDups
      { p with issued := true, resume := some next, wait := .superstep g.launch (ks.map fun k => (k, x.ssPhaseOf k)) }
    | _ => p

/-- The splits of a group restored from its image alone. -/
noncomputable def State.rearriveAll (s : State) (core a : Nat) (x : Launch) (g : Group) : Group :=
  { g with splits := g.splits.map fun e => if e.1 < 4 then (e.1, s.rearrive core a e.1 x g e.2) else e }

/-! ## What cannot be read (Table 9.10) -/

/-- State block, stack entries or handler block of a record cannot be read: the group is killed (Table 9.10). -/
def State.groupLost (s : State) (a regs : Nat) : Bool :=
  let n := s.recordSize regs a
  s.badBytes a 256 || s.badBytes (a + 640) (n - 704 - 128 * regs) || s.badBytes (a + n - 64) 64

/-- Lanes whose column of the register area or whose lane-block entries cannot be read (Table 9.10). -/
def State.lanesLost (s : State) (a regs : Nat) : List Nat :=
  let b := a + 256
  let r := a + s.recordSize regs a - 64 - 128 * regs
  lanes32.filter fun l =>
    s.badBytes (b + 4 * l) 4 || s.badBytes (b + 0x80 + 4 * l) 4 || s.badBytes (b + 0x100) 44 || s.badBytes (b + 0x12C + l) 1 ||
      (List.range regs).any fun n => s.badBytes (r + 128 * n + 4 * l) 4

/-! ## Workgroups -/

/-- Compute pans with an image, in ascending compute index. -/
def savedIdx (mask n : Nat) : List Nat := (List.range n).filter fun i => mask / 2 ^ i % 2 = 1

/-- Pan images of a workgroup, each with the pan that takes it (R240). -/
def State.panImages (s : State) (a pans : Nat) (storage compute : List Nat) : List (Nat × Nat) :=
  let dst := storage ++ (savedIdx (s.word (a + 8) 4) compute.length).filterMap fun i => compute[i]?
  dst.mapIdx fun i p => (p, pans + 16384 * (s.word (a + 4) 2 + i))

/-- The workgroup record at `a` or one of its pan images cannot be read (Table 9.10). -/
def State.wgLost (s : State) (a pans : Nat) (w : Wg) : Bool :=
  s.badBytes a 64 || (s.panImages a pans w.storage w.compute).any fun x => s.badBytes x.2 16384

/-- The records of node workgroup `j` of a unit, by the NREC of the first of the unit's group records, at `recs`, that holds a thread of
it: for an image of which nothing is kept (notes/assumptions/21.md). -/
def State.nrecOf (s : State) (recs : List Nat) (j : Nat) : Nat :=
  match recs.find? fun a => lanes32.any fun l => s.word (a + 256 + 0x12C + l) 1 = j with
  | some a => s.word (a + 0x74) 4
  | none => 0

/-- Place a restored workgroup on a core: its slot and pans, its images, its pans' modes, the records of ATTR, mirror copies, and its
barrier counts (R225, R240, 12 R271). A node workgroup keeps the number of its records (17 R393); `nrec` stands where that is not
known. -/
def State.restoreWg (s : State) (core a pans nrec : Nat) (k : SavedWg) : State :=
  let h := s.launchHdr k.wg.launch
  let slot := s.freeSlot core
  let y := s.takePans core slot h
  let s := y.1
  let node : Option NodeId := k.wg.node.map fun n =>
    { node := s.word (a + 0x12) 4, team := s.word (a + 0x16) 4, seq := s.word (a + 0x1A) 4,
      count := if n.count = 0 then nrec else n.count }
  let w : Wg := { k.wg with core := core, slot := slot, storage := y.2.1, compute := y.2.2,
                            wgid := BitVec.ofNat 32 (s.word a 4), node := node, attr := [], sluiceAt := none, zeroing := none,
                            barCount := (List.range 16).filterMap fun b =>
                              let n := s.word (a + 0x20 + 2 * b) 2
                              if n = 0 then none else some (b, n) }
  let s := { s with wgs := FMap.put s.wgs k.key w }
  let s := (s.panImages a pans w.storage w.compute).foldl (fun (s : State) x =>
    s.panStore core (16384 * x.1) (s.read x.2 16384)) s
  (savedIdx (s.word (a + 12) 4) w.compute.length).foldl (fun (s : State) i =>
    match w.compute[i]? with
    | some pan =>
      let rec_ := s.attr w h i
      ((s.mirrorPan core pan rec_).updCore core (·.setPan pan 1)).updWg k.key fun x => { x with attr := FMap.put x.attr i rec_ }
    | none => s) s

/-! ## The unit -/

/-- A group of the unit goes to a track, or is killed with one event, at the PC of its first split where that can be read; its lost
lanes die (Table 9.10). `bare` says that the device has kept nothing of it. -/
noncomputable def State.restoreGroup (s : State) (core track a : Nat) (x : Launch) (bare : Bool) (ws lost : List Nat)
    (k : SavedGroup) : State :=
  let h := x.hdr
  let g := s.restoredGroup a s.now ws k
  if s.groupLost a h.regs || g.wgsOf.any lost.contains then
    let pc := if s.badBytes a 256 then 0 else (g.splits.head?.map (·.2.pc)).getD 0
    let s := s.post 0x01 cUNCORRECTABLE 0 g.ctx core pc 0
    { s with fly := { s.fly with reqs := s.fly.reqs.filter fun r => r.gid ≠ k.key } }
  else
    let gid := (s.core core).freeGid track
    let dead := s.lanesLost a h.regs
    let s := s.setGroup core gid (if bare then s.rearriveAll core a x g else g)
    let s := { s with fly := { s.fly with reqs := s.fly.reqs.map fun r =>
      if r.gid = k.key then { r with core := core, gid := gid } else r } }
    dead.foldl (fun (s : State) l => s.killLane core gid l) s

/-- A workgroup that is away is this restored one: the same grid workgroup, or the same node workgroup. -/
def AwayWg.isWg (a : AwayWg) (w : SavedWg) : Bool :=
  a.key == w.key || (a.wgid == w.wg.wgid && a.node.map (fun n => (n.node, n.team, n.seq)) == w.wg.node.map (fun n => (n.node, n.team, n.seq)))

/-- The unit is restored: its workgroups and groups are no longer away, and what was kept of it is given up. -/
def State.unitBack (s : State) (kept : Option KeptImage) (i : Nat) (l : Nat) (ws : List SavedWg) : State :=
  let s := s.updLaunch l fun x => { x with away := x.away.filter fun a => !ws.any a.isWg }
  match kept with
  | none => s
  | some k =>
    let k' := { k with restored := i :: k.restored }
    { s with kept := (s.kept.filter fun x => x ≠ k) ++ (if k.offs.length ≤ k'.restored.length then [] else [k']) }

/-- A unit to be restored: where it lies, its launch, its groups and workgroups, and what the device has kept of the image if it
has kept anything of this unit. -/
structure Restoring where
  u : UnitAt
  l : Nat
  x : Launch
  gs : List SavedGroup
  ws : List SavedWg
  kept : Option KeptImage

/-- Place the workgroups and then the groups of a unit. -/
noncomputable def State.placeUnit (s : State) (core : Nat) (r : Restoring) (tracks : List Nat) : State :=
  let u := r.u
  let ws := r.ws.mapIdx fun j w => (j, w)
  let keys := r.ws.map (·.key)
  let recs := s.recordsAt r.x.hdr.regs r.gs.length u.recs
  let s := ws.foldl (fun (s : State) x => s.restoreWg core (u.wrecs + 64 * x.1) u.pans (s.nrecOf recs x.1) x.2) s
  let lost := ws.filterMap fun x =>
    match s.wg x.2.key with
    | some w => if s.wgLost (u.wrecs + 64 * x.1) u.pans w then some x.2.key else none
    | none => none
  let s := ((tracks.zip recs).zip r.gs).foldl (fun (s : State) x =>
    s.restoreGroup core x.1.1 x.1.2 r.x r.kept.isNone keys lost x.2) s
  s.updCore core (·.growL1 (s.l1Target core))

/-- The header of an image at an address: its magic, its version, and a unit of that index. -/
def State.hasUnit (s : State) (b i : Nat) : Bool :=
  s.word b 2 == 1 && s.word (b + 2) 2 == 0x4349 && decide (i < s.word (b + 0x20) 4) && decide (i < 128)

/-- What the device has kept of the image at `b`, as far as its unit `i` has not been restored yet. -/
def State.keptOf (s : State) (b i : Nat) : Option KeptImage :=
  s.kept.find? fun k => k.base = b && k.core = s.word (b + 12) 4 && k.clock = s.word (b + 16) 8 && k.ctx = s.word (b + 8) 4 % 64 &&
    !k.restored.contains i

/-- Unit `i` of the image at `b`, for a core: from what has been kept, or from the image alone. -/
def State.restoring (s : State) (b i core : Nat) : Option Restoring := do
  let ctx := s.word (b + 8) 4 % 64
  let kept := s.keptOf b i
  let off ← match kept with
    | some k => k.offs[i]?
    | none => s.unitStart b ctx i
  let u := s.unitAt b off i
  let x ← s.launchAt ctx u.addr
  let yielded := s.word (b + 0x8E + 16 * i) 1 / 2 % 2 = 1
  let gs := match kept with
    | some k => (k.groups.drop u.firstg).take u.ng
    | none => (s.recordsAt x.2.hdr.regs u.ng u.recs).map fun a => s.bareGroup core x.1 a x.2 yielded
  let ws := match kept with
    | some k => (k.wgs.drop u.firstw).take u.nw
    | none => (List.range u.nw).map fun j => s.bareWg x.1 (u.wrecs + 64 * j) (s.fresh + j) x.2
  return { u := u, l := x.1, x := x.2, gs := gs, ws := ws, kept := kept }

/-- The wait of a unit for a core (17 R382): what it needs there, and the lowest of its WGIDs. -/
def State.restoreReq (s : State) (b i core : Nat) (r : Restoring) : RestoreReq :=
  let at_ := fun j => r.u.wrecs + 64 * j
  { base := b, index := i, core := core, since := s.now, launch := r.l, node := (r.ws.head?.bind (·.wg.node)).map (·.node),
    ng := r.gs.length, nw := r.ws.length, keys := r.gs.map (·.key),
    comp := (List.range r.ws.length).foldl (fun n j => n + (savedIdx (s.word (at_ j + 12) 4) 28).length) 0,
    wgid := (List.range r.ws.length).foldl (fun n j => Nat.min n (s.word (at_ j) 4)) (2 ^ 32) }

/-- The restore waits in its distributor. -/
def RestoreReq.is (q : RestoreReq) (b i : Nat) : Bool := q.base == b && q.index == i

/-- Lines of an image. -/
def State.imageLines (s : State) (b : Nat) : List Nat := linesIn b (Nat.max 4096 (Nat.min (2 ^ 20) (s.word (b + 0x48) 8)))

/-- RESTORE (R225): the owner restores unit `index` of the image at `base`, on a core. It waits in the distributor until it may be
placed (17 R382), and reads the image with ECC, which finds the errors of its lines (19 R426). A unit whose launch does not run any more restores nothing. -/
noncomputable def execRestore (base : BitVec 64) (index core : Nat) (s : State) : Out :=
  let b := pageBase base
  let gone := { s with q := { s.q with restores := s.q.restores.filter fun q => !q.is b index } }
  if 2048 ≤ core || !decide (b + 2 ^ 20 ≤ 2 ^ 40) then .next s
  else if s.badBytes b 4096 then
    .next ((gone.detectAt b 4096).contextFault (s.word (b + 8) 4 % 64) cUNCORRECTABLE 0 core 0 0)
  else
    match if s.hasUnit b index then s.restoring b index core else none with
    | none => .next gone
    | some r =>
      let new := s.restoreReq b index core r
      let q := { (s.q.restores.find? (·.is b index)).getD new with core := core }
      let queue := if s.q.restores.any (·.is b index) then s.q.restores.map fun (x : RestoreReq) => if x.is b index then q else x
        else s.q.restores ++ [q]
      let wait : State := { s with q := { s.q with restores := queue } }
      if !(wait.restoreWaiting q).all wait.mayGo || !(s.imageLines b).all (fun l => s.lineCurrent l || s.lostStack (64 * l)) then .next wait
      else
        match s.restoreRoom q r.x with
        | none => .next wait
        | some tracks =>
          let t := ({ gone with fresh := gone.fresh + r.ws.length } : State).detectAt b (64 * (s.imageLines b).length)
          .next ((t.placeUnit core r tracks).unitBack r.kept index r.l r.ws)

end Sys2Proof.Machine
end

