-- ==== Sys2Proof/Machine/Lines.lean ====
section
/-! DEFINITION. The lines that the device's own accesses wait for at their homes, the claims that the home makes for them
(15_coherence_and_host.md R341), and the host's answer to a back-invalidation (R352, R353). -/

namespace Sys2Proof.Machine

/-! ## Lines that are waited for, each with whether it is to be written -/

/-- A line of lists, to be read or to be written. -/
def marked (w : Bool) (ls : List Nat) : List (Nat × Bool) := ls.map fun l => (l, w)

/-- Lines of this device that `n` bytes from a physical address lie in. -/
def State.ownLines (s : State) (pa n : Nat) : List Nat := if s.isDevice pa then linesIn (s.memKey pa) n else []

/-- Lines that an access of a context at a virtual address reaches through its present translation, `n` bytes of a page, or the line
that its walk waits for. -/
def State.linesAt (s : State) (core ctx : Nat) (va : DWord) (k : Access) (n : Nat) : List Nat :=
  match (s.translate core ctx va k).1 with
  | .ok pa _ => s.ownLines pa n
  | .busy line => [line]
  | .trap _ _ | .page | .light | .noContext _ => []

/-- The line of an access. -/
def State.lineAt (s : State) (core ctx : Nat) (va : DWord) (k : Access) : List Nat := s.linesAt core ctx va k 1

/-- Lines of `n` bytes of a context from an address, page by page. -/
def State.linesOf (s : State) (ctx : Nat) : Nat → DWord → Nat → List Nat
  | 0, _, _ => []
  | fuel + 1, va, n =>
    if n = 0 then []
    else
      let k := Nat.min n (4096 - va.toNat % 4096)
      s.linesAt 0xFFFF ctx va .load k ++ s.linesOf ctx fuel (va + BitVec.ofNat 64 k) (n - k)

/-- The line of a page's leaf entry, or the one that the walk to it waits for. -/
def State.leafLine (s : State) (ctx : Nat) (va : DWord) : List Nat :=
  match s.leaf ctx va with
  | .found _ at_ _ => [at_ / 64]
  | .busy line => [line]
  | .absent | .malformed | .poisoned _ => []

/-- The line that a write or an add of the device waits for, whose walk could not be made. -/
def State.parkLines (s : State) (p : Park) : List Nat :=
  match p.who with
  | .event va => s.walkLine p.ctx va .add
  | .write va _ _ => s.walkLine p.ctx va .store
  | .split _ _ _ _ _ | .copy _ | .fill _ _ | .launchRead _ => []

/-- Lines of the kernel and the dependences of a launch record. -/
def State.recordLines (s : State) (r : LaunchRec) : List Nat :=
  let hd := s.linesOf r.ctx 2 r.kernel 128
  let h := match s.readVa r.ctx 2 r.kernel 128 with
    | .ok bs _ => headerOf bs
    | _ => {}
  hd ++ s.linesOf r.ctx 4 h.dict (8 * h.dictN) ++ s.linesOf r.ctx 1024 h.nodes (32 * h.nodeN) ++
    r.deps.flatMap fun d => s.linesOf r.ctx 1 d.1 8

/-- Lines that the launch unit is to read: the ring entry that it takes next with its record, and the reads of the launches
that wait. -/
def State.launchLines (s : State) : List Nat :=
  let head := match s.headClass with
    | some c =>
      let at_ := (s.ring c).headEntry.1
      let e := s.readN (s.memKey at_) 8
      s.ownLines at_ 8 ++ s.ownLines e 128 ++ s.recordLines (launchRec (s.read (s.memKey e) 128))
    | none => []
  head ++ s.q.launches.flatMap fun e =>
    match e.2.st with
    | .reading => s.recordLines e.2.lr
    | .pending none => e.2.lr.deps.flatMap fun d => s.linesOf e.2.lr.ctx 1 d.1 8
    | _ => []

/-- Lines that a split waits for. -/
def State.splitLines (s : State) (core ctx : Nat) (p : Split) : List (Nat × Bool) :=
  match p.wait with
  | .lines ls => ls
  | .event va _ _ => marked false (s.lineAt core ctx va .load)
  | _ => []

/-- Lines that a track's issuing split is to fetch: those of the word at its PC and of the next. -/
def State.fetchLines (s : State) (core : Nat) (t : Track) : List Nat :=
  match t.issuing with
  | none => []
  | some (gid, k) =>
    match s.group core gid with
    | none => []
    | some g =>
      match g.split k with
      | none => []
      | some p => s.lineAt core g.ctx p.pc .fetch ++ s.lineAt core g.ctx (p.pc + 4) .fetch

/-- Lines that the cores' splits and tracks wait for. -/
def State.coreLines (s : State) : List (Nat × Bool) :=
  s.cores.flatMap fun c =>
    (c.2.groups.flatMap fun e => e.2.splits.flatMap fun x => s.splitLines c.1 e.2.ctx x.2) ++
    marked false (c.2.tracks.flatMap fun t => s.fetchLines c.1 t.2) ++
    marked true (if s.saveOver c.1 then linesIn (pageBase c.2.saveBase) (s.saveEnd c.1).2.2.bytes.length else [])

/-- Lines that a peer's request waits for: its own, and the entries of the clean pages that map it. -/
def State.peerLines (s : State) (r : PeerReq) : List (Nat × Bool) :=
  let a := (peerSpan r).1
  if peerWrites r then
    marked true (s.ownLines a (peerSpan r).2 ++ (s.mappings a).flatMap fun m => if pteBit m.2.2 6 then [] else s.leafLine m.1 m.2.1)
  else marked false (s.ownLines a (peerSpan r).2)

/-- Lines that the page of a drain goes to. -/
def State.drainLines (s : State) (engine : Nat) : List Nat :=
  match s.nextDrain engine with
  | none => []
  | some (d, r, page) =>
    let t := r.target d page
    s.ownLines t.1 4096 ++ (t.2.toList.flatMap fun a => s.ownLines a 8)

/-- Every line that an access which the device makes at its home waits for. -/
def State.wantedLines (s : State) : List (Nat × Bool) :=
  marked true (s.fly.writes.flatMap fun w => if s.behind w then [] else s.ownLines w.pa w.bytes.length) ++
  (s.fly.copies.filterMap fun c => c.waits.map fun l => (l, c.dir == 1)) ++
  s.coh.peerReqs.flatMap s.peerLines ++ marked true s.splinterLines ++
  marked true (s.fly.parks.flatMap fun p => (p.pages.filter (·.2.2)).flatMap fun x => s.leafLine p.ctx x.1) ++
  marked true (if s.xl.biasBase = 0 then [] else s.coh.flips.map fun f => (s.xl.biasBase.toNat + f.page / 8) / 64) ++
  marked true ([0, 1].flatMap s.drainLines) ++ s.coreLines ++
  marked false (s.fly.pmmas.flatMap fun x => (s.missing x).flatMap fun b => s.lineAt x.core x.ctx (x.blockAddr b) .load) ++
  marked false (s.fly.prefs.map (·.line)) ++ marked false ((s.fly.parks.filter (·.due)).flatMap s.parkLines) ++
  marked false s.launchLines ++ marked false (s.q.restores.flatMap fun r => s.imageLines r.base)

/-- Lines of which the home must take back every copy for the host. -/
def State.hostLines (s : State) : List Nat :=
  (s.coh.hostReqs.filter fun q => q.back || (s.biasBit (q.addr / 4096) && (s.flipOf (q.addr / 4096)).isNone)).map (·.addr / 64)

/-! ## Claims of the home (R341) -/

/-- An access of a request at a line's home waits for it, to write it or to operate on it. -/
def State.reqClaims (s : State) (line : Nat) : Bool :=
  s.fly.reqs.any fun r => !r.kind.reads && r.accs.any fun a => !a.performed && a.pa / 64 = line && r.servedHome a

/-- A claim of the home on a line lasts while what it was made for waits for the line, and not while that waits for a shadow
frame. -/
def State.settleClaims (s : State) : State :=
  if s.coh.claimed.isEmpty then s
  else
    let ls := s.wantedLines
    { s with coh := { s.coh with claimed := s.coh.claimed.filter fun l =>
        !(s.gen.copyWait.any fun w => w.page = l / 64) && (s.reqClaims l || ls.contains (l, true) || s.hostLines.contains l) } }

/-! ## The host's answers (R352, R353) -/

/-- What the home asks the host for a line on which device accesses wait: BISnpInv where one of them writes (R352). -/
def State.snoopInv (s : State) (line : Nat) : Bool :=
  s.wantedLines.contains (line, true) ||
    s.fly.reqs.any fun r => !r.kind.reads && r.accs.any fun a => !a.performed && a.pa / 64 = line

/-- Device accesses wait for the host to answer for a line. -/
def State.snoopWaits (s : State) (line : Nat) : Bool :=
  s.snoopInv line || s.wantedLines.contains (line, false) ||
    s.fly.reqs.any fun r => r.accs.any fun a => !a.performed && a.pa / 64 = line

/-- The host owes an answer for a line: a flip to device bias waits for it, or a device access under host bias does. -/
def State.hostOwes (s : State) (line : Nat) : Bool :=
  match s.flipOf (line / 64) with
  | some f => !f.toHost && f.waitingLines.contains line
  | none => s.biasBit (line / 64) && !s.served line (s.snoopInv line) && s.snoopWaits line

/-- BISNP_RESPONSE (R352, R353): the host has answered a back-invalidation; what waited on it goes on, after any write-back has
been performed. -/
noncomputable def execBisnpResponse (line : Nat) (data : Option (List Byte)) (s : State) : Out :=
  if !s.hasHost || !s.hostOwes line || s.coh.hostReqs.any (fun q => q.back && q.addr / 64 = line) then .next s
  else
    match data with
    | none => .next (s.snoopDone line (s.snoopInv line))
    | some bs => .next (s.presentHost s.snoopInv { addr := 64 * line, write := some (bs.take 64), back := true })

end Sys2Proof.Machine
end

