-- ==== Sys2Proof/Machine/Pmc.lean ====
section
/-! DEFINITION. `pmc` (19_counters_integrity_custody.md R422 to R424). -/

namespace Sys2Proof.Machine

/-- The context may issue `pmc.sel` and `pmc.clr` (Table 19.3). -/
def CoreSt.mayPmc (k : CoreSt) (ctx : Nat) : Bool := k.pmcCtx.getLsbD ctx

/-- A selection that `pmc.sel` may write: no reserved bit, and EV at most 0x10 (R424). -/
def selLegal (v : Word) : Bool := decide (v.toNat < 2 ^ 15) && decide (v.toNat % 256 ≤ 0x10)

/-- `pmc.rd` (R424): the events of the cycles before this one (R423). -/
noncomputable def execPmcRd (f : FormE) (s : State) : Out :=
  let i := Instr.pmcRd f
  gated i s fun c g p ls =>
    let h := s.hdr g
    let v := FMap.get 0#64 (s.core c.core).pmcCnt f.a.f.toNat
    .next (((s.issue c g p i ls.length).updGroup c.core c.gid (·.writeAll h i ls v.toNat)).advance c)

/-- `pmc.sel` and `pmc.clr` of a register, PMCSEL n as n and PMCCNT n as 8 + n: they need the context's bit of PMCCTX, govern the events
of this cycle, and are discarded where the owner has written the register in it (R423). -/
def pmcWrite (i : Instr) (reg : Nat) (s : State) (legal : Header → Group → List Nat → Bool)
    (k : Header → Group → List Nat → CoreSt → CoreSt) : Out :=
  gated i s fun c g p ls =>
    let h := s.hdr g
    if !legal h g ls then .next (s.trapLow c g p cILLEGAL 3 0)
    else if !(s.core c.core).mayPmc g.ctx then .next (s.trapLow c g p cPROTECT 4 0)
    else
      let uv := allUV h g i ls
      let s := (if (s.core c.core).pmcOwner.contains reg then s else s.updCore c.core (k h g ls)).issue c g p i ls.length
      .next ((s.updGroup c.core c.gid (·.setFlags uv)).advance c)

/-- `pmc.sel` (R424). -/
noncomputable def execPmcSel (f : FormE) (s : State) : Out :=
  let i := Instr.pmcSel f
  let v := fun (h : Header) (g : Group) (ls : List Nat) => (BitVec.ofNat 32 (uniVal h g i.info.b i.view.b ls) : Word)
  pmcWrite i f.a.f.toNat s (fun h g ls => selLegal (v h g ls)) fun h g ls k =>
    { k with pmcSel := FMap.set 0#32 k.pmcSel f.a.f.toNat (v h g ls) }

/-- `pmc.clr` (R424). -/
noncomputable def execPmcClr (f : FormE) (s : State) : Out :=
  pmcWrite (.pmcClr f) (8 + f.a.f.toNat) s (fun _ _ _ => true) fun _ _ _ k => { k with pmcCnt := FMap.set 0#64 k.pmcCnt f.a.f.toNat 0 }

end Sys2Proof.Machine
end

