-- ==== Sys2Proof/Machine/Sched.lean ====
section
/-! DEFINITION. The track (01_device_and_execution.md R21 to R28, 02_instruction_words.md R33 to R40, R48 to R50, 17 R384):
fetching, clause headers, dictionary codes, the scheduler's choice, join actions at a header, and the end of each wait. -/

namespace Sys2Proof.Machine

/-! ## Fetching (R34, R35) -/

/-- The trap of a word that cannot run, at the lowest active lane (R55). -/
def wordTrap (code detail : Nat) (g : Group) (p : Split) (info : DWord) (w0 w1 : Word) : Trap :=
  let l := (activeLanes g p).headD 0
  { code := code, detail := detail, elected := l, lanes := bitMask l, info := info, w0 := w0, w1 := w1 }

/-- What a fetch gives: a word, or the state after the trap, the park or the kill that it causes. -/
inductive Fetched where
  | word (w : Word) (s : State)
  | stop (s : State)

/-- Park the split on the page of the word that it fetches (R35). -/
def State.parkFetch (s : State) (core gid k : Nat) (g : Group) (p : Split) (va : DWord) : State :=
  let y := s.park (.split core gid k .fetch (p.active &&& ~~~g.dead)) g.ctx core [(va, Access.fetch.kind, false)]
  ((y.1.count core 0x0D 1 (some g.ctx)).updSplit core gid k fun q => { q with wait := .parked y.2, pass := 0 }).freeTrack core gid

/-- Fetch the word at `va` for a split whose next instruction is at `p.pc`. What `rte.skip` resumes at after a PROTECT of
the fetch is the model's choice: the word has no known size, and `va + 4` is taken (notes/assumptions/25.md). A block that the
instruction cache does not hold is read from its home, and waits for it; what the cache gives of bytes written since is
the model's choice too (notes/assumptions/33.md), and so is that a page of a peer's or the host's memory gives the bytes that are
listed there, at once (notes/assumptions/22.md). -/
def State.fetchWord (s : State) (core gid k : Nat) (g : Group) (p : Split) (va : DWord) : Fetched :=
  let r := s.translate core g.ctx va .fetch
  match r.1 with
  | .ok pa _ =>
    let t := s.fillTlb core r.2
    let w : Word := BitVec.ofNat 32 (s.readN pa 4)
    if !s.isDevice pa || (s.core core).icache.contains (pa / 128) then .word w t
    else if !s.lostStack pa && !s.homeReads core (pa / 64) then .stop s
    else if s.badLine (pa / 64) then .stop ((t.detect (pa / 64)).killShared core gid)
    else .word w ((t.homeRead core (some g.ctx) (pa / 64)).updCore core (·.fetchBlock (pa / 128)))
  | .trap code detail => .stop (s.takeTrap core gid k p.pc (va + 4) (wordTrap code detail g p va 0 0))
  | .page | .light => .stop (s.parkFetch core gid k g p va)
  | .noContext d => .stop (s.walkFault g.ctx d core p.pc va (g.thread ((activeLanes g p).headD 0)).tid)
  | .busy _ => .stop s

/-! ## Clause headers (R36 to R40) -/

/-- The tokens that WAIT names read zero, and STALL has passed (R24). -/
def mayIssue (g : Group) (p : Split) (w : Word) (now : Nat) : Bool :=
  (List.range 8).all (fun k => !hdrWaits w k || FMap.get 0 g.tok k == 0) && decide (p.clauseEnd + hdrStall w ≤ now)

/-- The header before which a split stands, where it can be read without a fault. -/
def State.peekHeader (s : State) (core : Nat) (g : Group) (p : Split) : Option Word :=
  match (s.translate core g.ctx p.pc .fetch).1 with
  | .ok pa _ =>
    let w : Word := BitVec.ofNat 32 (s.readN pa 4)
    if p.pc.toNat % 4 = 0 && headerOk w && !s.badLine (pa / 64) then some w else none
  | _ => none

/-- A split is held by WAIT or STALL alone (R24): it is not at its innermost join, and a good header holds it. -/
def State.isHeld (s : State) (core : Nat) (g : Group) (p : Split) : Bool :=
  g.innermost p != some p.pc &&
    (match s.peekHeader core g p with
      | some w => !mayIssue g p w s.now
      | none => false)

/-- A fault that the group holds for a token that WAIT names (13 R315, 12 R286), or that a peer has sent back for a request (15
R350; the model's choice, notes/assumptions/37.md). -/
def Group.heldByWait (g : Group) (w : Word) : Option HeldFault := g.held.find? fun f => f.tok == 8 || hdrWaits w f.tok

/-- The clause at the split's PC issues: its instructions follow in order. -/
def State.openClause (s : State) (core gid k : Nat) (w : Word) : State :=
  let s := s.updSplit core gid k fun q =>
    { q with clause := some { header := q.pc, left := hdrCount w, cls := hdrClass w }, pc := q.pc + 4, wait := .ready }
  if hdrClass w = 0 then s.occupy core gid 1 else s

/-- The split that the track has chosen issues its clause, or stops before it. -/
def State.issueHeader (s : State) (core gid k : Nat) (g : Group) (p : Split) (w : Word) : State :=
  if p.pc.toNat % 4 ≠ 0 || !headerOk w then s.takeTrap core gid k p.pc (wordOf p.pc + 4) (wordTrap cILLEGAL 0 g p 0 w 0)
  else if !mayIssue g p w s.now then
    (s.updSplit core gid k fun q => { q with wait := .held, pass := 0 }).freeTrack core gid
  else
    match g.heldByWait w with
    | some f =>
      let s := s.updGroup core gid fun x => { x with held := x.held.filter (· ≠ f) }
      s.takeTrap core gid k p.pc (p.pc + 4) (wordTrap f.code f.detail g p f.info w 0)
    | none =>
      if hdrYchk w && g.handler.isNone && s.yieldFlag core g then s.beginYield core gid k p.pc
      else s.openClause core gid k w

/-- One action at the split's innermost join (R177): one cycle. A split that stops at a record leaves the track; after an
action of the stack the same choice goes on. -/
def State.joinStep (s : State) (core gid k : Nat) (g : Group) (p : Split) : State :=
  let s := ((s.occupy core gid 1).rename core gid (g.joinMoves k p)).putSettled core gid
    (g.joinAct (s.hdr g).sigMode s.now k p)
  if p.stack.isEmpty then s.freeTrack core gid
  else
    match (s.group core gid).bind (·.split k) with
    | some _ => s.updSplit core gid k fun q => { q with wait := .ready }
    | none => s.freeTrack core gid

/-- The track's chosen split stands before a header: a join action, or its clause. -/
def State.goOn (s : State) (core gid k : Nat) : State :=
  match s.group core gid with
  | none => s.freeTrack core gid
  | some g =>
    match g.split k with
    | none => s.freeTrack core gid
    | some p =>
      if p.clause.isSome then s
      else if g.innermost p = some p.pc then s.joinStep core gid k g p
      else
        match s.fetchWord core gid k g p (wordOf p.pc) with
        | .word w s => s.issueHeader core gid k g p w
        | .stop s => s

/-! ## The scheduler's choice (17 R384) -/

/-- A split that the scheduler can choose. -/
structure Ready where
  gid : Nat
  k : Nat
  pass : Nat
  cls : Nat
  rt : Nat
  deriving DecidableEq, Repr

/-- A split may issue: its group runs, and in handler mode it is the handler split (R205). -/
def Group.issues (g : Group) (k : Nat) : Bool := g.phase == .running && (g.handler.isNone || k == 4)

/-- The ready splits of a track. -/
def State.readySplits (s : State) (core t : Nat) : List Ready :=
  ((s.core core).groups.filter fun e => trackOf e.1 = t).flatMap fun e =>
    (e.2.splits.filter fun x => e.2.issues x.1 && x.2.wait == .ready).map fun x =>
      { gid := e.1, k := x.1, pass := x.2.pass, cls := x.2.cls, rt := x.2.rt }

/-- The order of the choice: by class unless both are promoted, then by age, GID and split. -/
def Ready.before (x y : Ready) : Bool :=
  let px := decide (8 ≤ x.pass)
  let py := decide (8 ≤ y.pass)
  let key := fun (r : Ready) => (r.rt * 128 + r.gid) * 8 + r.k
  if px != py then px
  else if !px && x.cls != y.cls then decide (y.cls < x.cls)
  else decide (key x < key y)

/-- The split that the scheduler chooses. -/
def chooseReady : List Ready → Option Ready
  | [] => none
  | r :: rs =>
    match chooseReady rs with
    | some q => if q.before r then some q else some r
    | none => some r

/-- The others' PASS gains 1, the chosen split's becomes 0. -/
def State.age (s : State) (core : Nat) (rs : List Ready) (r : Ready) : State :=
  rs.foldl (fun (s : State) x => s.updSplit core x.gid x.k fun q =>
    { q with pass := if x = r then 0 else Nat.min 8 (q.pass + 1) }) s

/-- TRACK_FREE_SCHEDULE (R24, R384, R177): a track that issues nothing chooses a ready split, which acts at its join or
issues its clause; after a join action of the stack the chosen split goes on. -/
noncomputable def execTrackFreeSchedule (core track : Nat) (s : State) : Out :=
  if s.now < (s.track core track).busyUntil || (s.die (dieOf core)).fenced then .next s
  else
    match (s.track core track).issuing with
    | some (gid, k) => .next (s.goOn core gid k)
    | none =>
      let rs := s.readySplits core track
      match chooseReady rs with
      | none => .next s
      | some r =>
        let s := s.age core rs r
        let s := if 8 ≤ r.pass then s.count core 0x10 1 ((s.group core r.gid).map (·.ctx)) else s
        let s := s.updTrack core track fun t => { t with issuing := some (r.gid, r.k) }
        .next (s.goOn core r.gid r.k)

/-- A split becomes ready (R24, R28): RT is the present cycle, or a later one in which it was already to be ready. -/
def Split.becomeReady (p : Split) (now : Nat) : Split := { p with wait := .ready, rt := Nat.max p.rt now }

/-- A split held by WAIT or STALL becomes ready in the cycle in which the last of them allows its clause (R24). -/
def State.release (s : State) (core gid k : Nat) : State :=
  match s.group core gid with
  | none => s
  | some g =>
    match g.split k with
    | none => s
    | some p =>
      if p.wait != .held || g.phase != .running || s.isHeld core g p then s
      else s.updSplit core gid k (·.becomeReady s.now)

/-- A ready split before a clause that WAIT or STALL holds is Waiting: it takes no part in the choice and its PASS is 0
(R24, R384). -/
def State.holdAgain (s : State) (core gid k : Nat) : State :=
  match s.group core gid with
  | none => s
  | some g =>
    match g.split k with
    | none => s
    | some p =>
      if p.wait == .ready && p.clause.isNone && g.phase == .running && s.isHeld core g p then
        s.updSplit core gid k fun q => { q with wait := .held, pass := 0 }
      else s

/-- CLAUSE_STALL_EXPIRY (R24). -/
noncomputable def execClauseStallExpiry (core gid split : Nat) (s : State) : Out := .next (s.release core gid split)

/-! ## The next instruction of a clause (R33, R34, R38, R48 to R50) -/

/-- What the track finds at the PC of the split that issues. -/
inductive NextInstr where
  | run (c : Cur) (i : Instr) (s : State)
  | stop (s : State)

/-- A dictionary entry's first word with the guard that GO gives (R49). -/
def withGuard (w : Word) (go : Nat) : Word :=
  if go = 7 then w else (w &&& ~~~0x001C0000#32) ||| BitVec.ofNat 32 (go * 2 ^ 18)

/-- The words that a code of a kind-10 word names; none where R49 makes it ILLEGAL. -/
def dictWords (dict : List (Word × Word)) (w : Word) (n : Nat) : Option (Word × Word) :=
  let c := codeOf w n
  if !codeValid c || c % 2 = 1 || (n = 0 && !codeValid (codeOf w 1) && codeOf w 1 != 0) then none
  else (dict[c / 16 % 1024]?).map fun e => (withGuard e.1 (c / 2 % 8), e.2)

/-- An instruction of the issuing split, decoded, or ILLEGAL. -/
noncomputable def State.decodeFor (s : State) (g : Group) (p : Split) (c : Cur) : NextInstr :=
  match decodeWords c.w0 c.w1 with
  | .ok i => .run c i s
  | .error _ => .stop (s.takeTrap c.core c.gid c.split c.pc c.next (wordTrap cILLEGAL 0 g p 0 c.w0 c.w1))

/-- The instruction that the word `w` at the split's PC holds; what follows it is what `rte.skip` resumes at (R211). -/
noncomputable def State.readInstr (s : State) (core gid k : Nat) (g : Group) (p : Split) (cl : Clause) (w : Word) : NextInstr :=
  let base := wordOf p.pc
  let n := p.pc.toNat % 4 / 2
  let more := n == 0 && codeValid (codeOf w 1)
  let past := if bits w 31 30 = 2 ∧ more then base + 2 else if bits w 31 30 = 1 then base + 8 else base + 4
  let illegal := NextInstr.stop (s.takeTrap core gid k p.pc past (wordTrap cILLEGAL 0 g p 0 w 0))
  let at_ := fun (w0 w1 : Word) (next : DWord) =>
    ({ core := core, gid := gid, split := k, base := base, pc := p.pc, next := next, w0 := w0, w1 := w1, dict := false,
       secondFollows := false } : Cur)
  if base.toNat / 128 ≠ cl.header.toNat / 128 then illegal
  else if bits w 31 30 = 2 then
    if p.pc.toNat % 2 = 1 then illegal
    else
      match dictWords ((s.launch g.launch).elim [] (·.dict)) w n with
      | none => illegal
      | some e => s.decodeFor g p { at_ e.1 e.2 past with dict := true, secondFollows := more }
  else if p.pc.toNat % 4 ≠ 0 || bits w 31 30 = 3 then illegal
  else if bits w 31 30 = 0 then s.decodeFor g p (at_ w 0 (base + 4))
  else if (base + 4).toNat / 128 ≠ cl.header.toNat / 128 then illegal
  else
    match s.fetchWord core gid k g p (base + 4) with
    | .word w1 s => s.decodeFor g p (at_ w w1 (base + 8))
    | .stop s => .stop s

/-- The next instruction of the split that a track issues. A first word past the clause's 128-byte block is fetched before
it is found ILLEGAL, and a second word there is ILLEGAL without a fetch: the model's choice (notes/assumptions/25.md). -/
noncomputable def State.nextInstr (s : State) (core gid k : Nat) (g : Group) (p : Split) (cl : Clause) : NextInstr :=
  match s.fetchWord core gid k g p (wordOf p.pc) with
  | .word w s => s.readInstr core gid k g p cl w
  | .stop s => .stop s

/-! ## The end of waits (01 R27, 02 R54, 13 R309, 17 R387) -/

/-- The condition that a split waits for holds. -/
def State.waitOver (s : State) (core gid : Nat) (g : Group) (p : Split) : Bool :=
  match p.wait with
  | .full rs => rs.all fun r => g.dead.getLsbD r.1 || !(g.thread r.1).isEmpty r.2
  | .tokenRoom k => decide (FMap.get 0 g.tok k < 255)
  | .tokenZero k => FMap.get 0 g.tok k == 0 || (g.heldFor (some k)).isSome
  | .slots n => s.slotsFree core n
  | .lines _ => decide (p.rt < s.now)
  | .requests ids => s.allPerformed ids
  | .results ids =>
    !(s.fly.reqs.any fun r => ids.contains r.id) &&
      !(s.fly.sfu.any fun r => r.core = core && r.gid = gid && ids.contains r.id)
  | .barrier ts => ts.all fun t => match s.wg t.1 with | some w => w.phase t.2.1 != t.2.2 | none => true
  | .superstep l ts => ts.all fun t => match s.launch l with | some x => x.ssPhaseOf t.1 != t.2 | none => true
  | .flips toHost pages _ _ => !(s.coh.flips.any fun f => f.toHost == toHost && pages.contains f.page)
  | .ready | .held | .sluice _ _ | .regroup _ _ _ _ | .latch _ | .event _ _ _ | .snap _ _ _ | .snapEnd _ | .record _
  | .parked _ | .queueRoom _ | .yielding | .fault _ _ _ _ _ => false

/-- The split goes on after its wait: past its instruction, or at it again. -/
def Split.endWait (p : Split) (now : Nat) : Split :=
  match p.resume with
  | some pc => p.goPast pc now
  | none => { p with wait := if p.clause.isNone then .held else .ready, rt := now }

/-- The count that `biasset` writes when its flips are complete (18 R415). -/
def Group.flipsDone (g : Group) (p : Split) : Group :=
  match p.wait with
  | .flips _ _ n dst => g.writeDst dst (BitVec.ofNat 32 n)
  | _ => g

/-- One split's wait, or the fault that its wait has met, which it takes once no handler runs (R205). -/
def State.settleWait (s : State) (core gid k : Nat) : State :=
  match s.group core gid with
  | none => s
  | some g =>
    match g.split k with
    | none => s
    | some p =>
      match p.wait with
      | .fault code detail info w0 w1 =>
        if g.handler.isSome || g.phase != .running then s
        else s.takeTrap core gid k p.pc (p.resume.getD p.pc) (wordTrap code detail g p info w0 w1)
      | _ =>
        if s.waitOver core gid g p then s.setGroup core gid ((g.flipsDone p).updSplit k (·.endWait s.now)) else s

/-- An operation on every split of the package, named by core, group and split. -/
def State.eachSplit (s : State) (f : State → Nat → Nat → Nat → State) : State :=
  s.cores.foldl (fun (s : State) c =>
    c.2.groups.foldl (fun (s : State) e => e.2.splits.foldl (fun (s : State) x => f s c.1 e.1 x.1) s) s) s

/-- Every split's wait, then what WAIT and STALL make of the splits between clauses. -/
def State.settleWaits (s : State) : State :=
  (s.eachSplit (·.settleWait)).eachSplit fun s c g k => (s.release c g k).holdAgain c g k

/-- What follows at once from the last step: the device's writes, what waits at the homes, releases, and the ends of waits. -/
noncomputable def State.settle (s : State) : State :=
  let s := s.settleQuarantine.settleWrites.settleTags.settleFrames.settleEarly
  let s := (s.settlePeers.settleHost s.snoopInv).settleSent.settlePrefs
  let s := s.settleBarriers.settleSplinter.settleLaunches
  let s := s.wgs.foldl (fun (s : State) w => s.settleSluice w.1) s
  s.settleLatches.settleSaves.settleRegroups.settleWaits.settleClaims

end Sys2Proof.Machine
end

