-- ==== Sys2Proof/Machine/Turns.lean ====
section
/-! DEFINITION. What may happen next by the device's own action, in the order in which the model takes it when `turns`
makes no other choice (notes/assumptions/2.md): the instructions that tracks issue, the events that the state enables,
and one cycle of the clock. -/

namespace Sys2Proof.Machine

/-- One thing that may happen next. -/
inductive Turn where
  /-- the next instruction of a clause: core, group, split -/
  | issue (core gid k : Nat)
  | event (i : Instr)
  | tick
  deriving DecidableEq, Repr

/-! ## The clock (01 R14, 04 R94, R95, R99) -/

/-- The end of a cycle of a core: its events are counted (19 R423), and DEADLINE goes down while a request is pending. -/
def CoreSt.cycle (k : CoreSt) : CoreSt :=
  let k := (k.count 0x01 1 none).countAll
  { k with groups := k.groups.map (fun e => (e.1, { e.2 with recent := 0 })),
           deadline := if k.yreqV then k.deadline - 1 else k.deadline }

/-- One cycle: CLOCK gains 1, and TIME the nanoseconds of the cycle at the present rate. -/
def Clocks.cycle (c : Clocks) : Clocks :=
  { c with clock := c.clock + 1, time := c.time + (c.timeRem + 1000) / c.mhz, timeRem := (c.timeRem + 1000) % c.mhz }

/-- The end of a cycle and the next one: the `pmma` operations issued in it take their halves and their scale blocks in their order
(12 R282, R283), then the slots that `pswap` has named change places (R289), the clock goes on, and the scratch accesses whose
threads' cycle has come are performed (R275). -/
def State.tick (s : State) : State :=
  let s := s.startPmmas.takeBlocks.settleSwaps
  ({ s with clk := s.clk.cycle, cores := s.cores.map fun e => (e.1, e.2.cycle) } : State).scratchDue

/-! ## Tracks -/

/-- The split that a track issues now, inside its clause. -/
def State.trackIssues (s : State) (core : Nat) (e : Nat × Track) : Option Turn :=
  match e.2.issuing with
  | some (gid, k) =>
    match (s.group core gid).bind fun g => (g.split k).map fun p => g.issues k && p.clause.isSome with
    | some true => if e.2.busyUntil ≤ s.now && !(s.die (dieOf core)).fenced then some (.issue core gid k) else none
    | _ => none
  | none => none

/-- Instructions that tracks can issue now. -/
def State.issueTurns (s : State) : List Turn :=
  s.cores.flatMap fun c => c.2.tracks.filterMap (s.trackIssues c.1)

/-- The splits that WAIT or STALL holds, and the tracks of a core that have groups. -/
def schedEvents (core : Nat) (k : CoreSt) : List Instr :=
  (k.groups.flatMap fun e =>
    (e.2.splits.filter fun x => x.2.wait == .held).map fun x => Instr.clauseStallExpiry core e.1 x.1) ++
  (k.groups.map fun e => trackOf e.1).eraseDups.map fun t => Instr.trackFreeSchedule core t

/-! ## Requests -/

/-- The L1s behind a slice of a die that it must invalidate before a write of a line. -/
def State.l1Events (s : State) (die line : Nat) : List Instr :=
  (s.bucketCores die line).map fun c => .l1SignatureInvalidation c ⟨sliceOf line, bucketOf line⟩

/-- What a pending access needs before it can be performed. -/
def State.lineEvents (s : State) (r : Req) (a : Acc) : List Instr :=
  let line := a.pa / 64
  let die := dieOf r.core
  let home := homeDie a.pa
  let only := r.kind.homeOnly || a.cp == 2
  let at_ := if only then home else die
  if a.performed || !s.isDevice a.pa || !s.inOrder r a then []
  else if r.kind.reads then
    if s.readable die line only (s.sealed r.ctx a.va) (r.cached a && (s.core r.core).inL1 line) then [] else [.readShared at_ line]
  else
    (if s.writable die line only then []
      else if at_ = home then [.remoteWriteAtHome line]
      else [.upgrade die line, .readOwn die line]) ++ s.l1Events at_ line

/-- What a line needs before the home can serve an access of the device there, or of the host. -/
def State.wantedEvents (s : State) : List Instr :=
  (s.wantedLines.flatMap fun x =>
    let home := homeDie (x.1 * 64)
    if x.2 then (if s.lineFree x.1 then [] else .remoteWriteAtHome x.1 :: s.l1Events home x.1)
    else if s.lineCurrent x.1 then [] else [.readShared home x.1]) ++
  s.hostLines.flatMap fun l => if s.hostFree l then [] else .remoteWriteAtHome l :: s.l1Events (homeDie (l * 64)) l

/-- Events of one request. -/
def State.reqEvents (s : State) (r : Req) : List Instr :=
  .longLatencyArrival ⟨r.id, none⟩ :: r.accs.flatMap fun a =>
    [.longLatencyArrival ⟨r.id, some a.lane⟩, .writeAtHome r.id a.lane, .atomicAtHome r.id a.lane, .copyWaitResume r.id a.lane] ++ s.lineEvents r a

/-! ## Groups, workgroups, engines -/

/-- Events of one split's wait. -/
def waitEvents (core gid k : Nat) (p : Split) : List Instr :=
  match p.wait with
  | .queueRoom _ => [.enqResume core gid k]
  | .event _ _ _ => [.evwaitReread core gid k]
  | .snap _ _ _ => [.snapAdvance core gid ⟨k, []⟩]
  | .latch _ => [.pmmaLatchOpen core gid]
  | .ready | .held | .full _ | .tokenRoom _ | .tokenZero _ | .requests _ | .results _ | .barrier _ | .sluice _ _
  | .slots _ | .lines _ | .superstep _ _ | .regroup _ _ _ _ | .snapEnd _ | .record _
  | .parked _ | .flips _ _ _ _ | .yielding | .fault _ _ _ _ _ => []

/-- Events of the groups of a core, and of its pre-emption. -/
def coreEvents (core : Nat) (k : CoreSt) : List Instr :=
  (k.groups.flatMap fun e => (e.2.splits.flatMap fun x => waitEvents core e.1 x.1 x.2) ++
    (if e.2.phase = .draining then [Instr.drainingEnd core e.1] else []) ++
    (if k.yreqV then [Instr.groupSave core e.1] else [])) ++
  (k.shuffles.map fun h => Instr.regroupShuffleEnd core h.launch) ++
  (if k.yreqV then [.ripcord core, .preemptionComplete core] else [])

/-- Events of one `pmma`. -/
def State.pmmaEvents (s : State) (x : Pmma) : List Instr :=
  ((s.missing x).flatMap fun b =>
    [.scaleFill x.id b, .scaleFillFault x.id b]) ++ [.pmmaCompletion x.id ⟨0, []⟩]

/-- Cores of a team that can take workgroups of a launch, each as often as it has room. -/
def State.slotsOf (s : State) (l : Nat) (x : Launch) (t n : Nat) : List Nat :=
  (teamCores t).flatMap fun c => List.replicate (s.coreRoom c (l, none) x.lr.ctx x.hdr x.lr.groups n) c

/-- Cores for the workgroups of a unit: columns and cohorts stay on one team. -/
def State.coresFor (s : State) (u : WaitUnit) : List Nat :=
  match s.launch u.launch with
  | none => []
  | some x =>
    let n := u.wgs.length
    let st := Nat.max 1 x.hdr.stages
    if x.lr.sscope = 3 then
      match (dieTeams u.die).find? fun t => decide (n ≤ s.teamRoom u.launch x t n) with
      | some t => (s.slotsOf u.launch x t n).take n
      | none => []
    else (((dieTeams u.die).flatMap fun t =>
      let c := s.slotsOf u.launch x t n
      c.take (c.length / st * st)).take n)

/-- The placement of each waiting unit. -/
def State.placeEvents (s : State) : List Instr :=
  s.q.waiting.mapIdx fun i u => .workgroupPlacement i ((s.together u).flatMap s.coresFor)

/-- Events of the queues and of work graphs. -/
def State.queueEvents (s : State) : List Instr :=
  (s.q.fifos.flatMap fun f => ((teamCores f.team).map fun c => Instr.nodeBatchPlacement f.team f.launch f.node c) ++
    [.maxwaitExpiry f.team f.launch f.node]) ++
  (s.q.transit.map fun t => .recordTransitArrival t.id) ++ [.queueExchange]

/-- Events of launches. -/
def State.launchEvents (s : State) : List Instr :=
  (s.q.launches.flatMap fun e =>
    [.pendingLaunchStart e.1, .dependenceReread e.1] ++ (e.2.ssCount.map fun c => Instr.superstepRelease e.1 c.1) ++
      [.quiescence e.1, .launchCompletion e.1]) ++ [.launchRingTake]

/-- Units that wait for their restore. -/
def State.restoreEvents (s : State) : List Instr :=
  s.q.restores.map fun r => .restore (BitVec.ofNat 64 r.base) r.index r.core

/-- Events of the barrier unit for a `snap` whose group has gone, and for an advance in progress. -/
def Gens.events (g : Gens) : List Instr :=
  (g.orphans.mapIdx fun i _ => .snapAdvance 0xFFFF i ⟨0, []⟩) ++
    g.advance.toList.map fun a => .snapAdvance a.core a.gid ⟨a.split, []⟩

/-- Events of the directory, the boundaries and the bias flips. -/
def Coherence.events (c : Coherence) : List Instr :=
  (c.invals.flatMap fun v => [.invalidation v.line v.die, .invalidationAck v.line v.die, .ackTimeoutResend v.line v.die]) ++
  (c.flips.map fun f => if f.toHost then .biasFlipToHost f.page else .biasFlipToDevice f.page) ++
  (dies8.map fun d => .dieSelfFence d) ++ (c.marked.map fun d => .quarantineRecord d) ++
  (c.dies.map fun d => .accessCounterHalving d.1)

/-- The events that the device may perform by itself, those of accesses before those of clauses. -/
def State.events (s : State) : List Instr :=
  (s.fly.sfu.map fun r => .sfuResultWrite r.id) ++ s.fly.reqs.flatMap s.reqEvents ++ s.wantedEvents ++
  s.cores.flatMap (fun c => schedEvents c.1 c.2) ++
  (s.fly.parks.flatMap fun p => [.parkedReplay p.id, .lightFaultService p.id]) ++
  (s.fly.copies.flatMap fun c => [.bulkCopyCompletion c.id, .bulkCopyFault c.id]) ++
  s.fly.pmmas.flatMap s.pmmaEvents ++ s.cores.flatMap (fun c => coreEvents c.1 c.2) ++
  (s.wgs.flatMap fun w => [.panZeroingDone w.1, .sluiceCompletion w.1, .workgroupRetirement w.1]) ++
  s.coh.events ++ s.launchEvents ++ s.placeEvents ++ s.queueEvents ++ s.restoreEvents ++
  s.gen.events ++ (s.gen.drains.flatMap fun d => [.spoolDrainPage 0, .spoolDrainPage 1, .spoolDrainCompletion d.gen]) ++
  [.generationSweep] ++ (s.xl.faults.map fun f => .fxtimeExpiry f.seq) ++ (s.killing.map fun c => .killComplete c) ++
  [.handoverLapse]

/-- Everything that may happen next, first choice first. -/
def State.possible (s : State) : List Turn := s.issueTurns ++ s.events.map .event ++ [.tick]

end Sys2Proof.Machine
end

