-- ==== Sys2Proof/Machine/Dispatch.lean ====
section
/-! DEFINITION. Every instruction of the opcode table, and the event rows with them, to its meaning. Only compiled code is
given up by `noncomputable` (Decode.lean says why); the kernel evaluates `exec`. -/

namespace Sys2Proof.Machine

open Sys2Proof in /-- The meaning of each instruction. -/ noncomputable
def exec (i : Instr) (s : State) : Host.Outcome State Fault Refusal :=
  match i with
  | .packageReset => Sys2Proof.Machine.execPackageReset s
  | .ownerPortDownTimeout => Sys2Proof.Machine.execOwnerPortDownTimeout s
  | .handoverOffer master value => Sys2Proof.Machine.execHandoverOffer master value s
  | .handoverAccept master value => Sys2Proof.Machine.execHandoverAccept master value s
  | .handoverLapse => Sys2Proof.Machine.execHandoverLapse s
  | .systemRegisterWrite master off value => Sys2Proof.Machine.execSystemRegisterWrite master off value s
  | .firmwareImage config image => Sys2Proof.Machine.execFirmwareImage config image s
  | .attestationReport port nonce => Sys2Proof.Machine.execAttestationReport port nonce s
  | .securityAlarm cause => Sys2Proof.Machine.execSecurityAlarm cause s
  | .patrolScrub line => Sys2Proof.Machine.execPatrolScrub line s
  | .uncorrectableErrorConsumed site => Sys2Proof.Machine.execUncorrectableErrorConsumed site s
  | .ownerContextKill master ctx => Sys2Proof.Machine.execOwnerContextKill master ctx s
  | .killComplete ctx => Sys2Proof.Machine.execKillComplete ctx s
  | .trackFreeSchedule core track => Sys2Proof.Machine.execTrackFreeSchedule core track s
  | .clauseStallExpiry core gid split => Sys2Proof.Machine.execClauseStallExpiry core gid split s
  | .longLatencyArrival part => Sys2Proof.Machine.execLongLatencyArrival part s
  | .sfuResultWrite id => Sys2Proof.Machine.execSfuResultWrite id s
  | .parkedReplay park => Sys2Proof.Machine.execParkedReplay park s
  | .lightFaultService park => Sys2Proof.Machine.execLightFaultService park s
  | .pftailWrite master value => Sys2Proof.Machine.execPftailWrite master value s
  | .pfreplyRetry master value => Sys2Proof.Machine.execPfreplyRetry master value s
  | .pfreplyNoFrame master value => Sys2Proof.Machine.execPfreplyNoFrame master value s
  | .pfreplyFail master value => Sys2Proof.Machine.execPfreplyFail master value s
  | .pfreplyIgnored master value => Sys2Proof.Machine.execPfreplyIgnored master value s
  | .fxtimeExpiry seq => Sys2Proof.Machine.execFxtimeExpiry seq s
  | .yreqWrite master core value => Sys2Proof.Machine.execYreqWrite master core value s
  | .deadlineWrite master core value => Sys2Proof.Machine.execDeadlineWrite master core value s
  | .ripcord core => Sys2Proof.Machine.execRipcord core s
  | .groupSave core gid => Sys2Proof.Machine.execGroupSave core gid s
  | .preemptionComplete core => Sys2Proof.Machine.execPreemptionComplete core s
  | .restore base index core => Sys2Proof.Machine.execRestore base index core s
  | .workgroupPlacement unit cores => Sys2Proof.Machine.execWorkgroupPlacement unit cores s
  | .panZeroingDone wg => Sys2Proof.Machine.execPanZeroingDone wg s
  | .drainingEnd core gid => Sys2Proof.Machine.execDrainingEnd core gid s
  | .workgroupRetirement wg => Sys2Proof.Machine.execWorkgroupRetirement wg s
  | .owptrWrite master cls value => Sys2Proof.Machine.execOwptrWrite master cls value s
  | .launchRingTake => Sys2Proof.Machine.execLaunchRingTake s
  | .pendingLaunchStart launch => Sys2Proof.Machine.execPendingLaunchStart launch s
  | .dependenceReread launch => Sys2Proof.Machine.execDependenceReread launch s
  | .launchCompletion launch => Sys2Proof.Machine.execLaunchCompletion launch s
  | .quiescence launch => Sys2Proof.Machine.execQuiescence launch s
  | .writeAtHome req lane => Sys2Proof.Machine.execWriteAtHome req lane s
  | .copyWaitResume req lane => Sys2Proof.Machine.execCopyWaitResume req lane s
  | .atomicAtHome req lane => Sys2Proof.Machine.execAtomicAtHome req lane s
  | .l1SignatureInvalidation core bucket => Sys2Proof.Machine.execL1SignatureInvalidation core bucket s
  | .readShared die line => Sys2Proof.Machine.execReadShared die line s
  | .readOwn die line => Sys2Proof.Machine.execReadOwn die line s
  | .upgrade die line => Sys2Proof.Machine.execUpgrade die line s
  | .writeBack die line => Sys2Proof.Machine.execWriteBack die line s
  | .cleanEvict die line => Sys2Proof.Machine.execCleanEvict die line s
  | .remoteWriteAtHome line => Sys2Proof.Machine.execRemoteWriteAtHome line s
  | .invalidation line die => Sys2Proof.Machine.execInvalidation line die s
  | .invalidationAck line die => Sys2Proof.Machine.execInvalidationAck line die s
  | .ackTimeoutResend line die => Sys2Proof.Machine.execAckTimeoutResend line die s
  | .boundaryDown a b => Sys2Proof.Machine.execBoundaryDown a b s
  | .dieSelfFence die => Sys2Proof.Machine.execDieSelfFence die s
  | .quarantineRecord die => Sys2Proof.Machine.execQuarantineRecord die s
  | .peerRequest r => Sys2Proof.Machine.execPeerRequest r s
  | .adxelAbandon req => Sys2Proof.Machine.execAdxelAbandon req s
  | .hostRequest addr write => Sys2Proof.Machine.execHostRequest addr write s
  | .biasFlipToHost page => Sys2Proof.Machine.execBiasFlipToHost page s
  | .biasFlipToDevice page => Sys2Proof.Machine.execBiasFlipToDevice page s
  | .accessCounterHalving die => Sys2Proof.Machine.execAccessCounterHalving die s
  | .pmmaLatchOpen core gid => Sys2Proof.Machine.execPmmaLatchOpen core gid s
  | .scaleFill pmma block => Sys2Proof.Machine.execScaleFill pmma block s
  | .scaleFillFault pmma block => Sys2Proof.Machine.execScaleFillFault pmma block s
  | .pmmaCompletion pmma runs => Sys2Proof.Machine.execPmmaCompletion pmma runs s
  | .sluiceCompletion wg => Sys2Proof.Machine.execSluiceCompletion wg s
  | .bulkCopyCompletion copy => Sys2Proof.Machine.execBulkCopyCompletion copy s
  | .bulkCopyFault copy => Sys2Proof.Machine.execBulkCopyFault copy s
  | .superstepRelease launch cohort => Sys2Proof.Machine.execSuperstepRelease launch cohort s
  | .regroupShuffleEnd core launch => Sys2Proof.Machine.execRegroupShuffleEnd core launch s
  | .enqResume core gid split => Sys2Proof.Machine.execEnqResume core gid split s
  | .nodeBatchPlacement team launch node core => Sys2Proof.Machine.execNodeBatchPlacement team launch node core s
  | .maxwaitExpiry team launch node => Sys2Proof.Machine.execMaxwaitExpiry team launch node s
  | .queueExchange => Sys2Proof.Machine.execQueueExchange s
  | .recordTransitArrival id => Sys2Proof.Machine.execRecordTransitArrival id s
  | .evwaitReread core gid split => Sys2Proof.Machine.execEvwaitReread core gid split s
  | .snapAdvance core gid turn => Sys2Proof.Machine.execSnapAdvance core gid turn s
  | .generationSweep => Sys2Proof.Machine.execGenerationSweep s
  | .spoolDrainPage engine => Sys2Proof.Machine.execSpoolDrainPage engine s
  | .spoolDrainCompletion gen => Sys2Proof.Machine.execSpoolDrainCompletion gen s
  | .spoolDrainAbandon gen => Sys2Proof.Machine.execSpoolDrainAbandon gen s
  | .splreqWrite master value => Sys2Proof.Machine.execSplreqWrite master value s
  | .nop f => Sys2Proof.Machine.execNop f s
  | .bra f => Sys2Proof.Machine.execBra f s
  | .brc f => Sys2Proof.Machine.execBrc f s
  | .bru f => Sys2Proof.Machine.execBru f s
  | .brx f => Sys2Proof.Machine.execBrx f s
  | .call f => Sys2Proof.Machine.execCall f s
  | .callx f => Sys2Proof.Machine.execCallx f s
  | .ret f => Sys2Proof.Machine.execRet f s
  | .brloop f => Sys2Proof.Machine.execBrloop f s
  | .join f => Sys2Proof.Machine.execJoin f s
  | .exit f => Sys2Proof.Machine.execExit f s
  | .yield f => Sys2Proof.Machine.execYield f s
  | .sigchk f => Sys2Proof.Machine.execSigchk f s
  | .tfence f => Sys2Proof.Machine.execTfence f s
  | .trap f => Sys2Proof.Machine.execTrap f s
  | .bpt f => Sys2Proof.Machine.execBpt f s
  | .rteRetry f => Sys2Proof.Machine.execRteRetry f s
  | .rteSkip f => Sys2Proof.Machine.execRteSkip f s
  | .rteEnd f => Sys2Proof.Machine.execRteEnd f s
  | .lget f => Sys2Proof.Machine.execLget f s
  | .lset f => Sys2Proof.Machine.execLset f s
  | .regroup f => Sys2Proof.Machine.execRegroup f s
  | .gang f => Sys2Proof.Machine.execGang f s
  | .rset f => Sys2Proof.Machine.execRset f s
  | .fmtset f => Sys2Proof.Machine.execFmtset f s
  | .fmtsetI f => Sys2Proof.Machine.execFmtsetI f s
  | .fmtget f => Sys2Proof.Machine.execFmtget f s
  | .mov f => Sys2Proof.Machine.execMov f s
  | .movE f => Sys2Proof.Machine.execMovE f s
  | .movi f => Sys2Proof.Machine.execMovi f s
  | .srd f => Sys2Proof.Machine.execSrd f s
  | .srdE f => Sys2Proof.Machine.execSrdE f s
  | .swr f => Sys2Proof.Machine.execSwr f s
  | .swrE f => Sys2Proof.Machine.execSwrE f s
  | .sel f => Sys2Proof.Machine.execSel f s
  | .pmov f => Sys2Proof.Machine.execPmov f s
  | .pmovE f => Sys2Proof.Machine.execPmovE f s
  | .iadd f => Sys2Proof.Machine.execIadd f s
  | .iaddE f => Sys2Proof.Machine.execIaddE f s
  | .isub f => Sys2Proof.Machine.execIsub f s
  | .isubE f => Sys2Proof.Machine.execIsubE f s
  | .iaddc f => Sys2Proof.Machine.execIaddc f s
  | .isubb f => Sys2Proof.Machine.execIsubb f s
  | .imul f => Sys2Proof.Machine.execImul f s
  | .imulE f => Sys2Proof.Machine.execImulE f s
  | .imulh f => Sys2Proof.Machine.execImulh f s
  | .imulhE f => Sys2Proof.Machine.execImulhE f s
  | .imulhn f => Sys2Proof.Machine.execImulhn f s
  | .imad f => Sys2Proof.Machine.execImad f s
  | .iadd64 f => Sys2Proof.Machine.execIadd64 f s
  | .iadd64E f => Sys2Proof.Machine.execIadd64E f s
  | .isub64 f => Sys2Proof.Machine.execIsub64 f s
  | .isub64E f => Sys2Proof.Machine.execIsub64E f s
  | .lea f => Sys2Proof.Machine.execLea f s
  | .imin f => Sys2Proof.Machine.execImin f s
  | .iminE f => Sys2Proof.Machine.execIminE f s
  | .iminn f => Sys2Proof.Machine.execIminn f s
  | .imax f => Sys2Proof.Machine.execImax f s
  | .imaxE f => Sys2Proof.Machine.execImaxE f s
  | .imaxn f => Sys2Proof.Machine.execImaxn f s
  | .iabs f => Sys2Proof.Machine.execIabs f s
  | .iabsE f => Sys2Proof.Machine.execIabsE f s
  | .ineg f => Sys2Proof.Machine.execIneg f s
  | .inegE f => Sys2Proof.Machine.execInegE f s
  | .iadds f => Sys2Proof.Machine.execIadds f s
  | .iaddsE f => Sys2Proof.Machine.execIaddsE f s
  | .isubs f => Sys2Proof.Machine.execIsubs f s
  | .isubsE f => Sys2Proof.Machine.execIsubsE f s
  | .idivn f => Sys2Proof.Machine.execIdivn f s
  | .idivnE f => Sys2Proof.Machine.execIdivnE f s
  | .iremn f => Sys2Proof.Machine.execIremn f s
  | .iremnE f => Sys2Proof.Machine.execIremnE f s
  | .and f => Sys2Proof.Machine.execAnd f s
  | .andE f => Sys2Proof.Machine.execAndE f s
  | .or f => Sys2Proof.Machine.execOr f s
  | .orE f => Sys2Proof.Machine.execOrE f s
  | .xor f => Sys2Proof.Machine.execXor f s
  | .xorE f => Sys2Proof.Machine.execXorE f s
  | .andn f => Sys2Proof.Machine.execAndn f s
  | .andnE f => Sys2Proof.Machine.execAndnE f s
  | .orn f => Sys2Proof.Machine.execOrn f s
  | .ornE f => Sys2Proof.Machine.execOrnE f s
  | .not f => Sys2Proof.Machine.execNot f s
  | .notE f => Sys2Proof.Machine.execNotE f s
  | .shl f => Sys2Proof.Machine.execShl f s
  | .shlE f => Sys2Proof.Machine.execShlE f s
  | .shr f => Sys2Proof.Machine.execShr f s
  | .shrE f => Sys2Proof.Machine.execShrE f s
  | .sar f => Sys2Proof.Machine.execSar f s
  | .sarE f => Sys2Proof.Machine.execSarE f s
  | .rotl f => Sys2Proof.Machine.execRotl f s
  | .rotlE f => Sys2Proof.Machine.execRotlE f s
  | .bfx f => Sys2Proof.Machine.execBfx f s
  | .bfxs f => Sys2Proof.Machine.execBfxs f s
  | .bfi f => Sys2Proof.Machine.execBfi f s
  | .popc f => Sys2Proof.Machine.execPopc f s
  | .popcE f => Sys2Proof.Machine.execPopcE f s
  | .clz f => Sys2Proof.Machine.execClz f s
  | .clzE f => Sys2Proof.Machine.execClzE f s
  | .ctz f => Sys2Proof.Machine.execCtz f s
  | .ctzE f => Sys2Proof.Machine.execCtzE f s
  | .brev f => Sys2Proof.Machine.execBrev f s
  | .brevE f => Sys2Proof.Machine.execBrevE f s
  | .bysel f => Sys2Proof.Machine.execBysel f s
  | .lut3 f => Sys2Proof.Machine.execLut3 f s
  | .isetp f => Sys2Proof.Machine.execIsetp f s
  | .isetpn f => Sys2Proof.Machine.execIsetpn f s
  | .plop f => Sys2Proof.Machine.execPlop f s
  | .xmov f => Sys2Proof.Machine.execXmov f s
  | .xadd f => Sys2Proof.Machine.execXadd f s
  | .fadd f => Sys2Proof.Machine.execFadd f s
  | .faddE f => Sys2Proof.Machine.execFaddE f s
  | .fsub f => Sys2Proof.Machine.execFsub f s
  | .fsubE f => Sys2Proof.Machine.execFsubE f s
  | .fmul f => Sys2Proof.Machine.execFmul f s
  | .fmulE f => Sys2Proof.Machine.execFmulE f s
  | .ffma f => Sys2Proof.Machine.execFfma f s
  | .ffmaE f => Sys2Proof.Machine.execFfmaE f s
  | .fmin f => Sys2Proof.Machine.execFmin f s
  | .fminE f => Sys2Proof.Machine.execFminE f s
  | .fmax f => Sys2Proof.Machine.execFmax f s
  | .fmaxE f => Sys2Proof.Machine.execFmaxE f s
  | .fabs f => Sys2Proof.Machine.execFabs f s
  | .fabsE f => Sys2Proof.Machine.execFabsE f s
  | .fneg f => Sys2Proof.Machine.execFneg f s
  | .fnegE f => Sys2Proof.Machine.execFnegE f s
  | .fclass f => Sys2Proof.Machine.execFclass f s
  | .fclassE f => Sys2Proof.Machine.execFclassE f s
  | .frnd f => Sys2Proof.Machine.execFrnd f s
  | .frndE f => Sys2Proof.Machine.execFrndE f s
  | .fsetp f => Sys2Proof.Machine.execFsetp f s
  | .frcp f => Sys2Proof.Machine.execFrcp f s
  | .frcpE f => Sys2Proof.Machine.execFrcpE f s
  | .frsq f => Sys2Proof.Machine.execFrsq f s
  | .frsqE f => Sys2Proof.Machine.execFrsqE f s
  | .fsqrt f => Sys2Proof.Machine.execFsqrt f s
  | .fsqrtE f => Sys2Proof.Machine.execFsqrtE f s
  | .fex2 f => Sys2Proof.Machine.execFex2 f s
  | .fex2E f => Sys2Proof.Machine.execFex2E f s
  | .flg2 f => Sys2Proof.Machine.execFlg2 f s
  | .flg2E f => Sys2Proof.Machine.execFlg2E f s
  | .fsin f => Sys2Proof.Machine.execFsin f s
  | .fsinE f => Sys2Proof.Machine.execFsinE f s
  | .fcos f => Sys2Proof.Machine.execFcos f s
  | .fcosE f => Sys2Proof.Machine.execFcosE f s
  | .fdiv f => Sys2Proof.Machine.execFdiv f s
  | .fdivE f => Sys2Proof.Machine.execFdivE f s
  | .hadd2 f => Sys2Proof.Machine.execHadd2 f s
  | .hadd2E f => Sys2Proof.Machine.execHadd2E f s
  | .hmul2 f => Sys2Proof.Machine.execHmul2 f s
  | .hmul2E f => Sys2Proof.Machine.execHmul2E f s
  | .hfma2 f => Sys2Proof.Machine.execHfma2 f s
  | .hfma2E f => Sys2Proof.Machine.execHfma2E f s
  | .hmin2 f => Sys2Proof.Machine.execHmin2 f s
  | .hmin2E f => Sys2Proof.Machine.execHmin2E f s
  | .hmax2 f => Sys2Proof.Machine.execHmax2 f s
  | .hmax2E f => Sys2Proof.Machine.execHmax2E f s
  | .badd2 f => Sys2Proof.Machine.execBadd2 f s
  | .badd2E f => Sys2Proof.Machine.execBadd2E f s
  | .bmul2 f => Sys2Proof.Machine.execBmul2 f s
  | .bmul2E f => Sys2Proof.Machine.execBmul2E f s
  | .bfma2 f => Sys2Proof.Machine.execBfma2 f s
  | .bfma2E f => Sys2Proof.Machine.execBfma2E f s
  | .bmin2 f => Sys2Proof.Machine.execBmin2 f s
  | .bmin2E f => Sys2Proof.Machine.execBmin2E f s
  | .bmax2 f => Sys2Proof.Machine.execBmax2 f s
  | .bmax2E f => Sys2Proof.Machine.execBmax2E f s
  | .idp4 f => Sys2Proof.Machine.execIdp4 f s
  | .idp4E f => Sys2Proof.Machine.execIdp4E f s
  | .idp4n f => Sys2Proof.Machine.execIdp4n f s
  | .idp4nE f => Sys2Proof.Machine.execIdp4nE f s
  | .idp8 f => Sys2Proof.Machine.execIdp8 f s
  | .bdp2 f => Sys2Proof.Machine.execBdp2 f s
  | .bdp2E f => Sys2Proof.Machine.execBdp2E f s
  | .hdp2 f => Sys2Proof.Machine.execHdp2 f s
  | .hdp2E f => Sys2Proof.Machine.execHdp2E f s
  | .cvt f => Sys2Proof.Machine.execCvt f s
  | .cvtsr f => Sys2Proof.Machine.execCvtsr f s
  | .pack f => Sys2Proof.Machine.execPack f s
  | .unpack f => Sys2Proof.Machine.execUnpack f s
  | .qnt f => Sys2Proof.Machine.execQnt f s
  | .dqnt f => Sys2Proof.Machine.execDqnt f s
  | .qparam f => Sys2Proof.Machine.execQparam f s
  | .mxexp f => Sys2Proof.Machine.execMxexp f s
  | .mxexpE f => Sys2Proof.Machine.execMxexpE f s
  | .mxq f => Sys2Proof.Machine.execMxq f s
  | .mxdq f => Sys2Proof.Machine.execMxdq f s
  | .lxch f => Sys2Proof.Machine.execLxch f s
  | .lpoll f => Sys2Proof.Machine.execLpoll f s
  | .lpeer f => Sys2Proof.Machine.execLpeer f s
  | .lfold f => Sys2Proof.Machine.execLfold f s
  | .flfold f => Sys2Proof.Machine.execFlfold f s
  | .ld f => Sys2Proof.Machine.execLd f s
  | .ldI f => Sys2Proof.Machine.execLdI f s
  | .ldAcq f => Sys2Proof.Machine.execLdAcq f s
  | .st f => Sys2Proof.Machine.execSt f s
  | .stI f => Sys2Proof.Machine.execStI f s
  | .stRel f => Sys2Proof.Machine.execStRel f s
  | .lds f => Sys2Proof.Machine.execLds f s
  | .ldsI f => Sys2Proof.Machine.execLdsI f s
  | .sts f => Sys2Proof.Machine.execSts f s
  | .stsI f => Sys2Proof.Machine.execStsI f s
  | .ldx f => Sys2Proof.Machine.execLdx f s
  | .atom f => Sys2Proof.Machine.execAtom f s
  | .cas f => Sys2Proof.Machine.execCas f s
  | .atoms f => Sys2Proof.Machine.execAtoms f s
  | .cass f => Sys2Proof.Machine.execCass f s
  | .red f => Sys2Proof.Machine.execRed f s
  | .redx f => Sys2Proof.Machine.execRedx f s
  | .rdx f => Sys2Proof.Machine.execRdx f s
  | .clrx f => Sys2Proof.Machine.execClrx f s
  | .clrxE f => Sys2Proof.Machine.execClrxE f s
  | .fence f => Sys2Proof.Machine.execFence f s
  | .bcopy f => Sys2Proof.Machine.execBcopy f s
  | .bwait f => Sys2Proof.Machine.execBwait f s
  | .pref f => Sys2Proof.Machine.execPref f s
  | .seal f => Sys2Proof.Machine.execSeal f s
  | .unseal f => Sys2Proof.Machine.execUnseal f s
  | .pmodeCompute f => Sys2Proof.Machine.execPmodeCompute f s
  | .pmodeStorage f => Sys2Proof.Machine.execPmodeStorage f s
  | .sluice f => Sys2Proof.Machine.execSluice f s
  | .pcfgAttr f => Sys2Proof.Machine.execPcfgAttr f s
  | .pcfgSet f => Sys2Proof.Machine.execPcfgSet f s
  | .scbind f => Sys2Proof.Machine.execScbind f s
  | .pmma f => Sys2Proof.Machine.execPmma f s
  | .pfence f => Sys2Proof.Machine.execPfence f s
  | .pwait f => Sys2Proof.Machine.execPwait f s
  | .pswap f => Sys2Proof.Machine.execPswap f s
  | .pqueryState f => Sys2Proof.Machine.execPqueryState f s
  | .pqueryBusy f => Sys2Proof.Machine.execPqueryBusy f s
  | .pqueryPart f => Sys2Proof.Machine.execPqueryPart f s
  | .bar f => Sys2Proof.Machine.execBar f s
  | .bara f => Sys2Proof.Machine.execBara f s
  | .sstep f => Sys2Proof.Machine.execSstep f s
  | .enq f => Sys2Proof.Machine.execEnq f s
  | .deq f => Sys2Proof.Machine.execDeq f s
  | .launch f => Sys2Proof.Machine.execLaunch f s
  | .evsig f => Sys2Proof.Machine.execEvsig f s
  | .evwait f => Sys2Proof.Machine.execEvwait f s
  | .snap f => Sys2Proof.Machine.execSnap f s
  | .snapqState f => Sys2Proof.Machine.execSnapqState f s
  | .snapqCur f => Sys2Proof.Machine.execSnapqCur f s
  | .snapqBase f => Sys2Proof.Machine.execSnapqBase f s
  | .snapqFree f => Sys2Proof.Machine.execSnapqFree f s
  | .snapdrop f => Sys2Proof.Machine.execSnapdrop f s
  | .tlbinvRange f => Sys2Proof.Machine.execTlbinvRange f s
  | .tlbinvCtx f => Sys2Proof.Machine.execTlbinvCtx f s
  | .tlbinvAll f => Sys2Proof.Machine.execTlbinvAll f s
  | .biassetHost f => Sys2Proof.Machine.execBiassetHost f s
  | .biassetDev f => Sys2Proof.Machine.execBiassetDev f s
  | .migack f => Sys2Proof.Machine.execMigack f s
  | .pmcRd f => Sys2Proof.Machine.execPmcRd f s
  | .pmcSel f => Sys2Proof.Machine.execPmcSel f s
  | .pmcClr f => Sys2Proof.Machine.execPmcClr f s
  | .masterAttachDetach port change => Sys2Proof.Machine.execMasterAttachDetach port change s
  | .powerCapThrottle mhz => Sys2Proof.Machine.execPowerCapThrottle mhz s
  | .machineCheckEvent failed => Sys2Proof.Machine.execMachineCheckEvent failed s
  | .peerResponse req data refusal => Sys2Proof.Machine.execPeerResponse req data refusal s
  | .bisnpResponse line data => Sys2Proof.Machine.execBisnpResponse line data s

end Sys2Proof.Machine
end

