-- ==== Sys2Proof/Machine/Run.lean ====
section
/-! DEFINITION. One thing that happens: the next instruction of a track, an event, or a cycle; the choice among what may
happen; and what follows at once (notes/assumptions/2.md). -/

namespace Sys2Proof.Machine

/-- A row of the opcode table that no encoding holds: an event of the device or of the outside. -/
def isEvent (i : Instr) : Bool :=
  match i.info.form with
  | .event => true
  | .one _ | .imm _ | .ext _ => false

/-- The next instruction of a split that a track issues: fetched and decoded, or what its fetch ends in. -/
noncomputable def State.fetched (s : State) (core gid k : Nat) : NextInstr :=
  match s.group core gid with
  | none => .stop s
  | some g =>
    match g.split k with
    | none => .stop s
    | some p =>
      match p.clause with
      | none => .stop s
      | some cl => s.nextInstr core gid k g p cl

/-- The next instruction of a split that a track issues is run, where its fetch gives one. -/
noncomputable def State.runSplit (s : State) (core gid k : Nat) : Out :=
  match s.fetched core gid k with
  | .run c i s => exec i { s with cur := some c }
  | .stop s => .next s

/-- One thing that may happen next. -/
noncomputable def State.take (s : State) : Turn → Out
  | .issue core gid k => s.runSplit core gid k
  | .event i => exec i s
  | .tick => .next s.tick

/-- What follows at once, with no instruction being issued any more. -/
noncomputable def settled : Out → Out
  | .next s => .next { s with cur := none }.settle
  | .fault r => .fault r
  | .refused r => .refused r

/-- An event changes the state. -/
noncomputable def State.changes (s : State) (i : Instr) : Bool :=
  match exec i s with
  | .next t => decide (t ≠ s)
  | .fault _ | .refused _ => false

/-- What may happen next has an effect: a fetch that still waits for its line has none. -/
noncomputable def State.enabled (s : State) : Turn → Bool
  | .tick => true
  | .issue core gid k =>
    match s.fetched core gid k with
    | .run _ _ _ => true
    | .stop t => decide (t ≠ s)
  | .event i => s.changes i

/-- The next input, event, instruction or cycle: the head of `agenda`, or the choice that `turns` makes among what may
happen, or the first of it. An agenda entry that is no event says nothing. -/
noncomputable def State.turn (s : State) : Out :=
  match s.agenda with
  | i :: is => if isEvent i then exec i { s with agenda := is } else .next { s with agenda := is }
  | [] =>
    match s.turns with
    | [] => s.take ((s.possible.find? s.enabled).getD .tick)
    | n :: ns =>
      let ts := s.possible.filter s.enabled
      { s with turns := ns }.take (ts.getD (n % ts.length) .tick)

/-- One step: one thing happens, and then what follows at once. -/
noncomputable def State.stepOnce (s : State) : Out := settled s.turn

end Sys2Proof.Machine
end

