-- ==== Sys2Proof/Machine/Step.lean ====
section
/-! DEFINITION. The step of the machine, and the placing of one instruction where the next step fetches it. -/

namespace Sys2Proof.Machine

/-- One step of the machine. -/
noncomputable def step (s : State) : Host.Outcome State Fault Refusal := s.stepOnce

/-- Physical and virtual address of the clause header before the placed instruction. -/
def placeAt : Nat := 0x10000

/-- The words of an instruction numbered as spec/opcode_table.json numbers them: the first word, then the second, each
little-endian (R3); bits above the instruction's are 0. -/
def placeBytes (nbits w : Nat) : List Byte := toBytes 4 (w % 2 ^ nbits) ++ toBytes 4 (w % 2 ^ nbits / 2 ^ 32)

/-- The launch of the placed instruction: 128 registers, no handler. -/
def placeLaunch : Launch :=
  { addr := 0, prio := 0,
    lr := { version := 1, prio := 0, sscope := 0, kernel := 0x10000, gx := 1, gy := 1, gz := 1, threads := 1, stages := 1,
            ctx := 0, cohort := 0, balthr := 0, ndep := 0, args := 0, done := 0, spillBase := 0, spillSize := 0, deps := [],
            reservedZero := true },
    hdr := { regs := 128 } }

/-- Its group: one live thread, in a MIX clause at its first instruction. -/
def placeGroup : Group :=
  { launch := 0, ctx := 0, wgpos := 0, lanes := [(0, { wg := 0 })], dead := 0xFFFFFFFE,
    splits := [(0, { pc := 0x10004, active := 1, clause := some { header := 0x10000, left := 15, cls := 0 } })] }

/-- A translation of the page of the placed instruction: valid, W, X, D. -/
def placeTlb : TlbEntry := { level := 0, unit := 0, ctx := 0, vpn := 0x10, pages := 1, pte := 0x10047 }

/-- An instruction placed so that the next step runs it: a program comes to run by a launch (notes/assumptions/3.md), and
this stands for one, for its first clause header and for the page that holds both. -/
def State.withFetchWord (s : State) (nbits w : Nat) : State :=
  let line := placeAt / 64
  let k := s.core 0
  let core : CoreSt :=
    { k with
      groups := FMap.put k.groups 0 placeGroup, tracks := FMap.put k.tracks 0 { issuing := some (0, 0) },
      icache := [placeAt / 128] }
  { s with
    agenda := [], turns := [], cur := none, fresh := Nat.max s.fresh 1,
    mem := putBytes s.mem (placeAt + 4) (placeBytes nbits w),
    poisoned := s.poisoned.filter (· ≠ line), latent := s.latent.filter (· ≠ line),
    cores := FMap.put s.cores 0 core,
    wgs := FMap.put s.wgs 0 { launch := 0, ctx := 0, core := 0, slot := 0, wgid := 0 },
    q := { s.q with launches := FMap.put s.q.launches 0 placeLaunch },
    xl := { s.xl with tlb := placeTlb :: s.xl.tlb },
    coh := { s.coh with dies := FMap.put s.coh.dies 0 { s.die 0 with fenced := false },
                        dir := FMap.erase s.coh.dir line, quar := s.coh.quar &&& ~~~1#32 } }

end Sys2Proof.Machine
end

