-- ==== Sys2Proof/Machine/Registers.lean ====
section
/-! DEFINITION. What an attached master reads in the register space (19_counters_integrity_custody.md R420, R421; Tables 4.7,
9.4, 15.7, 16.2, 17.1, 18.1, 19.3, 19.5, 19.7, 19.10; 18 R417). No event of the opcode table is a read, and none changes what
a read returns. -/

namespace Sys2Proof.Machine

/-- POWN word `i`: the owners of pans 4i to 4i + 3 (Table 4.7). -/
def CoreSt.pownWord (k : CoreSt) (i : Nat) : Nat := ofBytes ((List.range 4).map fun j => BitVec.ofNat 8 (k.owner (4 * i + j)))

/-- YREQ as a word: V and the context number. -/
def CoreSt.yreqWord (k : CoreSt) : Nat := (if k.yreqV then 2 ^ 31 else 0) + k.yreqCtx

/-- A register of a core's window, as width in bytes and value. -/
def CoreSt.register (k : CoreSt) (off : Nat) : Option (Nat × Nat) :=
  match off with
  | 0x000 => some (4, k.pmode.toNat)
  | 0x008 => some (8, k.pslu.toNat)
  | 0x010 => some (4, k.pl1.toNat)
  | 0x040 => some (4, k.yreqWord)
  | 0x044 => some (4, k.deadline)
  | 0x048 => some (8, k.saveBase.toNat)
  | 0x050 => some (4, k.saveStat.toNat)
  | 0x0E0 => some (8, k.pmcCtx.toNat)
  | n =>
    if 0x020 ≤ n ∧ n < 0x040 ∧ n % 4 = 0 then some (4, k.pownWord ((n - 0x20) / 4))
    else if 0x080 ≤ n ∧ n < 0x0A0 ∧ n % 4 = 0 then some (4, (FMap.get 0#32 k.pmcSel ((n - 0x80) / 4)).toNat)
    else if 0x0A0 ≤ n ∧ n < 0x0E0 ∧ n % 8 = 0 then some (8, (FMap.get 0#64 k.pmcCnt ((n - 0xA0) / 8)).toNat)
    else none

/-- A register of a C-die's window. -/
def Die.register (d : Die) (off : Nat) : Option (Nat × Nat) :=
  match off with
  | 0x100 => some (8, d.migBase.toNat)
  | 0x108 => some (4, d.migSize.toNat)
  | 0x10C => some (4, d.migHead.toNat)
  | 0x110 => some (4, d.migTail.toNat)
  | 0x114 => some (4, d.migThr.toNat)
  | 0x118 => some (4, d.migEpoch.toNat)
  | 0x11C => some (4, d.migDrop.toNat)
  | 0x180 => some (4, d.eccCor.toNat)
  | 0x184 => some (4, d.eccUnc.toNat)
  | 0x188 => some (4, d.mirRetry.toNat)
  | 0x18C => some (4, d.deadLane.toNat)
  | 0x190 => some (4, d.mCheck.toNat)
  | _ => none

/-- A register of a class's rings (Table 17.1). -/
def Ring.register (r : Ring) (off : Nat) : Option (Nat × Nat) :=
  match off with
  | 0x00 => some (8, r.obase.toNat)
  | 0x08 => some (4, r.osize.toNat)
  | 0x0C => some (4, r.owptr.toNat)
  | 0x10 => some (4, r.orptr.toNat)
  | 0x18 => some (8, r.dbase.toNat)
  | 0x20 => some (4, r.dsize.toNat)
  | 0x24 => some (4, r.dwptr.toNat)
  | 0x28 => some (4, r.drptr.toNat)
  | _ => none

/-- A field of seal table entry `e` (18 R417); a free entry reads 0. -/
def sealField (e : Option SealEntry) (off : Nat) : Option (Nat × Nat) :=
  match off with
  | 0 => some (8, (e.map (·.start.toNat)).getD 0)
  | 8 => some (4, (e.map (·.granules)).getD 0)
  | 12 => some (1, (e.map (·.ctx)).getD 0)
  | 13 => some (1, if e.isSome then 1 else 0)
  | _ => none

/-- A register of the package window. -/
def State.packageRegister (s : State) (off : Nat) : Option (Nat × Nat) :=
  match off with
  | 0x200 => some (4, s.gen.cur)
  | 0x204 => some (4, s.gen.base)
  | 0x208 => some (4, s.gen.genret)
  | 0x210 => some (4, s.gen.poolGib)
  | 0x214 => some (4, s.gen.poolFree)
  | 0x218 => some (8, s.gen.snapCtx.toNat)
  | 0x600 => some (8, s.xl.ctxBase.toNat)
  | 0x608 => some (8, s.xl.pfBase.toNat)
  | 0x610 => some (4, s.xl.pfSize.toNat)
  | 0x614 => some (4, s.xl.pfHead.toNat)
  | 0x618 => some (4, s.xl.pfTail.toNat)
  | 0x61C => some (4, s.xl.pfReply.toNat)
  | 0x620 => some (4, s.xl.fxTime.toNat)
  | 0x628 => some (8, s.xl.splBase.toNat)
  | 0x630 => some (4, s.xl.splCnt.toNat)
  | 0x638 => some (8, s.xl.splReq.toNat)
  | 0x640 => some (4, s.xl.splCtx.toNat)
  | 0x644 => some (4, s.xl.splStat.toNat)
  | 0x648 => some (8, s.xl.biasBase.toNat)
  | 0x680 => some (8, s.fq.base.toNat)
  | 0x688 => some (4, s.fq.size.toNat)
  | 0x68C => some (4, s.fq.head.toNat)
  | 0x690 => some (4, s.fq.tail.toNat)
  | 0x694 => some (4, s.fq.drop.toNat)
  | 0x700 => some (4, s.coh.quar.toNat)
  | 0x704 => some (4, s.coh.quarCnt.toNat)
  | 0x800 => some (4, s.cust.owner)
  | 0x804 => some (4, s.cust.handoverReg.toNat)
  | 0x808 => some (4, s.cust.attach.toNat)
  | n =>
    if 0x400 ≤ n ∧ n < 0x600 then (s.ring ((n - 0x400) / 0x40)).register (n % 0x40)
    else if 0x1000 ≤ n ∧ n < 0x2000 then sealField (FMap.find s.xl.seals ((n - 0x1000) / 16)) (n % 16)
    else none

/-- The register at an offset of the register space (Table 19.2), as width in bytes and value. -/
def State.register (s : State) (off : Nat) : Option (Nat × Nat) :=
  if off < 0x10000 then s.packageRegister off
  else if 0x100000 ≤ off ∧ off < 0x180000 then (s.die ((off - 0x100000) / 0x10000)).register (off % 0x10000)
  else if 0x1000000 ≤ off ∧ off < 0x1800000 then (s.core ((off - 0x1000000) / 0x1000)).register (off % 0x1000)
  else none

/-- What an attached master reads (R420, R421); a reserved offset reads 0. -/
def State.readRegister (s : State) (off : Nat) : Nat := ((s.register off).map (·.2)).getD 0

end Sys2Proof.Machine
end

