-- ==== Sys2Proof/Safety.lean ====
section
/-! DEFINITION. What counts as a safe run: every step answers a next state, and the data of the state keeps its form.
And the terms that claims are stated in: when an instruction executes normally, what it leaves unchanged, and what it
writes. -/

namespace Sys2Proof.Machine

/-! ## Runs -/

/-- A state follows another by steps. -/
inductive Reaches : State → State → Prop where
  | refl (s : State) : Reaches s s
  | step {s t u : State} (h : Reaches s t) (e : Sys2Proof.Machine.step t = .next u) : Reaches s u

/-- A step answers a next state: no step of the device stops (no rule of the manual names a state in which it does). -/
def State.goesOn (s : State) : Prop := ∃ t, Sys2Proof.Machine.step s = .next t

/-- Every state that follows goes on. -/
def State.safe (s : State) : Prop := ∀ t, Reaches s t → t.goesOn

/-- The data of a state keeps its form: memory is canonical, so that equal memories are equal data. -/
def State.wf (s : State) : Prop := Memory.wf s.mem = true

/-! ## When an instruction executes normally (09 R202) -/

/-- The byte of memory at a physical address. -/
def State.byte (s : State) (pa : Nat) : Byte := FMap.get 0#8 s.mem pa

/-- The lanes that an instruction executes for: active, guard true, and unfinished where an earlier issue finished
others (R47, R203). -/
def lanesOf (i : Instr) (g : Group) (p : Split) : List Nat := execLanes g p i.view.g

/-- The instruction `i` is being issued by the split `p` of the group `g`, and the stages 2 to 4 of R202 find nothing:
the word is legal here, the clause admits its class, no register number is out of range, and every register that it
reads or writes is full. It is an issue and no replay of lanes that a park left unfinished (R203). -/
structure Admitted (s : State) (i : Instr) (c : Cur) (g : Group) (p : Split) : Prop where
  cur : s.cur = some c
  group : s.group c.core c.gid = some g
  split : g.split c.split = some p
  legal : contextLegal c g i = true
  cls : classAdmits p i = true
  numbers : badNumbers (s.hdr g) g i (lanesOf i g p) = []
  first : p.replay = none
  full : empties (s.hdr g) g i (lanesOf i g p) = []

/-! ## What is left unchanged -/

/-- Nothing changes but one group of one core, its track's timing and the events that the core has still to count. In particular
every byte of memory, every other group, every system register and everything in flight is as before. -/
structure OnlyGroup (s t : State) (core gid : Nat) : Prop where
  package : t = { s with cores := t.cores }
  otherCores : ∀ k, k ≠ core → t.core k = s.core k
  restOfCore : t.core core =
    { s.core core with groups := (t.core core).groups, tracks := (t.core core).tracks, pmcNow := (t.core core).pmcNow }
  otherGroups : ∀ k, k ≠ gid → t.group core k = s.group core k
  otherTracks : ∀ k, k ≠ trackOf gid → t.track core k = s.track core k

/-- The other splits of the group keep everything, and the issuing split keeps its lanes, stack, chain and FMT. -/
structure OnlySplit (g h : Group) (k : Nat) (p : Split) : Prop where
  others : ∀ n, n ≠ k → h.split n = g.split n
  keeps : ∃ q, h.split k = some q ∧ q.active = p.active ∧ q.stack = p.stack ∧ q.chain = p.chain ∧ q.fmt = p.fmt

/-- Of a group, only threads, splits and flags change: tokens, GANG, RRB, TEN, join records, the fault record and handler
mode, the dead lanes and what identifies the group are as before. -/
def RestOfGroup (g h : Group) : Prop :=
  h = { g with lanes := h.lanes, splits := h.splits, flags := h.flags, recent := h.recent, sync := h.sync }

/-- The issuing split has gone past its instruction: its PC is the next instruction's. -/
def WentOn (h : Group) (c : Cur) : Prop := ∃ q, h.split c.split = some q ∧ q.pc = c.next

/-- The issuing split stands before the clause header at `target`. -/
def Jumped (h : Group) (c : Cur) (target : DWord) : Prop :=
  ∃ q, h.split c.split = some q ∧ q.pc = target ∧ q.clause = none ∧ q.wait = .held

/-- The destination registers of an instruction in a thread. -/
def destRegs (s : State) (i : Instr) (g : Group) (l : Nat) : List Nat :=
  fieldRegs (s.hdr g) g.rrb (g.thread l) i.info.d i.view.d

/-- The sources of an instruction in a lane, read before anything is written (R100); under U those of the lowest
executing lane (R23). -/
def sources (s : State) (i : Instr) (im : Imms) (g : Group) (p : Split) (l : Nat) : LaneIn :=
  laneIn (s.hdr g) g i im (sourceLane i (lanesOf i g p) l)

/-- A source as a word. -/
def word (n : Nat) : Word := BitVec.ofNat 32 n

/-- A source pair as a doubleword. -/
def dword (n : Nat) : DWord := BitVec.ofNat 64 n

/-- Bit `k` of the group's FLAGS (Table 4.3). -/
def Group.flag (g : Group) (k : Nat) : Bool := g.flags.getLsbD k

/-! ## What is written -/

/-- Wherever `i` is admitted it answers a next state of which `post` holds: the state before, the instruction being
issued, its group and split, the state after and its group. -/
def Completes (i : Instr) (post : State → Cur → Group → Split → State → Group → Prop) : Prop :=
  ∀ s c g p, Admitted s i c g p →
    ∃ t h, Sys2Proof.Machine.exec i s = .next t ∧ t.group c.core c.gid = some h ∧ post s c g p t h

/-- `i` completes and writes `val` of its sources to d in every lane that executes it. -/
def Writes32 (i : Instr) (im : Imms) (val : State → Cur → Group → Split → LaneIn → Word) : Prop :=
  Completes i fun s c g p _ h =>
    ∀ l ∈ lanesOf i g p, ∀ r ∈ destRegs s i g l, (h.thread l).reg r = val s c g p (sources s i im g p l)

/-- `i` completes and writes `val` of its sources to the pair d in every lane that executes it, the low word in the
first register (R3). -/
def Writes64 (i : Instr) (im : Imms) (val : State → Cur → Group → Split → LaneIn → DWord) : Prop :=
  Completes i fun s c g p _ h =>
    ∀ l ∈ lanesOf i g p, ∀ (k r : Nat), (destRegs s i g l)[k]? = some r →
      (h.thread l).reg r = (val s c g p (sources s i im g p l)).extractLsb' (32 * k) 32

/-- `i` completes and writes `val` of its sources to predicate `k` in every lane that executes it; p7 keeps reading 1
(R85). -/
def WritesPred (i : Instr) (im : Imms) (k : Nat) (val : State → Cur → Group → Split → LaneIn → Bool) : Prop :=
  Completes i fun s c g p _ h =>
    ∀ l ∈ lanesOf i g p, (h.thread l).pred k = (k == 7 || val s c g p (sources s i im g p l))

/-- `i` completes, and bit `k` of what it writes to d in every lane that executes it is `val`. -/
def WritesBits (i : Instr) (im : Imms) (val : LaneIn → Nat → Bool) : Prop :=
  Completes i fun s _ g p _ h =>
    ∀ l ∈ lanesOf i g p, ∀ r ∈ destRegs s i g l, ∀ k, k < 32 →
      ((h.thread l).reg r).getLsbD k = val (sources s i im g p l) k

/-- `i` completes and flag `k` is set after it exactly where it was set before, or `cond` holds of the sources of a
lane that executes it: flags are sticky (R89). -/
def SetsFlag (i : Instr) (im : Imms) (k : Nat) (cond : State → Cur → Group → Split → LaneIn → Prop) : Prop :=
  Completes i fun s c g p _ h =>
    h.flag k = true ↔ g.flag k = true ∨ ∃ l ∈ lanesOf i g p, cond s c g p (sources s i im g p l)

/-- `i` completes, and writes the first part of `f` to d and raises the flags of its second part, NV to SAT and IV. -/
def Computes (i : Instr) (im : Imms) (f : Split → LaneIn → Nat × Nat) : Prop :=
  Writes32 i im (fun _ _ _ p x => word (f p x).1) ∧
    ∀ k, k < 8 → SetsFlag i im k fun _ _ _ p x => (f p x).2.testBit k = true

/-- Where `pre` holds too, `i` answers a next state of which `post` holds. -/
def CompletesWhen (i : Instr) (pre : State → Cur → Group → Split → Prop)
    (post : State → Cur → Group → Split → State → Group → Prop) : Prop :=
  ∀ s c g p, Admitted s i c g p → pre s c g p →
    ∃ t h, Sys2Proof.Machine.exec i s = .next t ∧ t.group c.core c.gid = some h ∧ post s c g p t h

/-- The lowest lane that executes `i`. -/
def firstLane (i : Instr) (g : Group) (p : Split) : Option Nat := (lanesOf i g p).head?

/-- Of the group nothing changes but its splits and UV (R168), and of those only the issuing one, which keeps its lanes,
stack, chain and FMT; nothing else of the device changes. -/
def OnlyMoves (s t : State) (c : Cur) (g h : Group) (p : Split) : Prop :=
  OnlyGroup s t c.core c.gid ∧ OnlySplit g h c.split p ∧ h = { g with splits := h.splits, flags := h.flags, recent := h.recent, sync := h.sync } ∧
    ∀ k, k ≠ 8 → h.flag k = g.flag k

/-- Where `pre` holds too, `i` takes the precise trap of the code, DETAIL and INFO at the lowest active lane. -/
def TrapsAt (i : Instr) (pre : State → Cur → Group → Split → Prop) (code detail : Nat)
    (info : State → Cur → Group → Split → DWord) : Prop :=
  ∀ s c g p l, Admitted s i c g p → (activeLanes g p).head? = some l → pre s c g p →
    Sys2Proof.Machine.exec i s = .next (s.takeTrap c.core c.gid c.split c.pc c.next
      { code := code, detail := detail, elected := l, lanes := (1#32) <<< l, info := info s c g p, w0 := c.w0, w1 := c.w1 })

/-- The innermost join of a split (R174). -/
def innermostJoin (g : Group) (p : Split) : Option DWord :=
  match p.stack, p.chain with
  | e :: _, _ => some e.join
  | [], some q => (FMap.find g.records q).map (·.j)
  | [], none => none

/-- The first index below `n` of which `free` holds. -/
def IsLowestFree (n : Nat) (free : Nat → Prop) (k : Nat) : Prop := k < n ∧ free k ∧ ∀ m, m < k → ¬ free m

/-- The records of a chain, innermost first: each is the OUTER of the one before it, and none stands twice (R464). -/
inductive Encloses (recs : FMap JoinRecord) : Option Nat → List Nat → Prop where
  | none : Encloses recs none []
  | more {q : Nat} {r : JoinRecord} {qs : List Nat} (find : FMap.find recs q = some r) (new : q ∉ qs)
      (rest : Encloses recs r.outer qs) : Encloses recs (some q) (q :: qs)

/-- A record in which split `m` has come to stand for the splits of `old` (R464). -/
def JoinRecord.standsFor (r : JoinRecord) (old : BitVec 4) (m : Nat) : JoinRecord :=
  { r with members := if r.members &&& old = 0 then r.members else (r.members &&& ~~~old) ||| (1#4) <<< m,
           arrived := r.arrived &&& ~~~old }

/-- A uniform operand of the lowest executing lane, and whether another executing lane's differs (R168). -/
def uniformA (s : State) (i : Instr) (g : Group) (p : Split) : Nat :=
  (laneIn (s.hdr g) g i {} ((firstLane i g p).getD 31)).a

/-- The sources of an instruction that reads its operands uniformly: those of the lowest executing lane (R168). -/
def uniformIn (s : State) (i : Instr) (g : Group) (p : Split) : LaneIn :=
  laneIn (s.hdr g) g i {} ((firstLane i g p).getD 31)

/-- Some executing lane's a differs from the lowest one's (R168). -/
def UniformDiffers (s : State) (i : Instr) (g : Group) (p : Split) : Prop :=
  ∃ l ∈ lanesOf i g p, (laneIn (s.hdr g) g i {} l).a ≠ uniformA s i g p

/-- A class-F instruction (R52, R53, R153): it completes at issue; in every lane that executes it the destination's full
bit is clear and nothing else of the thread changes; and a result is pending for each lane, `f` of the lane's sources,
due `lat` cycles after the lane's own cycle. -/
def IssuesToSfu (i : Instr) (im : Imms) (lat : Nat) (f : Split → LaneIn → Nat × Nat) : Prop :=
  Completes i fun s c g p t h =>
    OnlyGroup s { t with fly := s.fly, fresh := s.fresh } c.core c.gid ∧ RestOfGroup g h ∧ OnlySplit g h c.split p ∧
    WentOn h c ∧
    (∀ l, l ∉ lanesOf i g p → h.thread l = g.thread l) ∧
    (∀ l ∈ lanesOf i g p, h.thread l = { g.thread l with empty := (h.thread l).empty } ∧
      ∀ r, r < 128 → (h.thread l).isEmpty r = ((g.thread l).isEmpty r || decide (r ∈ destRegs s i g l))) ∧
    ∃ rs, t.fly = { s.fly with sfu := s.fly.sfu ++ rs } ∧ rs.length = (lanesOf i g p).length ∧
      ∀ k l, (lanesOf i g p)[k]? = some l → ∃ r, rs[k]? = some r ∧ r.core = c.core ∧ r.gid = c.gid ∧ r.lane = l ∧
        destRegs s i g l = [r.reg] ∧ r.value = word (f p (sources s i im g p l)).1 ∧
        (∀ n, n < 8 → r.flags.getLsbD n = (f p (sources s i im g p l)).2.testBit n) ∧
        r.due = s.freeAt c.core c.gid + (if uniform i = true ∧ uchk g = false then 1 else k + 1) + lat

/-! ## Memory accesses (13_memory_instructions.md) -/

/-- The lanes that access: the lowest alone under U (R297). -/
def accessLanes (i : Instr) (g : Group) (p : Split) : List Nat :=
  if uniform i = true then (lanesOf i g p).take 1 else lanesOf i g p

/-- The address of a lane's access: its pair plus the instruction's offset (R294). -/
def addressOf (s : State) (i : Instr) (g : Group) (off : LaneIn → Int) (l : Nat) : DWord :=
  let x := laneIn (s.hdr g) g i {} l
  dword x.a + BitVec.ofInt 64 (off x)

/-- Registers, predicates and index registers of every thread are as before; only full bits may differ. -/
def KeepsRegisters (g h : Group) : Prop := ∀ l, h.thread l = { g.thread l with empty := (h.thread l).empty }

/-- The full bits of the destinations of executing lanes are clear, where the instruction has any; all others are as
before (R52). -/
def EmptiesDestinations (s : State) (i : Instr) (g h : Group) (p : Split) (returns : Bool) : Prop :=
  ∀ l r, r < 128 → (h.thread l).isEmpty r =
    ((g.thread l).isEmpty r || (returns && decide (l ∈ lanesOf i g p ∧ r ∈ destRegs s i g l)))

/-- A global access (R294 to R297, R52, R54): where every accessing lane's address is a multiple of `n` and is translated,
and the load-store unit has a slot for each (R15), the instruction hands one request to the load-store unit, with each lane's address, operands and, for a store, the bytes that
no higher lane writes; the split goes on; no byte of memory, no register and no flag but UV changes. `m` names the request's
kind, order, scope, extension and whether it returns a value. -/
def IssuesRequest (i : Instr) (m : MemShape) (off : LaneIn → Int) (op1 op2 : LaneIn → Nat) : Prop :=
  ∀ s c g p, Admitted s i c g p → accessLanes i g p ≠ [] →
    s.slotsFree c.core (accessLanes i g p).length = true →
    (∀ l ∈ accessLanes i g p, (addressOf s i g off l).toNat % m.n = 0 ∧
      ∃ pa e, (s.translate c.core g.ctx (addressOf s i g off l) m.access).1 = .ok pa e) →
    ∃ t h r, Sys2Proof.Machine.exec i s = .next t ∧ t.group c.core c.gid = some h ∧
      OnlyGroup s { t with fly := s.fly, fresh := s.fresh, xl := s.xl } c.core c.gid ∧ RestOfGroup g h ∧ OnlySplit g h c.split p ∧
      WentOn h c ∧ KeepsRegisters g h ∧ EmptiesDestinations s i g h p m.returns ∧ (∀ k, k ≠ 8 → h.flag k = g.flag k) ∧
      t.fly = { s.fly with reqs := s.fly.reqs ++ [r] } ∧ t.xl = { s.xl with tlb := t.xl.tlb } ∧
      r.kind = m.kind ∧ r.order = m.order ∧ r.scope = m.scope ∧ r.ext = m.ext ∧ r.signed = m.signed ∧ r.ctx = g.ctx ∧
      r.core = c.core ∧ r.gid = c.gid ∧ r.split = c.split ∧ r.accs.map (·.lane) = accessLanes i g p ∧
      (∀ y ∈ r.accs, let x := laneIn (s.hdr g) g i {} y.lane
        y.va = addressOf s i g off y.lane ∧ y.n = m.n ∧ y.op1 = op1 x ∧ y.op2 = op2 x ∧ y.performed = false ∧
        (∃ e, (s.translate c.core g.ctx y.va m.access).1 = .ok y.pa e) ∧
        (m.kind = .store → ∀ k b, (k, b) ∈ y.bytes ↔ k < m.n ∧ b = BitVec.ofNat 8 (op1 x / 256 ^ k) ∧
          ∀ z ∈ r.accs, y.lane < z.lane → y.pa + k < z.pa ∨ z.pa + m.n ≤ y.pa + k)) ∧
      ∀ l rs a, (l, rs, a) ∈ r.dst ↔ m.returns = true ∧ rs = destRegs s i g l ∧
        if uniform i = true then l ∈ lanesOf i g p ∧ a ∈ accessLanes i g p else l = a ∧ a ∈ lanesOf i g p

/-! ## Pans (12_pan_instructions.md) -/

/-- The issuing split's workgroup, with the pans that R232 gives it: the group is not mixed (R193, R267), the storage pans
cover SCRATCH, a multiple of 64 (Table 2.11), and no pan stands twice. -/
structure InWorkgroup (s : State) (c : Cur) (g : Group) (p : Split) (w : Wg) : Prop where
  pure : g.mixed = false
  wg : s.wg (wgOf g p) = some w
  core : w.core = c.core
  storage : (s.hdr g).scratch ≤ 16384 * w.storage.length
  rows : (s.hdr g).scratch % 64 = 0
  compute : (s.hdr g).cpans ≤ w.compute.length
  pans : (w.storage ++ w.compute).Nodup ∧ ∀ q ∈ w.storage ++ w.compute, q < 32

/-- The place in its core's pans of a byte of a workgroup's storage pans (R232). -/
def Wg.place (w : Wg) (o : Nat) : Nat := 16384 * (w.storage[o / 16384]?).getD 0 + o % 16384

/-- A byte of a core's pans. -/
def State.panByte (s : State) (core key : Nat) : Byte := FMap.get 0#8 (s.core core).pans key

/-- A byte of a workgroup's storage pans, by its scratch offset. -/
def State.windowByte (s : State) (w : Wg) (o : Nat) : Byte := s.panByte w.core (w.place o)

/-- Of a group nothing changes but its splits and its flags, of those only UV, and the issuing split goes on. -/
def GoesOn (g h : Group) (c : Cur) (p : Split) : Prop :=
  OnlySplit g h c.split p ∧ h = { g with splits := h.splits, flags := h.flags, recent := h.recent, sync := h.sync } ∧ (∀ k, k ≠ 8 → h.flag k = g.flag k) ∧ WentOn h c

/-- The state of a compute pan of a workgroup (Table 4.8). -/
def State.stateOf (s : State) (w : Wg) (k : Nat) : Nat :=
  ((w.compute[k]?).map fun q => (s.core w.core).pslu.toNat / 4 ^ q % 4).getD 0

/-- Other cores, and other groups of the core, are as before. -/
def OtherGroups (s t : State) (core gid : Nat) : Prop :=
  (∀ k, k ≠ core → t.core k = s.core k) ∧ ∀ k, k ≠ gid → t.group core k = s.group core k

/-- A scratch store of bytes at an offset of the storage pans: those bytes alone change, and of the core beside its pans only
the issuing group. -/
def StoresWindow (s t : State) (c : Cur) (w : Wg) (o : Nat) (bs : List Byte) : Prop :=
  (∀ (k : Nat) (b : Byte), bs[k]? = some b → t.panByte w.core (w.place (o + k)) = b) ∧
    (∀ key, (∀ k, k < bs.length → key ≠ w.place (o + k)) → t.panByte w.core key = s.panByte w.core key) ∧
    t = { s with cores := t.cores } ∧ OtherGroups s t c.core c.gid ∧
    (t.core w.core).pslu = (s.core w.core).pslu ∧ (t.core w.core).pmode = (s.core w.core).pmode

/-- Nothing changes in memory, in flight, or in the parts of the device that no core holds. -/
def KeepsRest (s t : State) : Prop :=
  t = { s with cores := t.cores, wgs := t.wgs, fresh := t.fresh }

/-- An instruction that acts once per split and writes one value to d of every thread: registers of other threads, other
registers, predicates, index registers and the other flags are as before, and the split goes on. -/
def WritesOne (s : State) (i : Instr) (c : Cur) (g h : Group) (p : Split) (v : DWord) : Prop :=
  OnlySplit g h c.split p ∧ RestOfGroup g h ∧ WentOn h c ∧ (∀ k, k ≠ 8 → h.flag k = g.flag k) ∧
    (∀ l, l ∉ lanesOf i g p → h.thread l = g.thread l) ∧
    ∀ l ∈ lanesOf i g p, h.thread l = { g.thread l with v := (h.thread l).v } ∧
      (∀ r, r ∉ destRegs s i g l → (h.thread l).reg r = (g.thread l).reg r) ∧
      ∀ (k r : Nat), (destRegs s i g l)[k]? = some r → (h.thread l).reg r = v.extractLsb' (32 * k) 32

/-- An access made without a group (R463) reaches physical address `pa`, whatever the bytes at `hit` become. -/
def State.GrouplessAt (s : State) (hit : Nat → Prop) (ctx : Nat) (va : DWord) (k : Access) (pa : Nat) : Prop :=
  ∀ u : State, u.xl = s.xl → u.dev = s.dev → (∀ a, ¬ hit a → u.byte a = s.byte a) →
    (∀ l, (∀ a, a / 64 = l → ¬ hit a) → u.badLine l = s.badLine l) → ∃ e, (u.translate 0xFFFF ctx va k).1 = .ok pa e

/-- A write to the register at an offset (R421): only the owner's is performed; another attached master's is discarded
and one record is posted. -/
def OwnersWrite (i : Nat → Instr) (off : Nat) (post : State → State → Prop) : Prop :=
  ∀ (s : State) (m : Nat), (s.cust.attach.getLsbD m = false → Sys2Proof.Machine.exec (i m) s = .next s) ∧
    (s.cust.attach.getLsbD m = true → m ≠ s.cust.owner →
      Sys2Proof.Machine.exec (i m) s = .next (s.post 0x0C 0 0 0xFF 0xFFFF (BitVec.ofNat 64 off) 0)) ∧
    (s.cust.attach.getLsbD m = true → m = s.cust.owner → ∃ t, Sys2Proof.Machine.exec (i m) s = .next t ∧ post s t)

/-! ## Exact values (06_number_formats.md) -/

/-- A finite exact value, with its positive denominator. -/
def FV.IsFinite : FV → Prop
  | .fin _ _ d => 0 < d
  | _ => False

/-- The rational number that a finite value is. -/
def FV.rat : FV → Rat
  | .fin neg n d => (if neg then -(n : Rat) else (n : Rat)) / (d : Rat)
  | _ => 0

/-- The largest finite value of a format. -/
def Fmt.largest (F : Fmt) : Rat := (F.value F.maxCode).rat

/-- The formats that have a rounding grid (Table 6.2). -/
def formats : List Fmt := [fp32, fp16, bf16, e4m3, e5m2, e2m1]

/-- The order of the finite and infinite encodings of a format, with -0 below +0, as an integer. -/
def Fmt.order (F : Fmt) (code : Nat) : Int :=
  if code.testBit (F.eb + F.mb) then -1 - (code % 2 ^ (F.eb + F.mb) : Nat) else (code % 2 ^ (F.eb + F.mb) : Nat)

/-- A function of the three source words alone. -/
def ofWords (f : Word → Word → Word → Word) : State → Cur → Group → Split → LaneIn → Word :=
  fun _ _ _ _ x => f (word x.a) (word x.b) (word x.c)

/-- An instruction of the fixed-latency kind: it reads and writes only its thread's own registers, predicates and index
registers, and raises flags (05 R100, 07 R142, 08 R185). -/
def worksOnRegisters (i : Instr) : Bool :=
  i.isCode && (i.info.op == 0x17 || (decide (0x20 ≤ i.info.op ∧ i.info.op ≤ 0x5A) && i.info.op != 0x23 &&
    i.info.op != 0x36 && i.info.op != 0x37) || decide (0x63 ≤ i.info.op ∧ i.info.op ≤ 0x7B) ||
    decide (0x80 ≤ i.info.op ∧ i.info.op ≤ 0x84))

/-- The predicates that an instruction may write. -/
def destPreds : Instr → List Nat
  | .isetp f | .isetpn f | .plop f | .fsetp f => [f.xd.toNat]
  | .iaddc f | .isubb f => [f.cmp]
  | .pmovE f => if f.bit 1 = 0 then [] else (List.range 7).filter f.b.f.toNat.testBit
  | .lpoll f => if f.ck = 1 ∨ f.ck = 2 then [f.xd.toNat] else []
  | .lpeer f => if f.ck = 1 then [f.c.f.toNat] else []
  | _ => []

/-- The index registers that an instruction may write. -/
def destIndex : Instr → List Nat
  | .xmov f | .xadd f => [f.xd.toNat]
  | _ => []

/-- The flags, by bit (Table 4.3), that a register instruction may raise by what it computes. -/
def flagsOf (i : Instr) : List Nat :=
  let op := i.info.op
  if op = 0x26 ∨ op = 0x27 ∨ op = 0x2A ∨ op = 0x2C ∨ op = 0x32 ∨ op = 0x33 then [6]
  else if op = 0x34 ∨ op = 0x35 ∨ (0x6D ≤ op ∧ op ≤ 0x6F) then [5]
  else if (0x50 ≤ op ∧ op ≤ 0x53) ∨ (0x63 ≤ op ∧ op ≤ 0x65) ∨ (0x68 ≤ op ∧ op ≤ 0x6A) ∨ op = 0x70 ∨ op = 0x71 ∨ op = 0x84 then
    [0, 2, 3, 4]
  else if op = 0x54 ∨ op = 0x55 ∨ op = 0x5A ∨ op = 0x66 ∨ op = 0x67 ∨ op = 0x6B ∨ op = 0x6C ∨ op = 0x77 ∨ op = 0x79 then [0]
  else if op = 0x59 then [0, 4]
  else if 0x72 ≤ op ∧ op ≤ 0x75 then [0, 2, 3, 4, 5]
  else if op = 0x76 then [0, 4, 5]
  else if op = 0x78 ∨ op = 0x7A then [0, 3, 4, 5]
  else if op = 0x7B then [2, 3, 4]
  else if op = 0x80 then [9]
  else []

end Sys2Proof.Machine
end

