-- ==== Sys2Proof/Certificates/Slice0/Obligations.lean ====
section
/-! DEFINITION. The statements for the provers, each from the rules of spec/ that its docstring names; their terms are
those of Safety.lean. -/

open Sys2Proof Sys2Proof.Machine

/-! ## Instructions that work on a thread's own registers -/

/-- R100, R142, R185: an instruction of the fixed-latency kind completes, the split goes on behind it, and nothing changes
but the destination registers, predicates and index registers of the lanes that execute it, and FLAGS. Memory, every other
group, the system registers and everything in flight are as before. -/
def Obligations.RegisterInstructionsChangeTheirDestinationsAlone : Prop :=
  ∀ i : Instr, worksOnRegisters i = true →
    Completes i fun s c g p t h =>
      OnlyGroup s t c.core c.gid ∧ RestOfGroup g h ∧ OnlySplit g h c.split p ∧ WentOn h c ∧
        (∀ l, l ∉ lanesOf i g p → h.thread l = g.thread l) ∧
        (∀ l r, r ∉ destRegs s i g l → (h.thread l).reg r = (g.thread l).reg r) ∧
        (∀ l k, k ∉ destPreds i → (h.thread l).pred k = (g.thread l).pred k) ∧
        (∀ l k, k ∉ destIndex i → (h.thread l).xreg k = (g.thread l).xreg k) ∧
        (∀ l, (h.thread l).empty = (g.thread l).empty ∧ (h.thread l).tid = (g.thread l).tid ∧
          (h.thread l).wg = (g.thread l).wg)

/-- R89, R103, R143, R186: flags are sticky, and an instruction of the fixed-latency kind raises none but those that its
entry names, and UV where U is set and checked (R23). -/
def Obligations.RegisterInstructionsRaiseTheirFlagsAlone : Prop :=
  ∀ i : Instr, worksOnRegisters i = true →
    Completes i fun _ _ g _ _ h =>
      (∀ k, g.flag k = true → h.flag k = true) ∧
        ∀ k, k ∉ flagsOf i → ¬ (k = 8 ∧ uniform i = true ∧ uchk g = true) → h.flag k = g.flag k

/-! ## Integer instructions (05_integer_instructions.md) -/

/-- R106, R107, R112, R114: moves, and addition, subtraction and multiplication modulo 2^32, in every form. -/
def Obligations.IntegerSumsAndProductsWrap : Prop :=
  (∀ f, Writes32 (.mov f) {} (ofWords fun a _ _ => a)) ∧
  (∀ f, f.bit 1 = 0 → Writes32 (.movE f) {} (ofWords fun a _ _ => a)) ∧
  (∀ f, f.bit 1 = 1 → Writes64 (.movE f) {} fun _ _ _ _ x => dword x.a) ∧
  (∀ f, Writes32 (.movi f) {} (ofWords fun _ _ _ => f.imm)) ∧
  (∀ f, Writes32 (.iadd f) {} (ofWords fun a b _ => a + b)) ∧
  (∀ f, Writes32 (.iaddE f) {} (ofWords fun a b _ => a + b)) ∧
  (∀ f, Writes32 (.isub f) {} (ofWords fun a b _ => a - b)) ∧
  (∀ f, Writes32 (.isubE f) {} (ofWords fun a b _ => a - b)) ∧
  (∀ f, Writes32 (.imul f) {} (ofWords fun a b _ => a * b)) ∧
  (∀ f, Writes32 (.imulE f) {} (ofWords fun a b _ => a * b)) ∧
  (∀ f, Writes32 (.imad f) {} (ofWords fun a b c => a * b + c)) ∧
  (∀ f, Writes32 (.imulh f) {} (ofWords fun a b _ => (a.signExtend 64 * b.signExtend 64).extractLsb' 32 32)) ∧
  (∀ f, Writes32 (.imulhE f) {} (ofWords fun a b _ => (a.signExtend 64 * b.signExtend 64).extractLsb' 32 32)) ∧
  (∀ f, Writes32 (.imulhn f) {} (ofWords fun a b _ => (a.setWidth 64 * b.setWidth 64).extractLsb' 32 32))

/-- R104, R112, R114, R116: CK decides IV. CK 1 raises it where the exact result of the signed sources is no signed word,
CK 2 where that of the unsigned sources is no unsigned word, CK 0 never; `iabs` and `ineg` under CK 1 for 0x8000_0000. -/
def Obligations.CheckedArithmeticRaisesOverflow : Prop :=
  let outside := fun (ck : Nat) (sx ux : Int) =>
    (ck = 1 ∧ (sx < -2 ^ 31 ∨ 2 ^ 31 - 1 < sx)) ∨ (ck = 2 ∧ (ux < 0 ∨ 2 ^ 32 - 1 < ux))
  let si := fun (n : Nat) => (word n).toInt
  (∀ f, SetsFlag (.iadd f) {} 6 fun _ _ _ _ _ => False) ∧ (∀ f, SetsFlag (.isub f) {} 6 fun _ _ _ _ _ => False) ∧
  (∀ f, SetsFlag (.imul f) {} 6 fun _ _ _ _ _ => False) ∧
  (∀ f, SetsFlag (.iaddE f) {} 6 fun _ _ _ _ x => outside f.ck (si x.a + si x.b) (x.a + x.b)) ∧
  (∀ f, SetsFlag (.isubE f) {} 6 fun _ _ _ _ x => outside f.ck (si x.a - si x.b) (x.a - x.b)) ∧
  (∀ f, SetsFlag (.imulE f) {} 6 fun _ _ _ _ x => outside f.ck (si x.a * si x.b) (x.a * x.b)) ∧
  (∀ f, SetsFlag (.imad f) {} 6 fun _ _ _ _ x => outside f.ck (si x.a * si x.b + si x.c) (x.a * x.b + x.c)) ∧
  (∀ f, SetsFlag (.iabsE f) {} 6 fun _ _ _ _ x => f.ck = 1 ∧ word x.a = 0x80000000#32) ∧
  (∀ f, SetsFlag (.inegE f) {} 6 fun _ _ _ _ x => f.ck = 1 ∧ word x.a = 0x80000000#32)

/-- R113, R115: carries and borrows go through predicates: PI 7 is an input of 0, PO 7 writes none; 64-bit addition and
subtraction modulo 2^64, b extended as BX says, and `lea`. -/
def Obligations.CarriesAndPairsWrap : Prop :=
  let cin := fun (f : FormE) (x : LaneIn) => if f.j ≠ 7 ∧ x.t.pred f.j = true then 1 else 0
  (∀ f, Writes32 (.iaddc f) {} fun _ _ _ _ x => word (x.a + x.b + cin f x)) ∧
  (∀ f, WritesPred (.iaddc f) {} f.cmp fun _ _ _ _ x => decide (2 ^ 32 ≤ x.a + x.b + cin f x)) ∧
  (∀ f, Writes32 (.isubb f) {} fun _ _ _ _ x => word x.a - word x.b - word (cin f x)) ∧
  (∀ f, WritesPred (.isubb f) {} f.cmp fun _ _ _ _ x => decide (x.a < x.b + cin f x)) ∧
  let ext := fun (bx b : Nat) =>
    if bx = 1 then (word b).signExtend 64 else if bx = 2 then dword b else (word b).setWidth 64
  (∀ f, Writes64 (.iadd64 f) {} fun _ _ _ _ x => dword x.a + ext 0 x.b) ∧
  (∀ f, Writes64 (.isub64 f) {} fun _ _ _ _ x => dword x.a - ext 0 x.b) ∧
  (∀ f, Writes64 (.iadd64E f) {} fun _ _ _ _ x => dword x.a + ext f.ck x.b) ∧
  (∀ f, Writes64 (.isub64E f) {} fun _ _ _ _ x => dword x.a - ext f.ck x.b) ∧
  (∀ f, Writes64 (.lea f) {} fun _ _ _ _ x => dword x.a + ext (f.bit 4) x.b <<< f.j)

/-- R116, R117: minimum, maximum, magnitude and negation; saturating sums and SAT where the clamp changes the result. -/
def Obligations.MinMaxAndSaturatingResults : Prop :=
  let smin := fun (a b : Word) => if b.toInt < a.toInt then b else a
  let smax := fun (a b : Word) => if a.toInt < b.toInt then b else a
  let umin := fun (a b : Word) => if b.toNat < a.toNat then b else a
  let umax := fun (a b : Word) => if a.toNat < b.toNat then b else a
  let abs := fun (a : Word) => if a.toInt < 0 then -a else a
  let exact := fun (ns : Nat) (k : Int) (x : LaneIn) =>
    if ns = 0 then (word x.a).toInt + k * (word x.b).toInt else ((word x.a).toNat : Int) + k * (word x.b).toNat
  let lo := fun (ns : Nat) => if ns = 0 then (-2 ^ 31 : Int) else 0
  let hi := fun (ns : Nat) => if ns = 0 then (2 ^ 31 - 1 : Int) else 2 ^ 32 - 1
  let sat := fun (ns : Nat) (v : Int) => BitVec.ofInt 32 (if v < lo ns then lo ns else if hi ns < v then hi ns else v)
  let clamps := fun (ns : Nat) (v : Int) => v < lo ns ∨ hi ns < v
  (∀ f, Writes32 (.imin f) {} (ofWords fun a b _ => smin a b)) ∧ (∀ f, Writes32 (.iminE f) {} (ofWords fun a b _ => smin a b)) ∧
  (∀ f, Writes32 (.imax f) {} (ofWords fun a b _ => smax a b)) ∧ (∀ f, Writes32 (.imaxE f) {} (ofWords fun a b _ => smax a b)) ∧
  (∀ f, Writes32 (.iminn f) {} (ofWords fun a b _ => umin a b)) ∧
  (∀ f, Writes32 (.imaxn f) {} (ofWords fun a b _ => umax a b)) ∧
  (∀ f, Writes32 (.iabs f) {} (ofWords fun a _ _ => abs a)) ∧ (∀ f, Writes32 (.iabsE f) {} (ofWords fun a _ _ => abs a)) ∧
  (∀ f, Writes32 (.ineg f) {} (ofWords fun a _ _ => -a)) ∧ (∀ f, Writes32 (.inegE f) {} (ofWords fun a _ _ => -a)) ∧
  (∀ f, Writes32 (.iadds f) {} fun _ _ _ _ x => sat 0 (exact 0 1 x)) ∧
  (∀ f, Writes32 (.iaddsE f) {} fun _ _ _ _ x => sat (f.bit 1) (exact (f.bit 1) 1 x)) ∧
  (∀ f, Writes32 (.isubs f) {} fun _ _ _ _ x => sat 0 (exact 0 (-1) x)) ∧
  (∀ f, Writes32 (.isubsE f) {} fun _ _ _ _ x => sat (f.bit 1) (exact (f.bit 1) (-1) x)) ∧
  (∀ f, SetsFlag (.iadds f) {} 5 fun _ _ _ _ x => clamps 0 (exact 0 1 x)) ∧
  (∀ f, SetsFlag (.iaddsE f) {} 5 fun _ _ _ _ x => clamps (f.bit 1) (exact (f.bit 1) 1 x)) ∧
  (∀ f, SetsFlag (.isubs f) {} 5 fun _ _ _ _ x => clamps 0 (exact 0 (-1) x)) ∧
  (∀ f, SetsFlag (.isubsE f) {} 5 fun _ _ _ _ x => clamps (f.bit 1) (exact (f.bit 1) (-1) x))

/-- R119, R120, R123, R124: the logic opcodes bit by bit, and shifts by the whole of b: a count of 32 or more shifts every bit
out, and `rotl` takes the count modulo 32; `bysel` builds d from bytes of a and b under its control word, the zero bit before
the sign fill, and `lut3` applies its truth table to d, b and a bit by bit. -/
def Obligations.LogicShiftsBytesAndTruthTables : Prop :=
  (∀ f, Writes32 (.and f) {} (ofWords fun a b _ => a &&& b)) ∧ (∀ f, Writes32 (.andE f) {} (ofWords fun a b _ => a &&& b)) ∧
  (∀ f, Writes32 (.or f) {} (ofWords fun a b _ => a ||| b)) ∧ (∀ f, Writes32 (.orE f) {} (ofWords fun a b _ => a ||| b)) ∧
  (∀ f, Writes32 (.xor f) {} (ofWords fun a b _ => a ^^^ b)) ∧ (∀ f, Writes32 (.xorE f) {} (ofWords fun a b _ => a ^^^ b)) ∧
  (∀ f, Writes32 (.andn f) {} (ofWords fun a b _ => a &&& ~~~b)) ∧
  (∀ f, Writes32 (.andnE f) {} (ofWords fun a b _ => a &&& ~~~b)) ∧
  (∀ f, Writes32 (.orn f) {} (ofWords fun a b _ => a ||| ~~~b)) ∧
  (∀ f, Writes32 (.ornE f) {} (ofWords fun a b _ => a ||| ~~~b)) ∧
  (∀ f, Writes32 (.not f) {} (ofWords fun a _ _ => ~~~a)) ∧ (∀ f, Writes32 (.notE f) {} (ofWords fun a _ _ => ~~~a)) ∧
  (∀ f, Writes32 (.shl f) {} (ofWords fun a b _ => a <<< b.toNat)) ∧
  (∀ f, Writes32 (.shlE f) {} (ofWords fun a b _ => a <<< b.toNat)) ∧
  (∀ f, Writes32 (.shr f) {} (ofWords fun a b _ => a >>> b.toNat)) ∧
  (∀ f, Writes32 (.shrE f) {} (ofWords fun a b _ => a >>> b.toNat)) ∧
  (∀ f, Writes32 (.sar f) {} (ofWords fun a b _ => a.sshiftRight b.toNat)) ∧
  (∀ f, Writes32 (.sarE f) {} (ofWords fun a b _ => a.sshiftRight b.toNat)) ∧
  (∀ f, Writes32 (.rotl f) {} (ofWords fun a b _ => a.rotateLeft (b.toNat % 32))) ∧
  (∀ f, Writes32 (.rotlE f) {} (ofWords fun a b _ => a.rotateLeft (b.toNat % 32))) ∧
  (∀ f, WritesBits (.bysel f) {} fun x k =>
    let c := word x.c
    let y := (word x.b ++ word x.a).extractLsb' (8 * (c.extractLsb' (3 * (k / 8)) 3).toNat) 8
    !c.getLsbD (12 + k / 8) && (if c.getLsbD (16 + k / 8) = true then y.msb else y.getLsbD (k % 8))) ∧
  (∀ f, WritesBits (.lut3 f) {} fun x k =>
    f.c.f.getLsbD (4 * ((word x.d).getLsbD k).toNat + 2 * ((word x.b).getLsbD k).toNat + ((word x.a).getLsbD k).toNat))

/-- R121, R122: bit fields, whose position and length are the low bytes of the control word, and the counts of bits. -/
def Obligations.BitFieldsAndCounts : Prop :=
  let pos := fun (c : Word) => (c.extractLsb' 0 8).toNat
  let len := fun (c : Word) => Nat.min (c.extractLsb' 8 8).toNat 32
  let ones := fun (a : Word) => ((List.range 32).filter fun k => a.getLsbD k).length
  let high := fun (a : Word) => ((List.range 32).takeWhile fun k => !a.getLsbD (31 - k)).length
  let low := fun (a : Word) => ((List.range 32).takeWhile fun k => !a.getLsbD k).length
  let field := fun (fill : Bool) (a c : Word) (k : Nat) => if pos c + k < 32 then a.getLsbD (pos c + k) else fill
  (∀ f, WritesBits (.bfx f) {} fun x k =>
    decide (k < len (word x.b)) && field false (word x.a) (word x.b) k) ∧
  (∀ f, WritesBits (.bfxs f) {} fun x k =>
    decide (0 < len (word x.b)) && field (word x.a).msb (word x.a) (word x.b) (Nat.min k (len (word x.b) - 1))) ∧
  (∀ f, WritesBits (.bfi f) {} fun x k =>
    if pos (word x.c) ≤ k ∧ k < pos (word x.c) + len (word x.c) then (word x.a).getLsbD (k - pos (word x.c))
    else (word x.b).getLsbD k) ∧
  (∀ f, Writes32 (.popc f) {} (ofWords fun a _ _ => word (ones a))) ∧
  (∀ f, Writes32 (.popcE f) {} (ofWords fun a _ _ => word (ones a))) ∧
  (∀ f, Writes32 (.clz f) {} (ofWords fun a _ _ => word (high a))) ∧
  (∀ f, Writes32 (.clzE f) {} (ofWords fun a _ _ => word (high a))) ∧
  (∀ f, Writes32 (.ctz f) {} (ofWords fun a _ _ => word (low a))) ∧
  (∀ f, Writes32 (.ctzE f) {} (ofWords fun a _ _ => word (low a))) ∧
  (∀ f, WritesBits (.brev f) {} fun x k => (word x.a).getLsbD (31 - k)) ∧
  (∀ f, WritesBits (.brevE f) {} fun x k => (word x.a).getLsbD (31 - k))

/-- R110, R111, R125, R126, R127: compares and truth tables of predicates, the choice by a predicate, moves of predicates,
and the index registers, which wrap at 8 bits. -/
def Obligations.PredicatesAndIndexRegisters : Prop :=
  let cmp := fun (k : Nat) (a b : Int) =>
    if k = 0 then decide (a = b) else if k = 1 then decide (a ≠ b) else if k = 2 then decide (a < b)
    else if k = 3 then decide (a ≤ b) else if k = 4 then decide (b < a) else decide (b ≤ a)
  let bop := fun (k : Nat) (r q : Bool) => if k = 0 then r else if k = 1 then r && q else if k = 2 then r || q else r.xor q
  let q := fun (f : FormE) (x : LaneIn) => (x.t.pred f.c.f.toNat).xor (f.bit 1 == 1)
  let at_ := fun (f : FormE) (x : LaneIn) =>
    4 * (x.t.pred f.a.f.toNat).toNat + 2 * (x.t.pred f.b.f.toNat).toNat + (x.t.pred f.cmp).toNat
  (∀ f, WritesPred (.isetp f) {} f.xd.toNat fun _ _ _ _ x =>
    bop f.bop (cmp f.cmp (word x.a).toInt (word x.b).toInt) (q f x)) ∧
  (∀ f, WritesPred (.isetpn f) {} f.xd.toNat fun _ _ _ _ x =>
    bop f.bop (cmp f.cmp (word x.a).toNat (word x.b).toNat) (q f x)) ∧
  (∀ f, WritesPred (.plop f) {} f.xd.toNat fun _ _ _ _ x => f.c.f.getLsbD (at_ f x)) ∧
  (∀ f, Writes32 (.sel f) {} fun _ _ _ _ x => if (x.t.pred f.j).xor (f.bit 4 == 1) = true then word x.a else word x.b) ∧
  (∀ f, WritesBits (.pmov f) {} fun x k => decide (k < 8) && x.t.pred k) ∧
  (∀ f, f.bit 1 = 0 → WritesBits (.pmovE f) {} fun x k => decide (k < 8) && x.t.pred k) ∧
  (∀ f k, f.bit 1 = 1 → f.b.f.getLsbD k = true → WritesPred (.pmovE f) {} k fun _ _ _ _ x => (word x.a).getLsbD k) ∧
  (∀ f, Completes (.xmov f) fun s _ g p _ h => ∀ l ∈ lanesOf (.xmov f) g p,
    (h.thread l).xreg f.xd.toNat = (word (sources s (.xmov f) {} g p l).a).setWidth 8) ∧
  (∀ f, Completes (.xadd f) fun s _ g p _ h => ∀ l ∈ lanesOf (.xadd f) g p,
    (h.thread l).xreg f.xd.toNat = (sources s (.xadd f) {} g p l).t.xreg f.xd.toNat +
      (word (sources s (.xadd f) {} g p l).a).setWidth 8)

/-! ## Special registers and FMT (04_register_state.md, 05 R108, R109, 07 R146, R147) -/

/-- R11, R94, R108 and Tables 4.5 and 4.6: what `srd` and `fmtget` write, by selector, in both forms; in handler mode the
split registers are those of the split that faulted (R96). GEN is the core's own generation register (16 R360). SIG is read with the `srd` itself folded in (R213). -/
def Obligations.SpecialRegistersReadAsListed : Prop :=
  let split := fun (c : Cur) (g : Group) (p : Split) =>
    match g.handler with
    | some hd => (hd.split, (g.split hd.split).getD p)
    | none => (c.split, p)
  let ofWg := fun (s : State) (x : LaneIn) (v : Wg → DWord) => match s.wg x.t.wg with | some w => v w | none => 0
  let args := fun (s : State) (g : Group) => match s.launch g.launch with | some l => l.lr.args | none => 0
  (∀ f, Writes32 (.fmtget f) {} fun _ c g p _ => (split c g p).2.fmt) ∧
  ∀ (i : Instr) (sel : Nat), ((∃ f, i = .srd f ∧ sel = f.a.toNat) ∨ (∃ f, i = .srdE f ∧ sel = f.a.f.toNat)) →
    let reads := fun (n : Nat) (val : State → Cur → Group → Split → LaneIn → DWord) => sel = n → Writes64 i {} val
    reads 0x00 (fun _ _ _ _ x => x.t.tid.setWidth 64) ∧ reads 0x01 (fun _ _ _ _ x => dword x.lane) ∧
    reads 0x02 (fun _ c _ _ _ => dword c.gid) ∧ reads 0x03 (fun s _ _ _ x => ofWg s x fun w => w.wgid.setWidth 64) ∧
    reads 0x04 (fun s _ _ _ x => ofWg s x fun w => w.x.setWidth 64) ∧
    reads 0x05 (fun s _ _ _ x => ofWg s x fun w => w.y.setWidth 64) ∧
    reads 0x06 (fun s _ _ _ x => ofWg s x fun w => w.z.setWidth 64) ∧
    reads 0x07 (fun _ _ g _ _ => dword g.wgpos) ∧ reads 0x08 (fun s _ _ _ x => ofWg s x fun w => dword w.stage) ∧
    reads 0x09 (fun _ c _ _ _ => dword c.core) ∧ reads 0x0A (fun _ c _ _ _ => dword (c.core / 16)) ∧
    reads 0x0B (fun _ c _ _ _ => dword (c.core / 256)) ∧ reads 0x0C (fun s _ _ _ _ => dword s.dev) ∧
    reads 0x0D (fun s _ g _ _ => (args s g).extractLsb' 0 32 |>.setWidth 64) ∧
    reads 0x0E (fun s _ g _ _ => (args s g).extractLsb' 32 32 |>.setWidth 64) ∧
    reads 0x0F (fun _ c g p _ => (split c g p).2.active.setWidth 64) ∧ reads 0x10 (fun _ _ g _ _ => g.dead.setWidth 64) ∧
    reads 0x11 (fun _ c g p _ => dword (16 * (split c g p).2.stack.length +
      4 * ((g.splits.filter fun e => decide (e.1 < 4)).length - 1) + (split c g p).1)) ∧
    reads 0x12 (fun _ _ g _ _ => if g.keyu then 1 else 0) ∧ reads 0x13 (fun _ _ g _ _ => g.recNo.setWidth 64) ∧
    reads 0x14 (fun _ _ g _ _ => g.nrec.setWidth 64) ∧ reads 0x15 (fun s c _ _ _ => dword (s.gen.genAt [c.core])) ∧
    reads 0x16 (fun s _ _ _ _ => dword s.clk.clock) ∧ reads 0x17 (fun s _ _ _ _ => dword s.clk.time) ∧
    reads 0x18 (fun _ c g p _ => (split c g p).2.fmt.setWidth 64) ∧ reads 0x19 (fun _ _ g _ _ => g.flags.setWidth 64) ∧
    reads 0x1A (fun _ _ g _ _ => g.ten.setWidth 64) ∧
    reads 0x1B (fun s c g p _ => ((match g.handler with
      | some _ => (split c g p).2.sig
      | none => if (s.hdr g).sigMode = true ∧ p.issued = false then foldSig (s.hdr g) g c i p.sig else p.sig) : Word).setWidth 64) ∧
    reads 0x1C (fun _ _ g _ _ => dword g.rrb) ∧ reads 0x1D (fun _ _ g _ _ => g.gang.setWidth 64) ∧
    reads 0x1E (fun _ _ g _ _ => dword (((List.range 8).map fun k => FMap.get 0 g.tok k * 256 ^ k).sum)) ∧
    ∀ n, n < 16 → reads (0x30 + n) (fun _ _ g _ _ => (FMap.get 0#32 g.h n).setWidth 64)

/-- R88, R89, R109 and Table 5.2: `swr` stores the value of the lowest executing thread into its register alone, outside
handler mode from the next instruction on, in handler mode for `rte` to put into effect (R96) but for h0 to h15; and with
no executing thread it stores nothing. A flag that an event has set in the cycle of the write stays set (R90). R146: `fmtset`
writes the issuing split's FMT, or in handler mode the FMT that the faulting split takes at `rte`, from the lowest executing
thread or from its immediate, and nothing where no thread executes; FMT of other splits, FLAGS and every register stay. A
`tfence` that waits reads the FLAGS that a `swr` of another split writes during its wait (09 R209): the model's own `seen` of
it takes the written value. -/
def Obligations.SpecialAndFormatRegisterWrites : Prop :=
  (∀ (i : Instr) (sel : Nat), ((∃ f, i = .swr f ∧ sel = f.d.toNat) ∨ (∃ f, i = .swrE f ∧ sel = f.xd.toNat)) →
    let v := fun (s : State) (g : Group) (p : Split) (l : Nat) => word (sources s i {} g p l).a
    let rrb := fun (s : State) (g : Group) (w : Word) => if (s.hdr g).rotSize = 0 then 0 else w.toNat % (s.hdr g).rotSize
    (Completes i fun s c g p t h => OnlyGroup s t c.core c.gid ∧ WentOn h c ∧
      (¬ (sel = 0x19 ∧ g.handler = none ∧ firstLane i g p ≠ none) → OnlySplit g h c.split p) ∧
      (∃ q, h.split c.split = some q ∧ q.active = p.active ∧ q.stack = p.stack ∧ q.chain = p.chain ∧ q.fmt = p.fmt) ∧
      (∀ l, sel = 0x19 → g.handler = none → firstLane i g p = some l → ∀ n, n ≠ c.split →
        h.split n = (g.split n).map fun q => { q with seen := q.seen.map fun _ => v s g p l &&& 0x7FF#32 }) ∧
      h = { g with flags := h.flags, recent := h.recent, sync := h.sync, ten := h.ten, rrb := h.rrb, h := h.h, handler := h.handler, splits := h.splits } ∧
      (sel ≠ 0x19 → ∀ k, k ≠ 8 → h.flag k = g.flag k) ∧ (sel ≠ 0x1A → h.ten = g.ten) ∧ (sel ≠ 0x1C → h.rrb = g.rrb) ∧
      (sel < 0x30 → h.h = g.h)) ∧
    (CompletesWhen i (fun _ _ g p => firstLane i g p = none) fun _ _ g _ _ h => h = { g with splits := h.splits }) ∧
    (CompletesWhen i (fun _ _ g p => g.handler = none ∧ firstLane i g p ≠ none) fun s c g p _ h =>
      ∀ l, firstLane i g p = some l →
        (sel = 0x19 → ∀ k, k ≠ 8 → h.flag k = ((decide (k < 11) && (v s g p l).getLsbD k) || g.recent.getLsbD k)) ∧
        (sel = 0x19 → ¬ (uniform i = true ∧ uchk g = true) → h.flags = (v s g p l &&& 0x7FF#32) ||| g.recent) ∧
        (sel = 0x1A → h.ten = v s g p l &&& 0x107FF#32) ∧ (sel = 0x1C → h.rrb = rrb s g (v s g p l)) ∧
        (sel = 0x1B → ∃ q, h.split c.split = some q ∧ ((s.hdr g).sigMode = true → q.sig = v s g p l) ∧
          ((s.hdr g).sigMode = false → q.sig = p.sig))) ∧
    (CompletesWhen i (fun _ _ g p => g.handler ≠ none ∧ firstLane i g p ≠ none) fun s _ g p _ h =>
      ∀ l hd, firstLane i g p = some l → g.handler = some hd →
        h.ten = g.ten ∧ h.rrb = g.rrb ∧ (∀ k, k ≠ 8 → h.flag k = g.flag k) ∧
        (sel = 0x19 → h.handler = some { hd with flags := some (v s g p l &&& 0x7FF#32) }) ∧
        (sel = 0x1A → h.handler = some { hd with ten := some (v s g p l &&& 0x107FF#32) }) ∧
        (sel = 0x1B → (s.hdr g).sigMode = true → h.handler = some { hd with sig := some (v s g p l) }) ∧
        (sel = 0x1C → h.handler = some { hd with rrb := some (rrb s g (v s g p l)) }) ∧
        (∀ n, n < 16 → sel = 0x30 + n → h.handler = some hd ∧
          ∀ k, FMap.get 0#32 h.h k = if k = n then v s g p l else FMap.get 0#32 g.h k))) ∧
  let writes := fun (i : Instr) (v : State → Group → Split → Nat → Word) =>
    Completes i fun s c g p t h =>
      OnlyGroup s t c.core c.gid ∧ h = { g with splits := h.splits, handler := h.handler } ∧ WentOn h c ∧
      (∀ n, n ≠ c.split → h.split n = g.split n) ∧
      ∃ q, h.split c.split = some q ∧ q.active = p.active ∧ q.stack = p.stack ∧ q.chain = p.chain ∧
        match firstLane i g p, g.handler with
        | none, hd => q.fmt = p.fmt ∧ h.handler = hd
        | some l, none => q.fmt = v s g p l ∧ h.handler = none
        | some l, some hd => q.fmt = p.fmt ∧ h.handler = some { hd with fmt := some (v s g p l) }
  (∀ f, writes (.fmtset f) fun s g _ l => word (laneIn (s.hdr g) g (.fmtset f) {} l).a) ∧
  (∀ f, writes (.fmtsetI f) fun _ _ _ _ => f.imm)

/-! ## Floating point, conversion and quantization (06_number_formats.md, 07_float_and_format_instructions.md) -/

/-- R133 and Table 6.3: within the finite values `rnd` gives an encoding of a finite value; an exact value is kept without a
flag; RZ, RU and RD give the nearest value on their side, and RNE the nearest, the even one on a tie; NX is set where the
value changed, and UF where it changed below the smallest normal value. At or beyond the next power of two: under SAT, and in
E2M1, the largest finite value with SAT; else with OF the table's entry, or in E4M3 the NaN. An infinity stays one where the
format has infinities, and a zero keeps its sign. -/
def Obligations.RoundingAndOverflowFollowTheGrid : Prop :=
  (∀ F ∈ formats, ∀ (y : FV) (sat : Bool) (m : Nat), m < 4 → y.IsFinite → y.rat ≠ 0 →
    -F.largest ≤ y.rat → y.rat ≤ F.largest →
    let r := rnd (.mode m) F sat y
    let val := fun (c : Nat) => (F.value c).rat
    let codes := fun (c : Nat) => c < 2 ^ (1 + F.eb + F.mb) ∧ (F.value c).IsFinite
    let dist := fun (c : Nat) => if y.rat ≤ val c then val c - y.rat else y.rat - val c
    codes r.1 ∧ ((∃ c, codes c ∧ val c = y.rat) → val r.1 = y.rat ∧ r.2 = 0) ∧
    (m = 0 → ∀ c, codes c → dist r.1 ≤ dist c ∧ (dist c = dist r.1 → val c ≠ val r.1 → r.1 % 2 = 0)) ∧
    (m = 1 → ∀ c, codes c → (0 < y.rat → val r.1 ≤ y.rat ∧ (val c ≤ y.rat → val c ≤ val r.1)) ∧
      (y.rat < 0 → y.rat ≤ val r.1 ∧ (y.rat ≤ val c → val r.1 ≤ val c))) ∧
    (m = 2 → ∀ c, codes c → y.rat ≤ val r.1 ∧ (y.rat ≤ val c → val r.1 ≤ val c)) ∧
    (m = 3 → ∀ c, codes c → val r.1 ≤ y.rat ∧ (val c ≤ y.rat → val c ≤ val r.1)) ∧
    (val r.1 ≠ y.rat → r.2 = 0x10 + (if r.1 % 2 ^ (F.eb + F.mb) < 2 ^ F.mb then 0x8 else 0))) ∧
  ∀ F ∈ formats, ∀ (sat neg : Bool) (m : Nat), m < 4 →
    let inf := F.signBit neg + (2 ^ F.eb - 1) * 2 ^ F.mb
    let big := F.signBit neg + F.maxCode
    (∀ n d, 0 < d → 2 ^ (if F = e2m1 then 3 else if F = e4m3 then 9 else F.bias + 1) * d ≤ n →
      let r := rnd (.mode m) F sat (.fin neg n d)
      if sat = true ∨ F = e2m1 then r.1 = big ∧ r.2.testBit 5 = true ∧ r.2.testBit 2 = false
      else r.2.testBit 2 = true ∧ r.2.testBit 5 = false ∧
        r.1 = (if F = e4m3 then 0x7F else if m = 0 ∨ (m = 2 ∧ neg = false) ∨ (m = 3 ∧ neg = true) then inf else big)) ∧
    rnd (.mode m) F sat (.inf neg) = (if sat = true ∨ F = e2m1 then (big, 0x20) else if F = e4m3 then (0x7F, 0x1) else (inf, 0)) ∧
    ∀ d, rnd (.mode m) F sat (.fin neg 0 d) = (F.signBit neg, 0)

/-- R148, R156: sums of products are exact and rounded once, whatever the terms' order; a NaN gives the canonical NaN,
infinity times zero and infinite terms of unlike signs too, with NV; an infinite addend or product gives that infinity; an exact zero is +0,
or -0 under RD, but a sum of zeros of one sign keeps it. -/
def Obligations.SumsOfProductsRoundOnce : Prop :=
  ∀ F ∈ [fp32, fp16, bf16], ∀ (m : Nat) (prods : List (FV × FV)) (adds : List FV), m < 4 →
    let r := fusedSum (.mode m) F prods adds
    let ops := prods.flatMap (fun p => [p.1, p.2]) ++ adds
    let signs := prods.map (fun p => p.1.neg.xor p.2.neg) ++ adds.map FV.neg
    let x := (prods.map fun p => p.1.rat * p.2.rat).sum + (adds.map FV.rat).sum
    let noZero := ∀ p ∈ prods, ∀ s z d, p ≠ (.inf s, .fin z 0 d) ∧ p ≠ (.fin z 0 d, .inf s)
    let infinite := fun (s : Bool) => FV.inf s ∈ adds ∨
      ∃ p ∈ prods, (∃ t, p.1 = .inf t ∨ p.2 = .inf t) ∧ p.1.neg.xor p.2.neg = s
    ((∃ o ∈ ops, o.isNan = true) → r.1 = F.cnan) ∧ ((∃ o ∈ ops, o = .nan true) → r.2.testBit 0 = true) ∧
    ((∃ p ∈ prods, ∃ s z d, p = (.inf s, .fin z 0 d) ∨ p = (.fin z 0 d, .inf s)) → r.1 = F.cnan ∧ r.2.testBit 0 = true) ∧
    ((∀ o ∈ ops, o.isNan = false) → noZero → infinite true → infinite false → r = (F.cnan, 1)) ∧
    ((∀ o ∈ ops, o.isNan = false) → noZero → ∀ s, infinite s → ¬ infinite (!s) →
      r = (F.signBit s + (2 ^ F.eb - 1) * 2 ^ F.mb, 0)) ∧
    ((∀ o ∈ ops, o.IsFinite) → x ≠ 0 → ∀ y, y.IsFinite → y.rat = x → r = rnd (.mode m) F false y) ∧
    ((∀ o ∈ ops, o.IsFinite) → x = 0 → ops ≠ [] → (∃ p ∈ prods, p.1.rat * p.2.rat ≠ 0) ∨ (∃ a ∈ adds, a.rat ≠ 0) ∨
        (true ∈ signs ∧ false ∈ signs) → r = (F.signBit (m == 3), 0)) ∧
    ((∀ o ∈ ops, o.IsFinite) → (∀ p ∈ prods, p.1.rat * p.2.rat = 0) → (∀ a ∈ adds, a.rat = 0) → ops ≠ [] →
      ∀ s, (∀ b ∈ signs, b = s) → r = (F.signBit s, 0))

/-- R129, R130, R149, R150, R152 and Table 6.2: the value of every encoding of the seven formats, by sign, exponent and
mantissa, with the infinities and NaNs where the table lists them, the E4M3 and E8M0 NaNs quiet; minimumNumber and
maximumNumber, `fclass`, the magnitude and the sign on encodings, and CMP of `fsetp`: -0 below +0 for the first two, equal for
the comparison, and NV for a signalling NaN alone. -/
def Obligations.OrderAndClassOfEncodings : Prop :=
  (∀ F ∈ formats, ∀ c, c < 2 ^ (1 + F.eb + F.mb) →
    let e := c / 2 ^ F.mb % 2 ^ F.eb
    let m := c % 2 ^ F.mb
    let s := c.testBit (F.eb + F.mb)
    let special := (F = e4m3 ∧ e = 15 ∧ m = 7) ∨ ((F = fp32 ∨ F = fp16 ∨ F = bf16 ∨ F = e5m2) ∧ e = 2 ^ F.eb - 1)
    (special → F.value c = if F = e4m3 then .nan false else if m = 0 then .inf s else .nan (!m.testBit (F.mb - 1))) ∧
    (¬ special → (F.value c).IsFinite ∧ (F.value c).neg = s ∧
      (F.value c).rat = (if s = true then -1 else 1) * ((if e = 0 then m else 2 ^ F.mb + m : Nat) : Rat) *
        ((2 ^ Nat.max e 1 : Nat) : Rat) / ((2 ^ (F.bias + F.mb) : Nat) : Rat))) ∧
  e8m0Value 255 = .nan false ∧
  (∀ e, e < 255 → (e8m0Value e).IsFinite ∧ (e8m0Value e).neg = false ∧
    (e8m0Value e).rat = ((2 ^ e : Nat) : Rat) / ((2 ^ 127 : Nat) : Rat)) ∧
  let special := fun (F : Fmt) (a : Nat) => a / 2 ^ F.mb % 2 ^ F.eb = 2 ^ F.eb - 1
  let nan := fun (F : Fmt) (a : Nat) => special F a ∧ a % 2 ^ F.mb ≠ 0
  let signals := fun (F : Fmt) (a : Nat) => nan F a ∧ a.testBit (F.mb - 1) = false
  let num := fun (a : Nat) => if a % 2 ^ 31 = 0 then 0 else fp32.order a
  (∀ F ∈ [fp32, fp16, bf16], ∀ a b least, a < 2 ^ (1 + F.eb + F.mb) → b < 2 ^ (1 + F.eb + F.mb) →
    let r := minMax F least a b
    (nan F a → nan F b → r.1 = F.cnan) ∧ (nan F a → ¬ nan F b → r.1 = b) ∧ (¬ nan F a → nan F b → r.1 = a) ∧
    (¬ nan F a → ¬ nan F b → r.1 = if decide (F.order a < F.order b) = least then a else b) ∧
    (r.2 = 1 ↔ signals F a ∨ signals F b) ∧ r.2 ≤ 1) ∧
  (∀ a, a < 2 ^ 32 →
    (nan fp32 a → signOp false a = 0x7FC00000 ∧ signOp true a = 0x7FC00000) ∧
    (¬ nan fp32 a → signOp false a = a % 2 ^ 31 ∧ signOp true a = (a + 2 ^ 31) % 2 ^ 32) ∧
    classOf a = 2 ^ (if signals fp32 a then 0 else if nan fp32 a then 1
      else if special fp32 a then (if a.testBit 31 then 2 else 9)
      else if a % 2 ^ 31 = 0 then (if a.testBit 31 then 5 else 6)
      else if a % 2 ^ 31 < 2 ^ 23 then (if a.testBit 31 then 4 else 7) else if a.testBit 31 then 3 else 8)) ∧
  (∀ k a b, k < 14 → a < 2 ^ 32 → b < 2 ^ 32 →
    let unordered := nan fp32 a ∨ nan fp32 b
    (cmpF k (fp32.value a) (fp32.value b) = true ↔
      if k = 0 then ¬ unordered ∧ num a = num b else if k = 1 then unordered ∨ num a ≠ num b
      else if k = 2 then ¬ unordered ∧ num a < num b else if k = 3 then ¬ unordered ∧ num a ≤ num b
      else if k = 4 then ¬ unordered ∧ num b < num a else if k = 5 then ¬ unordered ∧ num b ≤ num a
      else if k = 6 then ¬ unordered else if k = 7 then unordered else if k = 8 then unordered ∨ num a = num b
      else if k = 9 then unordered ∨ num a < num b else if k = 10 then unordered ∨ num a ≤ num b
      else if k = 11 then unordered ∨ num b < num a else if k = 12 then unordered ∨ num b ≤ num a
      else ¬ unordered ∧ num a ≠ num b))

/-- R144, R146, R148 to R152, R154 to R156: what the floating-point and dot-product instructions write to d, and NV to
SAT and IV, in every form: RM of the E form or FMT.RND decides the mode (R70, R132, R143), elements are the halves of
packed operands, and the sums, orders and classes are those of `SumsOfProductsRoundOnce` and `OrderAndClassOfEncodings`. -/
def Obligations.FloatingPointInstructionsCompute : Prop :=
  let one := fun (op : Rnd → Nat → Nat → Nat → Nat × Nat) (i : Form1 → Instr) (j : FormE → Instr) =>
    (∀ f, Computes (i f) immF32 fun p x => op (modeRM p 0) x.a x.b x.c) ∧
    ∀ f, Computes (j f) immF32 fun p x => op (modeRM p f.rm) x.a x.b x.c
  let two := fun (half : Bool) (op : Fmt → Rnd → Nat → Nat → Nat → Nat × Nat) (i : Form1 → Instr) (j : FormE → Instr) =>
    let F := if half then fp16 else bf16
    let both := fun (R : Rnd) (x : LaneIn) =>
      let lo := op F R (x.a % 2 ^ 16) (x.b % 2 ^ 16) (x.c % 2 ^ 16)
      let hi := op F R (x.a / 2 ^ 16) (x.b / 2 ^ 16) (x.c / 2 ^ 16)
      (hi.1 * 2 ^ 16 + lo.1, lo.2 ||| hi.2)
    (∀ f, Computes (i f) (immPacked half) fun p x => both (modeRM p 0) x) ∧
    ∀ f, Computes (j f) (immPacked half) fun p x => both (modeRM p f.rm) x
  let dot := fun (half : Bool) (i : Form1 → Instr) (j : FormE → Instr) =>
    let v := (if half then fp16 else bf16).value
    let sum := fun (R : Rnd) (x : LaneIn) => fusedSum R fp32
      [(v (x.a % 2 ^ 16), v (x.b % 2 ^ 16)), (v (x.a / 2 ^ 16), v (x.b / 2 ^ 16))] [fp32.value x.c]
    (∀ f, Computes (i f) { immPacked half with c := .f32 } fun p x => sum (modeRM p 0) x) ∧
    ∀ f, Computes (j f) { immPacked half with c := .f32 } fun p x => sum (modeRM p f.rm) x
  let add := fun (F : Fmt) R a b (_ : Nat) => fusedSum R F [] [F.value a, F.value b]
  let mul := fun (F : Fmt) R a b (_ : Nat) => fusedSum R F [(F.value a, F.value b)] []
  let fma := fun (F : Fmt) R a b c => fusedSum R F [(F.value a, F.value b)] [F.value c]
  let least := fun (F : Fmt) (_ : Rnd) a b (_ : Nat) => minMax F true a b
  let most := fun (F : Fmt) (_ : Rnd) a b (_ : Nat) => minMax F false a b
  one (add fp32) .fadd .faddE ∧ one (fun R a b _ => fusedSum R fp32 [] [fp32.value a, (fp32.value b).negate]) .fsub .fsubE ∧
  one (mul fp32) .fmul .fmulE ∧ one (fma fp32) .ffma .ffmaE ∧ one (least fp32) .fmin .fminE ∧ one (most fp32) .fmax .fmaxE ∧
  one (fun _ a _ _ => (signOp false a, 0)) .fabs .fabsE ∧ one (fun _ a _ _ => (signOp true a, 0)) .fneg .fnegE ∧
  one (fun _ a _ _ => (classOf a, 0)) .fclass .fclassE ∧
  (∀ f, Computes (.frnd f) immF32 fun p x => rndIntegral (modeRM p 0) 0 x.a) ∧
  (∀ f, Computes (.frndE f) immF32 fun p x => rndIntegral (modeRM p f.rm) (f.bit 0) x.a) ∧
  (∀ f, WritesPred (.fsetp f) immF32 f.xd.toNat fun _ _ _ _ x =>
    let r := cmpF f.low4 (fp32.value x.a) (fp32.value x.b)
    let q := (x.t.pred (f.c.f.toNat % 8)).xor (f.c.f.toNat / 8 % 2 == 1)
    let bop := f.c.f.toNat / 16 % 4
    if bop = 0 then r else if bop = 1 then r && q else if bop = 2 then r || q else r.xor q) ∧
  (∀ f, SetsFlag (.fsetp f) immF32 0 fun _ _ _ _ x => fp32.value x.a = .nan true ∨ fp32.value x.b = .nan true) ∧
  two true add .hadd2 .hadd2E ∧ two true mul .hmul2 .hmul2E ∧ two true fma .hfma2 .hfma2E ∧
  two true least .hmin2 .hmin2E ∧ two true most .hmax2 .hmax2E ∧
  two false add .badd2 .badd2E ∧ two false mul .bmul2 .bmul2E ∧ two false fma .bfma2 .bfma2E ∧
  two false least .bmin2 .bmin2E ∧ two false most .bmax2 .bmax2E ∧
  dot false .bdp2 .bdp2E ∧ dot true .hdp2 .hdp2E

/-- R151: `frnd` gives the integer that the mode chooses, as an FP32 value with the sign of a, and NX with X alone. -/
def Obligations.RoundingToIntegralKeepsTheSign : Prop :=
  ∀ (m x a : Nat), m < 4 → a < 2 ^ 32 → (fp32.value a).IsFinite →
    let r := rndIntegral (.mode m) x a
    let v := (fp32.value r.1).rat
    let y := (fp32.value a).rat
    v.den = 1 ∧ r.1.testBit 31 = a.testBit 31 ∧ (y.den = 1 → v = y) ∧
    (m = 0 → v - y ≤ 1 / 2 ∧ y - v ≤ 1 / 2 ∧ (v - y = 1 / 2 ∨ y - v = 1 / 2 → v.num % 2 = 0)) ∧
    (m = 1 → (0 ≤ y → v = y.floor) ∧ (y ≤ 0 → v = y.ceil)) ∧ (m = 2 → v = y.ceil) ∧ (m = 3 → v = y.floor) ∧
    (r.2 = if x = 1 ∧ v ≠ y then 0x10 else 0)

/-- R155: `idp4`, `idp4n` and `idp8` form the exact sum of the products of their signed or unsigned elements and of c, and
wrap it, or under SAT clamp it and set SAT where that changes it. -/
def Obligations.IntegerDotProductsAreExact : Prop :=
  let el := fun (signed : Bool) (w v i : Nat) =>
    let x := (BitVec.ofNat w (v / 2 ^ (w * i)))
    if signed then x.toInt else (x.toNat : Int)
  let dot := fun (w n : Nat) (sa sb : Bool) (x : LaneIn) =>
    (word x.c).toInt + ((List.range n).map fun i => el sa w x.a i * el sb w x.b i).sum
  let out := fun (v : Int) => v < -2 ^ 31 ∨ 2 ^ 31 - 1 < v
  let res := fun (sat : Bool) (v : Int) =>
    BitVec.ofInt 32 (if sat then (if v < -2 ^ 31 then -2 ^ 31 else if 2 ^ 31 - 1 < v then 2 ^ 31 - 1 else v) else v)
  let one := fun (i : Instr) (sat : Bool) (d : LaneIn → Int) =>
    Writes32 i {} (fun _ _ _ _ x => res sat (d x)) ∧ SetsFlag i {} 5 fun _ _ _ _ x => sat = true ∧ out (d x)
  (∀ f, one (.idp4 f) false (dot 8 4 true true)) ∧ (∀ f, one (.idp4E f) (f.bit 0 == 1) (dot 8 4 true true)) ∧
  (∀ f, one (.idp4n f) false (dot 8 4 false true)) ∧ (∀ f, one (.idp4nE f) (f.bit 0 == 1) (dot 8 4 false true)) ∧
  (∀ f, one (.idp8 f) (f.bit 0 == 1) (dot 4 8 (f.bit 1 == 0) (f.bit 2 == 0)))

/-- R153 and Table 7.3, R118, R52: the class-F instructions clear the full bits of their destinations at issue and leave a
result pending for the latency of their row; the values that the named functions give are those of
`SfuFunctionsFollowTheirTable`, and `idivn` and `iremn` the quotient and the remainder, with DZ for a divisor of 0. -/
def Obligations.SfuInstructionsLeaveTheirResultPending : Prop :=
  let one := fun (lat : Nat) (op : Rnd → Nat → Nat × Nat) (i : Form1 → Instr) (j : FormE → Instr) =>
    (∀ f, IssuesToSfu (i f) immF32 lat fun p x => op (modeRM p 0) x.a) ∧
    ∀ f, IssuesToSfu (j f) immF32 lat fun p x => op (modeRM p f.rm) x.a
  let quot := fun (x : LaneIn) => (if x.b = 0 then 2 ^ 32 - 1 else x.a / x.b, if x.b = 0 then 2 else 0)
  let rem := fun (x : LaneIn) => (if x.b = 0 then x.a else x.a % x.b, if x.b = 0 then 2 else 0)
  one 12 rcpF .frcp .frcpE ∧ one 12 rsqF .frsq .frsqE ∧ one 20 sqrtF .fsqrt .fsqrtE ∧ one 12 ex2F .fex2 .fex2E ∧
  one 12 lg2F .flg2 .flg2E ∧ one 16 sinF .fsin .fsinE ∧ one 16 cosF .fcos .fcosE ∧
  (∀ f, IssuesToSfu (.fdiv f) immF32 24 fun p x => divF (modeRM p 0) x.a x.b) ∧
  (∀ f, IssuesToSfu (.fdivE f) immF32 24 fun p x => divF (modeRM p f.rm) x.a x.b) ∧
  (∀ f, IssuesToSfu (.idivn f) {} 24 fun _ x => quot x) ∧ (∀ f, IssuesToSfu (.idivnE f) {} 24 fun _ x => quot x) ∧
  (∀ f, IssuesToSfu (.iremn f) {} 24 fun _ x => rem x) ∧ (∀ f, IssuesToSfu (.iremnE f) {} 24 fun _ x => rem x)

/-- R153 and Table 7.3: the special operands of the SFU functions, quotients and reciprocals rounded once from their exact
value, and the root and the reciprocal root of every positive operand rounded once from their exact value: the nearest on the
mode's side, or the nearest of all, with NX where the result is not exact; the root is exact where it is rational. -/
def Obligations.SfuFunctionsFollowTheirTable : Prop :=
  ∀ (m a b : Nat), m < 4 → a < 2 ^ 32 → b < 2 ^ 32 →
    let R := Rnd.mode m
    let x := fp32.value a
    let y := fp32.value b
    let sx := a.testBit 31
    let s := sx.xor (b.testBit 31)
    let inf := fun (n : Bool) => if n then 0xFF800000 else 0x7F800000
    let zero := fun (n : Bool) => if n then 0x80000000 else 0
    let bad := (0x7FC00000, 1)
    let val := fun (c : Nat) => (fp32.value c).rat
    let code := fun (c : Nat) => c < 2 ^ 31 ∧ (fp32.value c).IsFinite
    let root := fun (q : Rat) (r : Nat × Nat) =>
      code r.1 ∧ r.2 = (if val r.1 * val r.1 = q then 0 else 0x10) ∧
      (m = 1 ∨ m = 3 → val r.1 * val r.1 ≤ q ∧ ∀ c, code c → val c * val c ≤ q → val c ≤ val r.1) ∧
      (m = 2 → q ≤ val r.1 * val r.1 ∧ ∀ c, code c → q ≤ val c * val c → val r.1 ≤ val c) ∧
      (m = 0 → ∀ c, code c → (val c < val r.1 → (val c + val r.1) * (val c + val r.1) ≤ 4 * q) ∧
        (val r.1 < val c → 4 * q ≤ (val c + val r.1) * (val c + val r.1)))
    (x.isNan = true → ∀ g ∈ [rcpF, rsqF, sqrtF, ex2F, lg2F, sinF, cosF],
      g R a = (0x7FC00000, if x = .nan true then 1 else 0)) ∧
    (a % 2 ^ 31 = 0 → rcpF R a = (inf sx, 2) ∧ rsqF R a = (inf sx, 2) ∧ sqrtF R a = (a, 0) ∧ ex2F R a = (0x3F800000, 0) ∧
      lg2F R a = (inf true, 2) ∧ sinF R a = (a, 0) ∧ cosF R a = (0x3F800000, 0)) ∧
    (a = 0x7F800000 → rcpF R a = (0, 0) ∧ rsqF R a = (0, 0) ∧ sqrtF R a = (a, 0) ∧ ex2F R a = (a, 0) ∧ lg2F R a = (a, 0) ∧
      sinF R a = bad ∧ cosF R a = bad) ∧
    (a = 0xFF800000 → rcpF R a = (0x80000000, 0) ∧ rsqF R a = bad ∧ sqrtF R a = bad ∧ ex2F R a = (0, 0) ∧ lg2F R a = bad ∧
      sinF R a = bad ∧ cosF R a = bad) ∧
    (x.IsFinite → x.rat < 0 → rsqF R a = bad ∧ sqrtF R a = bad ∧ lg2F R a = bad) ∧ lg2F R 0x3F800000 = (0, 0) ∧
    (x.IsFinite → x.rat ≠ 0 → ∀ z, z.IsFinite → z.rat * x.rat = 1 → rcpF R a = rnd R fp32 false z) ∧
    (x.IsFinite → 0 < x.rat → ∀ c, c < 2 ^ 31 → (fp32.value c).IsFinite → (fp32.value c).rat * (fp32.value c).rat = x.rat →
      sqrtF R a = (c, 0)) ∧
    (x.IsFinite → 0 < x.rat → root x.rat (sqrtF R a) ∧ root (1 / x.rat) (rsqF R a)) ∧
    (x.isNan = true ∨ y.isNan = true → divF R a b = (0x7FC00000, if x = .nan true ∨ y = .nan true then 1 else 0)) ∧
    (x.IsFinite → y.IsFinite → y.rat ≠ 0 → x.rat ≠ 0 → ∀ z, z.IsFinite → z.rat * y.rat = x.rat →
      divF R a b = rnd R fp32 false z) ∧
    (x.IsFinite → x.rat ≠ 0 → b % 2 ^ 31 = 0 → divF R a b = (inf s, 2)) ∧
    (a % 2 ^ 31 = 0 → b % 2 ^ 31 = 0 → divF R a b = bad) ∧ (a % 2 ^ 31 = 0 → y.IsFinite → y.rat ≠ 0 → divF R a b = (zero s, 0)) ∧
    (a % 2 ^ 31 = 0x7F800000 → b % 2 ^ 31 = 0x7F800000 → divF R a b = bad) ∧
    (a % 2 ^ 31 = 0x7F800000 → y.IsFinite → divF R a b = (inf s, 0)) ∧
    (x.IsFinite → b % 2 ^ 31 = 0x7F800000 → divF R a b = (zero s, 0))

/-- R135, R158, Tables 6.4 and 6.5: what a conversion gives for an exact value: exactly, whatever SAT holds, into a format
that holds every value of the source; else rounded; to E8M0 a power of two; to an integer rounded by mode, or the table's
bound with NV outside; between integers kept, wrapped, or under SAT clamped. That SAT saturates an infinity of E5M2 or FP16
into BF16, and that a quiet BF16 NaN gives the canonical NaN, is the model's choice (notes/assumptions/28.md). -/
def Obligations.ConversionsFollowTheirTables : Prop :=
  ∀ (m src dst n64 : Nat) (sat : Bool), m < 4 → src < 16 → dst < 16 → n64 < 2 →
    let conv := fun (x : FV) => convertTo (.mode m) src dst n64 sat x
    let pow := fun (k : Nat) => ((2 ^ k : Nat) : Rat)
    let keeps := (dst = 0 ∧ 0 < src ∧ src ≤ 6) ∨ (dst = 1 ∧ 3 ≤ src ∧ src ≤ 5) ∨ (dst = 2 ∧ (src = 3 ∨ src = 5))
    let signed := dst = 7 ∨ dst = 9 ∨ dst = 11 ∨ dst = 13 ∨ (dst = 15 ∧ n64 = 0)
    let lo : Int := if signed then -2 ^ (tyBits dst - 1) else 0
    let hi : Int := if signed then 2 ^ (tyBits dst - 1) - 1 else 2 ^ tyBits dst - 1
    let isRound := fun (q : Rat) (v : Int) =>
      if m = 0 then (v : Rat) - q ≤ 1 / 2 ∧ q - v ≤ 1 / 2 ∧ ((v : Rat) - q = 1 / 2 ∨ q - v = 1 / 2 → v % 2 = 0)
      else if m = 2 ∨ (m = 1 ∧ q < 0) then v = q.ceil else v = q.floor
    (keeps → ∀ F c, floatOf dst = some F → c < 2 ^ tyBits src →
      let x := tyValue src 0 c
      (x.isNan = true → conv x = (Int.ofNat F.cnan, if x = .nan true then 1 else 0)) ∧
      (x.isNan = false → 0 ≤ (conv x).1 ∧ (conv x).2 = 0 ∧ (F.value (conv x).1.toNat).rat = x.rat ∧
        (F.value (conv x).1.toNat).neg = x.neg ∧ ((F.value (conv x).1.toNat).IsFinite ↔ x.IsFinite))) ∧
    (src = dst → dst ≤ 6 → ∀ c, c < 2 ^ tyBits src → (tyValue src 0 c).isNan = false → conv (tyValue src 0 c) = (Int.ofNat c, 0)) ∧
    (¬ keeps → src ≠ dst → ∀ F x, floatOf dst = some F → 
      (conv x).1 = (rnd (.mode m) F sat x).1 ∧ (conv x).2 = (rnd (.mode m) F sat x).2) ∧
    (dst = 6 → src ≠ 6 → (∀ s, conv (.nan s) = (255, 1) ∧ conv (.inf s) = (255, 1)) ∧
      ∀ x : FV, x.IsFinite → (x.rat ≤ 0 → conv x = (255, 1)) ∧ (0 < x.rat → x.rat < 1 / pow 127 → conv x = (0, 0x18)) ∧
        (pow 127 < x.rat → conv x = (254, 0x14)) ∧ (∀ k : Nat, k < 255 → x.rat = pow k / pow 127 → conv x = (Int.ofNat k, 0)) ∧
        ∀ k : Nat, k < 254 → pow k / pow 127 < x.rat → x.rat < pow (k + 1) / pow 127 →
          conv x = (if m = 2 ∨ (m = 0 ∧ 3 / 2 * (pow k / pow 127) ≤ x.rat) then (k : Int) + 1 else k, 0x10)) ∧
    (7 ≤ dst → src ≤ 6 → (∀ s, conv (.nan s) = (0, 1) ∧ conv (.inf s) = (if s = true then lo else hi, 1)) ∧
      ∀ (x : FV) (v : Int), x.IsFinite → isRound x.rat v →
        conv x = if v < lo then (lo, 1) else if hi < v then (hi, 1) else (v, if (v : Rat) = x.rat then 0 else 0x10)) ∧
    (7 ≤ dst → 7 ≤ src → ∀ v : Int, conv (FV.ofInt v) =
      if sat = true ∧ tyBits dst < tyBits src then
        (if v < lo then (lo, 0x20) else if hi < v then (hi, 0x20) else (v, 0)) else (v, 0))

/-- R134, R143, R157 to R160: what `cvt`, `cvtsr`, `pack` and `unpack` write and which flags they raise, in every pair of
types: a small immediate stands for its integer, narrow results extend by type, 64-bit results take a pair, `pack` leaves
the other bits of d; and stochastic rounding goes up where r lies below the fraction. What `cvtsr` gives beyond the largest
finite value under IEEE no rule states, and nothing is claimed of it. That a small immediate of an E4M3, E5M2, E2M1 or E8M0 source stands for its integer,
and that of `unpack` for its bits, is the model's choice (notes/assumptions/28.md). -/
def Obligations.ConversionInstructionsWriteTheirElements : Prop :=
  let signed := fun (ty n64 : Nat) => ty = 7 ∨ ty = 9 ∨ ty = 11 ∨ ty = 13 ∨ (ty = 15 ∧ n64 = 0)
  let value := fun (x : Fld) (ty n64 v : Nat) =>
    if x.mode = .small ∧ ty ≤ 6 then FV.ofInt (BitVec.toInt x.f) else tyValue ty n64 v
  let narrow := fun (ty n64 : Nat) (v : Int) =>
    if signed ty n64 then (BitVec.ofInt (tyBits ty) v).signExtend 32 else (BitVec.ofInt (tyBits ty) v).setWidth 32
  let writes := fun (i : Instr) (ty n64 : Nat) (r : Split → LaneIn → Int × Nat) =>
    (tyBits ty = 64 → Writes64 i {} fun _ _ _ p x => BitVec.ofInt 64 (r p x).1) ∧
    (tyBits ty ≠ 64 → Writes32 i {} fun _ _ _ p x => narrow ty n64 (r p x).1) ∧
    ∀ k, k < 8 → SetsFlag i {} k fun _ _ _ p x => (r p x).2.testBit k = true
  (∀ f, writes (.cvt f) f.tyDst (f.bit 1) fun p x =>
    convertTo (modeRM p f.rm) f.tySrc f.tyDst (f.bit 1) (f.bit 0 == 1) (value f.a f.tySrc (f.bit 1) x.a)) ∧
  (∀ f, writes (.cvtsr f) f.tyDst (f.bit 1) fun _ x =>
    let v := value f.a f.tySrc (f.bit 1) x.a
    convertTo (.sr x.b (Config.srOverflowsToInf v.lowest x.b f.tyDst)) f.tySrc f.tyDst (f.bit 1) (f.bit 0 == 1) v) ∧
  (∀ f, writes (.unpack f) f.tyDst 0 fun p x =>
    convertTo (modeRM p f.rm) f.tySrc f.tyDst 0 false (tyValue f.tySrc 0 (x.a / 2 ^ (f.j * tyBits f.tySrc)))) ∧
  (∀ f : FormE,
    let e := fun (fld : Fld) (v : Nat) (p : Split) =>
      convertTo (modeRM p f.rm) f.tySrc f.tyDst 0 (f.bit 0 == 1) (value fld f.tySrc 0 v)
    let w := tyBits f.tyDst
    let at_ := 2 * f.j * w
    (∀ k, k < 8 → SetsFlag (.pack f) {} k fun _ _ _ p x =>
      (e f.a x.a p).2.testBit k = true ∨ (e f.b x.b p).2.testBit k = true) ∧
    Completes (.pack f) fun s _ g p _ h => ∀ l ∈ lanesOf (.pack f) g p, ∀ r ∈ destRegs s (.pack f) g l, ∀ k, k < 32 →
      let x := sources s (.pack f) {} g p l
      ((h.thread l).reg r).getLsbD k =
        if at_ ≤ k ∧ k < at_ + w then (BitVec.ofInt w (e f.a x.a p).1).getLsbD (k - at_)
        else if at_ + w ≤ k ∧ k < at_ + 2 * w then (BitVec.ofInt w (e f.b x.b p).1).getLsbD (k - at_ - w)
        else (word x.d).getLsbD k) ∧
  ∀ F ∈ formats, ∀ (x : FV) (r : Nat) (o sat : Bool), r < 2 ^ 32 → x.IsFinite → x.rat ≠ 0 → -F.largest ≤ x.rat → x.rat ≤ F.largest →
    let lo := (rnd (.mode 1) F sat x).1
    let val := fun (c : Nat) => (F.value c).rat
    let y := rnd (.sr r o) F sat x
    (val lo = x.rat → y = (lo, 0)) ∧
    (val lo ≠ x.rat → y.1 = (if (r : Rat) < (x.rat - val lo) / (val (lo + 1) - val lo) * 2 ^ 32 then lo + 1 else lo) ∧
      y.2 = 0x10 + (if y.1 % 2 ^ (F.eb + F.mb) < 2 ^ F.mb then 0x8 else 0))

/-- R137, R138, R161 to R165, Tables 7.5, 6.6 and 6.7: group quantization and microscaling, over exact values: the scale
entry of `qparam`, the codes of `qnt` and `mxq` with NX and SAT, and the values of `dqnt` and `mxdq`. -/
def Obligations.QuantizationFollowsItsDefinitions : Prop :=
  let comp := fun (i : Instr) (im : Imms) (op : Split → LaneIn → LaneOut) =>
    Computes i im fun p x => ((op p x).d.getD 0, (op p x).flags)
  let isRound := fun (m : Nat) (q : Rat) (v : Int) =>
    if m = 0 then (v : Rat) - q ≤ 1 / 2 ∧ q - v ≤ 1 / 2 ∧ ((v : Rat) - q = 1 / 2 ∨ q - v = 1 / 2 → v % 2 = 0)
    else if m = 2 ∨ (m = 1 ∧ q < 0) then v = q.ceil else v = q.floor
  let clamp := fun (lo hi v : Int) => if v < lo then lo else if hi < v then hi else v
  let out := fun (v : Int) => (BitVec.ofInt 32 v).toNat
  let flags := fun (nx sat : Prop) [Decidable nx] [Decidable sat] => (if nx then 0x10 else 0) + (if sat then 0x20 else 0)
  let qlo := fun (qf : Nat) => if qf = 0 then (-128 : Int) else if qf = 2 then -8 else 0
  let qhi := fun (qf : Nat) => if qf = 0 then (127 : Int) else if qf = 1 then 255 else if qf = 2 then 7 else 15
  let zp := fun (qf b : Nat) => if qf = 1 then b / 2 ^ 16 % 256 else if qf = 3 then b / 2 ^ 16 % 16 else 0
  let pow := fun (k : Nat) => ((2 ^ k : Nat) : Rat) / ((2 ^ 127 : Nat) : Rat)
  (∀ f, Computes (.qparam f) immF32 fun p x => qparam (modeRM p f.rm) f.c.f.toNat x) ∧
  (∀ f, comp (.qnt f) { a := .f32 } fun p x => qnt (modeRM p f.rm) f.c.f.toNat x) ∧
  (∀ f, comp (.dqnt f) {} fun _ x => dqnt f.c.f.toNat x) ∧
  (∀ f, comp (.mxexp f) immF32 fun _ x => mxexp false x) ∧ (∀ f, comp (.mxexpE f) immF32 fun _ x => mxexp (f.bit 0 == 1) x) ∧
  (∀ f, comp (.mxq f) { a := .f32 } fun p x => mxq (modeRM p f.rm) (f.bit 0 == 1) x) ∧
  (∀ f, comp (.mxdq f) {} fun p x => mxdq (modeRM p f.rm) (f.bit 0 == 1) x) ∧
  ∀ (m qf : Nat) (fp4 : Bool) (x : LaneIn), m < 4 → qf < 4 → x.a < 2 ^ 32 → x.b < 2 ^ 32 →
    let R := Rnd.mode m
    let a := fp32.value x.a
    let b := fp32.value x.b
    let s := fp16.value (x.b % 2 ^ 16)
    let z := zp qf x.b
    let e := x.b % 256
    (a.isNan = true ∨ b.isNan = true → qparam R qf x = (0x7E00, 1)) ∧
    (a.IsFinite → b.IsFinite →
      let low := if a.rat < 0 then a.rat else 0
      let abs := fun (q : Rat) => if q < 0 then -q else q
      let span := if qf % 2 = 1 then (if 0 < b.rat then b.rat else 0) - low
        else if abs a.rat < abs b.rat then abs b.rat else abs a.rat
      (span = 0 → qparam R qf x = (0x3C00, 0)) ∧
      (span ≠ 0 → ∀ y : FV, y.IsFinite → y.rat * qhi qf = span →
        let r := rnd R fp16 true y
        let sc := if r.1 = 0 then 1 else r.1
        ∀ v : Int, isRound 0 (-low / (fp16.value sc).rat) v →
          qparam R qf x = ((if qf % 2 = 1 then (clamp 0 (qhi qf) v).toNat else 0) * 2 ^ 16 + sc, r.2))) ∧
    (qf % 2 = 0 → a.isNan = false → b.isNan = false → (∃ n, a = .inf n ∨ b = .inf n) → qparam R qf x = (0x7BFF, 0x20)) ∧
    (qf % 2 = 1 → b.isNan = false → a = .inf true → qparam R qf x = ((qhi qf).toNat * 2 ^ 16 + 0x7BFF, 0x20)) ∧
    (a.isNan = true ∨ s.isNan = true ∨ (∃ n, s = .inf n) ∨ s.isZero = true → qnt R qf x = { d := some z, flags := 1 }) ∧
    (a.IsFinite → s.IsFinite → s.rat ≠ 0 → ∀ v : Int, isRound m (a.rat / s.rat) v →
      let q := clamp (qlo qf) (qhi qf) (v + z)
      qnt R qf x = { d := some (out q), flags := flags ((v : Rat) ≠ a.rat / s.rat) (q ≠ v + z) }) ∧
    (∀ n, a = .inf n → s.IsFinite → s.rat ≠ 0 →
      qnt R qf x = { d := some (out (if (n.xor s.neg) = true then qlo qf else qhi qf)), flags := 0x20 }) ∧
    (let w := if qf < 2 then 8 else 4
     let q : Int := if qf % 2 = 1 then (x.a % 2 ^ w : Nat) else (BitVec.ofNat w x.a).toInt
     (s.isNan = true → dqnt qf x = { d := some 0x7FC00000, flags := if s = .nan true then 1 else 0 }) ∧
     (s.IsFinite → ∃ d, dqnt qf x = { d := some d } ∧ (fp32.value d).IsFinite ∧ (fp32.value d).rat = s.rat * (q - z : Int)) ∧
     ∀ n, s = .inf n → dqnt qf x = if q = z then { d := some 0x7FC00000, flags := 1 }
       else { d := some (if (n.xor (decide (q < z))) = true then 0xFF800000 else 0x7F800000) }) ∧
    (¬ a.IsFinite → mxexp fp4 x = { d := some 0xFF, flags := 1 }) ∧ (a.isZero = true → mxexp fp4 x = { d := some 0 }) ∧
    (∀ k : Nat, a.IsFinite → ((2 ^ k : Nat) : Rat) / ((2 ^ 149 : Nat) : Rat) ≤ (if a.rat < 0 then -a.rat else a.rat) →
      (if a.rat < 0 then -a.rat else a.rat) < ((2 ^ (k + 1) : Nat) : Rat) / ((2 ^ 149 : Nat) : Rat) →
      mxexp fp4 x = { d := some (clamp 0 254 ((k : Int) - 149 - (if fp4 = true then 2 else 0) + 127)).toNat }) ∧
    (a.isNan = true ∨ e = 255 → mxq R fp4 x = { d := some 0, flags := 1 }) ∧
    (e ≠ 255 → ∀ n, a = .inf n → mxq R fp4 x =
      { d := some (if fp4 = true then (if n = true then 0xF else 7) else out (if n = true then -128 else 127)), flags := 0x20 }) ∧
    (e ≠ 255 → a.IsFinite →
      (fp4 = false → ∀ v : Int, isRound m (64 * (a.rat / pow e)) v → mxq R fp4 x =
        { d := some (out (clamp (-128) 127 v)), flags := flags ((v : Rat) ≠ 64 * (a.rat / pow e)) (clamp (-128) 127 v ≠ v) }) ∧
      (fp4 = true → ∀ y : FV, y.IsFinite → y.neg = a.neg → y.rat * pow e = a.rat →
        mxq R fp4 x = { d := some (rnd R e2m1 true y).1, flags := (rnd R e2m1 true y).2 })) ∧
    (e = 255 → mxdq R fp4 x = { d := some 0x7FC00000 }) ∧
    (e ≠ 255 → ∀ y : FV, y.IsFinite →
      (fp4 = false → y.rat = ((BitVec.ofNat 8 x.a).toInt : Rat) / 64 * pow e → y.neg = decide (y.rat < 0) →
        mxdq R fp4 x = { d := some (rnd R fp32 false y).1, flags := (rnd R fp32 false y).2 }) ∧
      (fp4 = true → y.rat = (e2m1.value (x.a % 16)).rat * pow e → y.neg = (e2m1.value (x.a % 16)).neg →
        mxdq R fp4 x = { d := some (rnd R fp32 false y).1, flags := (rnd R fp32 false y).2 }))

/-! ## Lanes and control flow (08_control_lanes_regroup.md) -/

/-- R185 to R190: the lane instructions over their participants, whose sources are all read before anything is written:
exchange, with 0 and LD from a dead lane; polls and peers of every mode; exact folds and prefix folds; and the floating-point
fold in its fixed tree over lane numbers, which returns the value of a single participant as it stands, also a NaN that is not
canonical (the model's choice, notes/assumptions/28.md). -/
def Obligations.LaneInstructionsShareParticipants : Prop :=
  let val := fun (s : State) (g : Group) (i : Instr) (im : Imms) (m : Nat) => (laneIn (s.hdr g) g i im m).a
  let mask := fun (ls : List Nat) => ls.foldl (fun (m : Word) l => m ||| (1#32) <<< l) 0
  let lxSrc := fun (mode : Nat) (x : LaneIn) =>
    let far := (x.lane : Int) + (word x.b).toInt
    if mode = 0 then some (x.b % 32) else if mode = 1 then some ((x.lane + x.b % 32) % 32)
    else if mode = 2 then (if 0 ≤ far ∧ far ≤ 31 then some far.toNat else none)
    else some (BitVec.ofNat 5 x.lane ^^^ BitVec.ofNat 5 x.b).toNat
  let polled := fun (f : FormE) (g : Group) (p : Split) =>
    (lanesOf (.lpoll f) g p).filter fun l => ((g.thread l).pred f.a.f.toNat).xor (f.bit 3 == 1)
  let peers := fun (f : FormE) (s : State) (g : Group) (p : Split) (x : LaneIn) =>
    (lanesOf (.lpeer f) g p).filter fun l => val s g (.lpeer f) {} l == x.a
  let isFold := fun (op : Nat) (vs : List Word) (r : Word) =>
    if op = 0 then r = vs.foldr (· + ·) 0 else if op = 1 then r ∈ vs ∧ ∀ v ∈ vs, r.toInt ≤ v.toInt
    else if op = 2 then r ∈ vs ∧ ∀ v ∈ vs, v.toInt ≤ r.toInt else if op = 3 then r ∈ vs ∧ ∀ v ∈ vs, r.toNat ≤ v.toNat
    else if op = 4 then r ∈ vs ∧ ∀ v ∈ vs, v.toNat ≤ r.toNat else if op = 5 then r = vs.foldr (· &&& ·) 0xFFFFFFFF
    else if op = 6 then r = vs.foldr (· ||| ·) 0 else r = vs.foldr (· ^^^ ·) 0
  let comb := fun (R : Rnd) (op : Nat) (x y : Option (Nat × Nat)) =>
    match x, y with
    | none, y => y
    | x, none => x
    | some (a, fa), some (b, fb) =>
      let r := if op = 0 then fusedSum R fp32 [] [fp32.value a, fp32.value b] else minMax fp32 (op == 1) a b
      some (r.1, fa ||| fb ||| r.2)
  let tree := fun (f : FormE) (s : State) (g : Group) (p : Split) =>
    let up := fun (w : Nat) (e : Nat → Option (Nat × Nat)) (k : Nat) => comb (modeRM p f.rm) f.j (e k) (e (k + w))
    let e := fun (l : Nat) => if l ∈ lanesOf (.flfold f) g p then some (val s g (.flfold f) immF32 l, 0) else none
    (up 16 (up 8 (up 4 (up 2 (up 1 e)))) 0).getD (0, 0)
  (∀ f, Writes32 (.lxch f) {} fun s _ g p x =>
    match lxSrc f.ck x with
    | none => word x.a
    | some m => if g.dead.getLsbD m = true then 0 else if m ∈ lanesOf (.lxch f) g p then word (val s g (.lxch f) {} m) else word x.a) ∧
  (∀ f, SetsFlag (.lxch f) {} 9 fun _ _ g _ x => ∃ m, lxSrc f.ck x = some m ∧ g.dead.getLsbD m = true) ∧
  (∀ f, f.ck = 0 → Writes32 (.lpoll f) {} fun _ _ g p _ => mask (polled f g p)) ∧
  (∀ f, f.ck = 3 → Writes32 (.lpoll f) {} fun _ _ g p _ => word (polled f g p).length) ∧
  (∀ f, f.ck = 1 → WritesPred (.lpoll f) {} f.xd.toNat fun _ _ g p _ => decide (polled f g p = lanesOf (.lpoll f) g p)) ∧
  (∀ f, f.ck = 2 → WritesPred (.lpoll f) {} f.xd.toNat fun _ _ g p _ => !(polled f g p).isEmpty) ∧
  (∀ f, f.ck = 0 → Writes32 (.lpeer f) {} fun s _ g p x => mask (peers f s g p x)) ∧
  (∀ f, f.ck = 2 → Completes (.lpeer f) fun s _ g p _ h => ∀ l ∈ lanesOf (.lpeer f) g p, ∀ r ∈ destRegs s (.lpeer f) g l,
    ∃ m ∈ peers f s g p (laneIn (s.hdr g) g (.lpeer f) {} l), (h.thread l).reg r = word m ∧
      ∀ k ∈ peers f s g p (laneIn (s.hdr g) g (.lpeer f) {} l), m ≤ k) ∧
  (∀ f, f.ck = 1 → Writes32 (.lpeer f) {} (fun s _ g p x =>
      if peers f s g p x = lanesOf (.lpeer f) g p then mask (lanesOf (.lpeer f) g p) else 0) ∧
    WritesPred (.lpeer f) {} f.c.f.toNat fun s _ g p x => decide (peers f s g p x = lanesOf (.lpeer f) g p)) ∧
  (∀ f, Completes (.lfold f) fun s _ g p _ h => ∀ l ∈ lanesOf (.lfold f) g p, ∀ r ∈ destRegs s (.lfold f) g l,
    isFold f.j (((lanesOf (.lfold f) g p).filter fun m => f.bit 4 = 0 || decide (m ≤ l)).map fun m =>
      word (val s g (.lfold f) {} m)) ((h.thread l).reg r)) ∧
  (∀ f, Writes32 (.flfold f) immF32 fun s _ g p _ => word (tree f s g p).1) ∧
  (∀ f k, k < 8 → SetsFlag (.flfold f) immF32 k fun s _ g p _ => (tree f s g p).2.testBit k = true)

/-- R167 to R172, R180, R182, R184: where the transfers take the split, the whole of it, in every form: `nop`; `bra`, `bru`,
`brx`, `ret`; `call` and `callx` with the link pair of every lane; `brloop` with its counter and RRB; `join`; `yield` with
the request down and up. A target that is no multiple of 4 takes ILLEGAL with DETAIL 4. UV follows R168. -/
def Obligations.TransfersMoveTheSplit : Prop :=
  let disp := fun (c : Cur) (d : Word) => c.base + d.signExtend 64
  let uv := fun (g h : Group) (differs : Prop) => h.flag 8 = true ↔ g.flag 8 = true ∨ (uchk g = true ∧ differs)
  let aligned := fun (i : Instr) (s : State) (_ : Cur) (g : Group) (p : Split) => firstLane i g p ≠ none ∧ uniformA s i g p % 4 = 0
  let crooked := fun (i : Instr) (s : State) (_ : Cur) (g : Group) (p : Split) => firstLane i g p ≠ none ∧ uniformA s i g p % 4 ≠ 0
  let links := fun (i : Instr) (ra : DWord) (s : State) (c : Cur) (g : Group) (p : Split) (t : State) (h : Group) =>
    OnlyGroup s t c.core c.gid ∧ OnlySplit g h c.split p ∧ h = { g with lanes := h.lanes, splits := h.splits, flags := h.flags, recent := h.recent, sync := h.sync } ∧
    (∀ l ∈ lanesOf i g p, ∀ k r : Nat, (destRegs s i g l)[k]? = some r → (h.thread l).reg r = ra.extractLsb' (32 * k) 32) ∧
    (∀ l, l ∉ lanesOf i g p → h.thread l = g.thread l) ∧
    (∀ l r, r ∉ destRegs s i g l → (h.thread l).reg r = (g.thread l).reg r) ∧
    ∀ l, h.thread l = { g.thread l with v := (h.thread l).v }
  let ra := fun (c : Cur) (n : Nat) => c.base + BitVec.ofNat 64 (if c.dict then 4 else n)
  let condition := fun (f : FormI) (g : Group) (l : Nat) => ((g.thread l).pred (f.mod.toNat % 8)).xor (f.mod.toNat / 8 % 2 == 1)
  (∀ f, Completes (.nop f) fun s c g p t h => OnlyMoves s t c g h p ∧ h.flags = g.flags ∧ WentOn h c) ∧
  (∀ f, Completes (.bra f) fun s c g p t h => OnlyMoves s t c g h p ∧ h.flags = g.flags ∧ Jumped h c (disp c f.imm)) ∧
  (∀ f, CompletesWhen (.bru f) (fun _ _ g p => firstLane (.bru f) g p ≠ none) fun s c g p t h =>
    ∀ l, firstLane (.bru f) g p = some l → OnlyMoves s t c g h p ∧
      (condition f g l = true → Jumped h c (disp c f.imm)) ∧ (condition f g l = false → WentOn h c) ∧
      uv g h (∃ k ∈ lanesOf (.bru f) g p, condition f g k ≠ condition f g l)) ∧
  (∀ i, (∃ f, i = .brx f ∨ i = .ret f) →
    (CompletesWhen i (aligned i) fun s c g p t h => OnlyMoves s t c g h p ∧ Jumped h c (dword (uniformA s i g p)) ∧
      uv g h (UniformDiffers s i g p)) ∧
    TrapsAt i (crooked i) 0x01 4 fun _ _ _ _ => 0) ∧
  (∀ f, Completes (.call f) fun s c g p t h => links (.call f) (ra c 8) s c g p t h ∧ h.flags = g.flags ∧ Jumped h c (disp c f.imm)) ∧
  (∀ f, (CompletesWhen (.callx f) (aligned (.callx f)) fun s c g p t h => links (.callx f) (ra c 4) s c g p t h ∧
      (∀ k, k ≠ 8 → h.flag k = g.flag k) ∧ uv g h (UniformDiffers s (.callx f) g p) ∧ Jumped h c (dword (uniformA s (.callx f) g p))) ∧
    TrapsAt (.callx f) (crooked (.callx f)) 0x01 4 fun _ _ _ _ => 0) ∧
  (∀ f, CompletesWhen (.brloop f) (fun _ _ g p => firstLane (.brloop f) g p ≠ none) fun s c g p t h =>
    let count := fun (l : Nat) => word (sources s (.brloop f) {} g p l).d - 1
    ∀ l, firstLane (.brloop f) g p = some l → OnlyGroup s t c.core c.gid ∧ OnlySplit g h c.split p ∧
      h = { g with lanes := h.lanes, splits := h.splits, flags := h.flags, recent := h.recent, sync := h.sync, rrb := h.rrb } ∧
      (∀ k ∈ lanesOf (.brloop f) g p, ∀ r ∈ destRegs s (.brloop f) g k, (h.thread k).reg r = count k) ∧
      (∀ k r, k ∉ lanesOf (.brloop f) g p ∨ r ∉ destRegs s (.brloop f) g k → (h.thread k).reg r = (g.thread k).reg r) ∧
      (∀ k, h.thread k = { g.thread k with v := (h.thread k).v }) ∧
      (count l ≠ 0 → Jumped h c (disp c f.imm) ∧
        h.rrb = if (s.hdr g).rotSize = 0 then g.rrb else (g.rrb + (s.hdr g).rotSize - 1) % (s.hdr g).rotSize) ∧
      (count l = 0 → WentOn h c ∧ h.rrb = g.rrb) ∧ (∀ k, k ≠ 8 → h.flag k = g.flag k) ∧
      uv g h (∃ k ∈ lanesOf (.brloop f) g p, count k ≠ count l)) ∧
  (∀ f, Completes (.join f) fun s c g p t h => OnlyMoves s t c g h p ∧ h.flags = g.flags ∧
    (∀ j, innermostJoin g p = some j → Jumped h c j) ∧ (innermostJoin g p = none → WentOn h c)) ∧
  (∀ f, Completes (.yield f) fun s c g p t h => OnlyGroup s t c.core c.gid ∧ OnlySplit g h c.split p ∧ WentOn h c ∧
    ((s.core c.core).yreqV = true ∧ (s.core c.core).yreqCtx = g.ctx →
      h = { g with splits := h.splits, phase := .yielding } ∧ ∃ q, h.split c.split = some q ∧ q.wait = .yielding) ∧
    (¬ ((s.core c.core).yreqV = true ∧ (s.core c.core).yreqCtx = g.ctx) → h = { g with splits := h.splits }))

/-- R174, R176 and Table 8.4: a `brc` with no taken lane goes on, with all taken jumps; a divergent one keeps F in the issuing
split and puts T away by the first case that applies, in the WMASK of the innermost join, a stack entry, a new split of the
innermost record, or a new record; a push beyond 8 entries takes STACK and changes nothing. Requests of the issuing split
stay earlier for a new split (R322). Case 4 here asks for a free one of the three records of R174 (the model pushes where
there is none, notes/assumptions/4.md). -/
def Obligations.DivergenceFollowsItsTable : Prop :=
  ∀ f : FormI,
    let i := Instr.brc f
    let cond := fun (g : Group) (l : Nat) => ((g.thread l).pred (f.mod.toNat % 8)).xor (f.mod.toNat / 8 % 2 == 1)
    let taken := fun (g : Group) (p : Split) => (lanesOf i g p).filter fun l => cond g l
    let mask := fun (ls : List Nat) => ls.foldl (fun (m : Mask) l => m ||| (1#32) <<< l) 0
    let tm := fun (g : Group) (p : Split) => mask (taken g p)
    let fm := fun (g : Group) (p : Split) => mask ((lanesOf i g p).filter fun l => !cond g l)
    let target := fun (c : Cur) => c.base + f.imm.signExtend 64
    let j := fun (c : Cur) => c.base + BitVec.ofNat 64 (4 * f.joff)
    let diverges := fun (g : Group) (p : Split) => taken g p ≠ [] ∧ taken g p ≠ lanesOf i g p
    let freeS := fun (g : Group) (n : Nat) => IsLowestFree 4 (fun k => g.split k = none) n
    let freeR := fun (g : Group) (n : Nat) => IsLowestFree 3 (fun k => FMap.find g.records k = none) n
    let entry := fun (s : State) (c : Cur) (p : Split) (push : DWord × Mask × Mask) =>
      ({ resume := push.1, join := j c, dmask := push.2.1, wmask := push.2.2, fmt := p.fmt, deferred := false,
         since := s.fresh } : StackEntry)
    let keeps := fun (c : Cur) (g h : Group) (p : Split) (stack : List StackEntry) (chain : Option Nat) =>
      ∃ q, h.split c.split = some q ∧ q.pc = c.next ∧ q.active = fm g p ∧ q.fmt = p.fmt ∧ q.stack = stack ∧ q.chain = chain
    let oneSplit := fun (s t : State) (c : Cur) (g h : Group) =>
      OnlyGroup s t c.core c.gid ∧ (∀ n, n ≠ c.split → h.split n = g.split n)
    let forks := fun (s t : State) (c : Cur) (g h : Group) (p : Split) (n : Nat) (chain : Option Nat) =>
      OnlyGroup s { t with fly := s.fly } c.core c.gid ∧ h = { g with splits := h.splits, records := h.records } ∧
      (∀ k, k ≠ c.split → k ≠ n → h.split k = g.split k) ∧
      (∃ q, h.split n = some q ∧ q.pc = target c ∧ q.active = tm g p ∧ q.fmt = p.fmt ∧ q.stack = [] ∧ q.chain = chain ∧
        q.clause = none ∧ q.wait = .held ∧ ∀ x, h.split c.split = some x → q.sig = x.sig) ∧
      t.fly = { s.fly with
        reqs := s.fly.reqs.map (fun r => if r.core = c.core ∧ r.gid = c.gid ∧ (r.splits ||| r.aside).getLsbD c.split = true then
          { r with splits := r.splits ||| (1#5) <<< n } else r),
        sfu := s.fly.sfu.map (fun r => if r.core = c.core ∧ r.gid = c.gid ∧ r.splits.getLsbD c.split = true then
          { r with splits := r.splits ||| (1#5) <<< n } else r) }
    CompletesWhen i (fun _ _ g p => taken g p = []) (fun s c g p t h => OnlyMoves s t c g h p ∧ h.flags = g.flags ∧ WentOn h c) ∧
    CompletesWhen i (fun _ _ g p => taken g p ≠ [] ∧ taken g p = lanesOf i g p) (fun s c g p t h =>
      OnlyMoves s t c g h p ∧ h.flags = g.flags ∧ Jumped h c (target c)) ∧
    CompletesWhen i (fun _ c g p => diverges g p ∧ c.split < 4 ∧ target c = j c ∧ innermostJoin g p = some (j c)) (fun s c g p t h =>
      oneSplit s t c g h ∧ match p.stack, p.chain with
      | e :: es, _ => h = { g with splits := h.splits } ∧ keeps c g h p ({ e with wmask := e.wmask ||| tm g p } :: es) p.chain
      | [], some q => h = { g with splits := h.splits, records := h.records } ∧ keeps c g h p [] p.chain ∧
        ∀ k, FMap.find h.records k =
          if k = q then (FMap.find g.records q).map (fun r => { r with wmask := r.wmask ||| tm g p }) else FMap.find g.records k
      | [], none => False) ∧
    (let pushes := fun (c : Cur) (g : Group) (p : Split) => c.split < 4 ∧ diverges g p ∧
       ((target c = j c ∧ innermostJoin g p ≠ some (j c)) ∨ (target c ≠ j c ∧ (p.stack ≠ [] ∨ ∀ n, ¬ freeS g n)))
     CompletesWhen i (fun _ c g p => pushes c g p ∧ p.stack.length < 8) (fun s c g p t h =>
       oneSplit s t c g h ∧ h = { g with splits := h.splits } ∧ keeps c g h p
         (entry s c p (if target c = j c then (0, 0, tm g p) else (target c, tm g p, 0)) :: p.stack) p.chain) ∧
     TrapsAt i (fun _ c g p => pushes c g p ∧ 8 ≤ p.stack.length) 0x0E 0 fun _ _ _ _ => 0) ∧
    (∀ n q r, CompletesWhen i (fun _ c g p => c.split < 4 ∧ diverges g p ∧ target c ≠ j c ∧ p.stack = [] ∧ p.chain = some q ∧
        FMap.find g.records q = some r ∧ r.j = j c ∧ freeS g n) fun s c g p t h =>
      keeps c g h p [] (some q) ∧ forks s t c g h p n (some q) ∧
      ∀ k, FMap.find h.records k = if k = q then some { r with members := r.members ||| (1#4) <<< n } else FMap.find g.records k) ∧
    ∀ n q, CompletesWhen i (fun _ c g p => c.split < 4 ∧ diverges g p ∧ target c ≠ j c ∧ p.stack = [] ∧ innermostJoin g p ≠ some (j c) ∧
        freeS g n ∧ freeR g q) fun s c g p t h =>
      keeps c g h p [] (some q) ∧ forks s t c g h p n (some q) ∧
      ∀ k, FMap.find h.records k = if k = q then
        some { j := j c, fmt := p.fmt, members := (1#4) <<< c.split ||| (1#4) <<< n, arrived := 0, wmask := 0, outer := p.chain }
        else FMap.find g.records k

/-- R177, R178, R214, R464: a join action pops the stack entry or goes to its deferred path, with the entry's FMT; a split at a
record sets its ARRIVED bit and stops; and a record merges into its lowest member, whose lanes are the union of the members'
lanes and WMASK less DEAD, the other members' indices becoming free; in every record that encloses it the merged split stands for its
members. SIG folds the join address at the final pop and over the
exclusive or of the members at a merge. -/
def Obligations.JoinsReuniteLanes : Prop :=
  ∀ (g : Group) (k now : Nat) (p : Split), g.split k = some p →
    let h := g.joinAct true now k p
    (∀ e es, p.stack = e :: es → (∀ n, n ≠ k → h.split n = g.split n) ∧ h = { g with splits := h.splits } ∧
      ∃ q, h.split k = some q ∧ q.fmt = e.fmt ∧ q.chain = p.chain ∧ q.clause = none ∧ q.wait = .held ∧
        if e.deferred = false ∧ e.dmask &&& ~~~g.dead ≠ 0 then
          q.active = e.dmask &&& ~~~g.dead ∧ q.pc = e.resume ∧ q.sig = p.sig ∧
          q.stack = { e with wmask := e.wmask ||| p.active, deferred := true } :: es
        else q.active = (e.wmask ||| p.active) &&& ~~~g.dead ∧ q.pc = e.join ∧ q.stack = es ∧
          q.sig = crc32c p.sig (e.join.setWidth 32)) ∧
    (∀ n r, p.stack = [] → p.chain = some n → FMap.find g.records n = some r →
      (∀ m, m ≠ k → h.split m = g.split m) ∧ (∃ q, h.split k = some q ∧ q.wait = .record n ∧ q.active = p.active ∧ q.pc = p.pc) ∧
      ∀ m, FMap.find h.records m = if m = n then some { r with arrived := r.arrived ||| (1#4) <<< k } else FMap.find g.records m) ∧
    ∀ n r m qs, FMap.find g.records n = some r → Encloses g.records r.outer qs → n ∉ qs → qs.length ≤ 3 →
      r.members.getLsbD m = true → (∀ i, i < m → r.members.getLsbD i = false) →
      (∀ i, i < 4 → r.members.getLsbD i = true → g.split i ≠ none) →
      let y := (g.merge true now n r).1
      let members := (List.range 4).filter fun i => r.members.getLsbD i
      (∀ i, FMap.find y.records i = if i = n then none
        else if i ∈ qs then (FMap.find g.records i).map (·.standsFor r.members m) else FMap.find g.records i) ∧
      (∀ i, i ≠ m → y.split i = if i < 4 ∧ r.members.getLsbD i = true then none else g.split i) ∧
      ∃ q, y.split m = some q ∧ q.fmt = r.fmt ∧ q.chain = r.outer ∧ q.pc = r.j ∧ q.clause = none ∧ q.wait = .held ∧
        q.active = (members.foldl (fun a i => a ||| ((g.split i).map (·.active)).getD 0) r.wmask) &&& ~~~g.dead ∧
        q.sig = crc32c (members.foldl (fun a i => a ^^^ ((g.split i).map (·.sig)).getD 0) 0) (r.j.setWidth 32)

/-- R183, R27, R179, R464: `exit` ends the threads whose guard is true: they are DEAD and leave ACTIVE, and nothing of memory or of
what is in flight changes. A split that keeps lanes goes on; an emptied split takes its stack entry's action or, with no
join, ends. An emptied split that is a member of a join record leaves it, the lowest member left stands for it in the records
that enclose it, and a record whose members have then all arrived merges; the last member leaves live lanes of WMASK as a new
split at the join, and else frees the record and ends. A group whose last lane exits with no pan operation of it in flight
leaves its slot. -/
def Obligations.ExitEndsThreads : Prop :=
  ∀ f : Form1,
    let i := Instr.exit f
    let out := fun (g : Group) (p : Split) => (lanesOf i g p).foldl (fun (m : Mask) l => m ||| (1#32) <<< l) 0
    let settled := fun (c : Cur) (g : Group) (p : Split) =>
      (∀ k q, g.split k = some q → k ≠ c.split → q.active &&& ~~~out g p ≠ 0) ∧
      (∀ e ∈ g.splits, FMap.find g.splits e.1 = some e.2) ∧
      ∀ e ∈ g.records, e.2.members = 0 ∨ e.2.members ≠ e.2.arrived
    let rest := fun (s t : State) (c : Cur) (g h : Group) (p : Split) =>
      OnlyGroup s { t with fly := s.fly } c.core c.gid ∧ h = { g with splits := h.splits, dead := g.dead ||| out g p } ∧
      ∀ k, k ≠ c.split → h.split k = (g.split k).map fun q => { q with active := q.active &&& ~~~out g p }
    CompletesWhen i (fun _ c g p => settled c g p ∧ g.dead ||| out g p ≠ 0xFFFFFFFF ∧ p.active &&& ~~~g.dead &&& ~~~out g p ≠ 0)
      (fun s c g p t h => rest s t c g h p ∧ WentOn h c ∧ t.fly = s.fly ∧
        ∃ q, h.split c.split = some q ∧ q.active = p.active &&& ~~~out g p ∧ q.stack = p.stack ∧ q.chain = p.chain ∧ q.fmt = p.fmt) ∧
    CompletesWhen i (fun _ c g p => settled c g p ∧ c.split < 4 ∧ g.dead ||| out g p ≠ 0xFFFFFFFF ∧
        p.active &&& ~~~out g p = 0 ∧ p.stack = [] ∧ p.chain = none)
      (fun s c g p t h => rest s t c g h p ∧ h.split c.split = none) ∧
    (∀ e es, CompletesWhen i (fun _ c g p => settled c g p ∧ c.split < 4 ∧ g.dead ||| out g p ≠ 0xFFFFFFFF ∧
        p.active &&& ~~~out g p = 0 ∧ p.stack = e :: es ∧ e.deferred = false ∧ e.dmask &&& ~~~(g.dead ||| out g p) ≠ 0)
      fun s c g p t h => rest s t c g h p ∧ ∃ q, h.split c.split = some q ∧ q.pc = e.resume ∧ q.fmt = e.fmt ∧ q.clause = none ∧
        q.active = e.dmask &&& ~~~(g.dead ||| out g p) ∧ q.stack = { e with deferred := true } :: es) ∧
    (let bit := fun (c : Cur) => (1#4) <<< c.split
     let left := fun (c : Cur) (r : JoinRecord) => r.members &&& ~~~bit c
     let gone := fun (g : Group) (p : Split) => g.dead ||| out g p
     let less := fun (g : Group) (p : Split) (k : Nat) => (g.split k).map fun q => { q with active := q.active &&& ~~~out g p }
     let member := fun (c : Cur) (g : Group) (p : Split) (q : Nat) (r : JoinRecord) (qs : List Nat) =>
       settled c g p ∧ c.split < 4 ∧ gone g p ≠ 0xFFFFFFFF ∧ p.active &&& ~~~out g p = 0 ∧ p.stack = [] ∧ p.chain = some q ∧
       FMap.find g.records q = some r ∧ Encloses g.records r.outer qs ∧ q ∉ qs ∧ qs.length ≤ 3 ∧
       FMap.risingFrom 0 g.records = true ∧ r.members.getLsbD c.split = true ∧
       (∀ e ∈ g.records, e.2.arrived &&& ~~~e.2.members = 0 ∧ ∀ k, k < 4 → e.2.members.getLsbD k = true → g.split k ≠ none) ∧
       ∀ e ∈ g.records, e.1 ∈ qs → e.2.arrived &&& r.members = 0
     let part := fun (s t : State) (c : Cur) (g h : Group) (p : Split) =>
       OnlyGroup s { t with fly := s.fly } c.core c.gid ∧
       h = { g with splits := h.splits, records := h.records, dead := g.dead ||| out g p }
     let stands := fun (r : JoinRecord) (g h : Group) (p : Split) (k : Nat) (act : Mask) => ∃ x, h.split k = some x ∧
       x.active = act &&& ~~~gone g p ∧ x.pc = r.j ∧ x.fmt = r.fmt ∧ x.chain = r.outer ∧ x.stack = [] ∧ x.clause = none ∧
       x.wait = .held
     (∀ q r qs m, CompletesWhen i (fun _ c g p => member c g p q r qs ∧ left c r ≠ 0 ∧ left c r ≠ r.arrived &&& ~~~bit c ∧
         IsLowestFree 4 (fun k => (left c r).getLsbD k = true) m) fun s c g p t h =>
       part s t c g h p ∧ h.split c.split = none ∧ (∀ k, k ≠ c.split → h.split k = less g p k) ∧
       (∀ k, FMap.find h.records k =
         if k = q then some { r with members := left c r, arrived := r.arrived &&& ~~~bit c }
         else if k ∈ qs then (FMap.find g.records k).map (·.standsFor (bit c) m) else FMap.find g.records k) ∧
       t.fly.reqs = s.fly.reqs.map fun x =>
         if x.core = c.core ∧ x.gid = c.gid ∧ (x.splits ||| x.aside).getLsbD c.split = true then
           { x with splits := x.splits ||| (1#5) <<< m } else x) ∧
     (∀ q r qs m, CompletesWhen i (fun _ c g p => member c g p q r qs ∧ left c r ≠ 0 ∧ left c r = r.arrived &&& ~~~bit c ∧
         IsLowestFree 4 (fun k => (left c r).getLsbD k = true) m ∧
         (∃ x, g.split m = some x ∧ x.stack = [] ∧ x.active &&& ~~~gone g p ≠ 0)) fun s c g p t h =>
       part s t c g h p ∧ (∀ k, k ≠ m → h.split k = if k = c.split ∨ (left c r).getLsbD k = true then none else less g p k) ∧
       stands r g h p m (((List.range 4).filter fun k => (left c r).getLsbD k).foldl
         (fun a k => a ||| ((g.split k).map (·.active)).getD 0) r.wmask) ∧
       ∀ k, FMap.find h.records k =
         if k = q then none else if k ∈ qs then (FMap.find g.records k).map fun x => (x.standsFor (bit c) m).standsFor (left c r) m
         else FMap.find g.records k) ∧
     (∀ q r qs n, CompletesWhen i (fun _ c g p => member c g p q r qs ∧ left c r = 0 ∧ r.wmask &&& ~~~gone g p ≠ 0 ∧
         IsLowestFree 4 (fun k => k = c.split ∨ g.split k = none) n) fun s c g p t h =>
       part s t c g h p ∧ (∀ k, k ≠ n → h.split k = if k = c.split then none else less g p k) ∧ stands r g h p n r.wmask ∧
       ∀ k, FMap.find h.records k =
         if k = q then none else if k ∈ qs then (FMap.find g.records k).map (·.standsFor (bit c) n) else FMap.find g.records k) ∧
     ∀ q r, CompletesWhen i (fun _ c g p => member c g p q r [] ∧ left c r = 0 ∧ r.wmask &&& ~~~gone g p = 0) fun s c g p t h =>
       part s t c g h p ∧ h.split c.split = none ∧ (∀ k, k ≠ c.split → h.split k = less g p k) ∧
       ∀ k, FMap.find h.records k = if k = q then none else FMap.find g.records k) ∧
    ∀ s c g p, Admitted s i c g p → g.dead ||| out g p = 0xFFFFFFFF → p.active &&& ~~~g.dead &&& ~~~out g p = 0 → g.held = [] →
      (∀ x ∈ s.fly.pmmas, x.core = c.core → ∀ m ∈ x.members, m.1 ≠ c.gid) →
      ∃ t, exec i s = .next t ∧ t.group c.core c.gid = none ∧ (∀ k, k ≠ c.gid → t.group c.core k = s.group c.core k) ∧
        t.mem = s.mem ∧ t.wgs = s.wgs ∧ t.xl = s.xl ∧ t.coh = s.coh ∧ t.fq = s.fq ∧ t.fly.copies.length = s.fly.copies.length ∧
        t.fly.reqs.map (·.accs) = s.fly.reqs.map (·.accs)

/-- R191, R192: `gang` makes its three checks in order and writes GANG; `rset` writes RRB, absolute or relative, modulo
ROTSIZE, and leaves it 0 without a rotating range. Neither changes anything else but UV. That the lowest active lane alone is the
fault lane of checks made once per split is the model's reading (notes/assumptions/20.md). -/
def Obligations.GangAndRotatingBase : Prop :=
  (∀ f, let i := Instr.gang f
    let v := fun (s : State) (g : Group) (p : Split) => word (uniformA s i g p)
    let mixed := fun (g : Group) => ∃ l m, l < 32 ∧ m < 32 ∧ g.dead.getLsbD l = false ∧ g.dead.getLsbD m = false ∧
      FMap.find g.lanes l ≠ none ∧ FMap.find g.lanes m ≠ none ∧ (g.thread l).wg ≠ (g.thread m).wg
    let proper := fun (g : Group) => FMap.risingFrom 0 g.lanes = true ∧ ∀ e ∈ g.lanes, e.1 < 32
    let ones := fun (w : Word) => ((List.range 32).filter fun k => w.getLsbD k).length
    let ok := fun (s : State) (g : Group) (w : Word) => w = 0 ∨ (w.getLsbD g.wgpos = true ∧ w.toNat < 2 ^ s.groupCount g)
    let pre := fun (g : Group) (p : Split) => firstLane i g p ≠ none ∧ proper g
    TrapsAt i (fun _ _ g p => pre g p ∧ mixed g) 0x0F 0 (fun _ _ _ _ => 0) ∧
    TrapsAt i (fun s _ g p => pre g p ∧ ¬ mixed g ∧ (s.hdr g).gangMax < ones (v s g p)) 0x02 0 (fun _ _ _ _ => 0) ∧
    TrapsAt i (fun s _ g p => pre g p ∧ ¬ mixed g ∧ ones (v s g p) ≤ (s.hdr g).gangMax ∧ ¬ ok s g (v s g p)) 0x0B 0 (fun _ _ _ _ => 0) ∧
    CompletesWhen i (fun s _ g p => pre g p ∧ ¬ mixed g ∧ ones (v s g p) ≤ (s.hdr g).gangMax ∧ ok s g (v s g p))
      fun s c g p t h => OnlyGroup s t c.core c.gid ∧ OnlySplit g h c.split p ∧ WentOn h c ∧
        h = { g with splits := h.splits, flags := h.flags, recent := h.recent, sync := h.sync, gang := v s g p } ∧ (∀ k, k ≠ 8 → h.flag k = g.flag k) ∧
        (h.flag 8 = true ↔ g.flag 8 = true ∨ (uchk g = true ∧ UniformDiffers s i g p))) ∧
  ∀ f, let i := Instr.rset f
    CompletesWhen i (fun _ _ g p => firstLane i g p ≠ none) fun s c g p t h =>
      OnlyGroup s t c.core c.gid ∧ OnlySplit g h c.split p ∧ WentOn h c ∧ h = { g with splits := h.splits, rrb := h.rrb } ∧
      ((s.hdr g).rotSize = 0 → h.rrb = 0) ∧
      ((s.hdr g).rotSize ≠ 0 → f.bit 1 = 0 → h.rrb = uniformA s i g p % (s.hdr g).rotSize) ∧
      ((s.hdr g).rotSize ≠ 0 → f.bit 1 = 1 → (h.rrb : Int) = ((g.rrb : Int) + (word (uniformA s i g p)).toInt) % (s.hdr g).rotSize)

/-! ## Regroup -/

/-- R193 to R195, R198 and Table 8.6: `regroup` waits at its barrier with its keys, n and words while a participant has not
arrived; when the last has, a shuffle of 64 + ceil(N * (n + 1) * 4 / 512) cycles starts if every participant passes the
table's checks, and else every one of them takes REGROUP. A count above REGS takes RESOURCE, at the lowest active lane alone (the
model's reading, notes/assumptions/20.md); a lane that waits in a join record keeps no participant from passing
(notes/assumptions/27.md). -/
def Obligations.RegroupWaitsForItsParticipants : Prop :=
  (∀ f, let i := Instr.regroup f
    let n := f.b.f.toNat
    TrapsAt i (fun s _ g p => (s.hdr g).regs < n ∧ firstLane i g p = (activeLanes g p).head?) 0x02 0 (fun _ _ _ _ => 0) ∧
    CompletesWhen i (fun s c g _ => n ≤ (s.hdr g).regs ∧
        ∃ e ∈ s.participants c.core (s.regroupKey g), e.1 ≠ c.gid ∧ arrivalOf e = none) fun s c g p t h =>
      OnlyGroup s t c.core c.gid ∧ OnlySplit g h c.split p ∧ h = { g with splits := h.splits } ∧
      ∃ q, h.split c.split = some q ∧ q.pc = p.pc ∧ q.sig = p.sig ∧ q.resume = some c.next ∧
        q.wait = .regroup n ((lanesOf i g p).map fun l => (l, (laneIn (s.hdr g) g i {} l).a % 2 ^ 16)) c.w0 c.w1) ∧
  ∀ (s : State) (core : Nat) (key : RegroupKey),
    let parts := s.participants core key
    let as := parts.filterMap arrivalOf
    let idle := parts ≠ [] ∧ (∀ h ∈ (s.core core).shuffles, (h.launch, h.node) ≠ key) ∧ ∀ x ∈ (s.core core).saved, x.set ≠ key
    let passes := fun (a0 a : Arrived) => a.p.pc = a0.p.pc ∧ a.n = a0.n ∧ a.g.splits.length = 1 ∧ a.p.stack = [] ∧
      a.p.fmt = a0.p.fmt ∧ a.g.rrb = 0 ∧ a.g.tok = [] ∧
      ∀ l, l < 32 → a.g.dead.getLsbD l = false → (∀ r, r < a.n → (a.g.thread l).isEmpty r = false) ∧
        ∀ w, s.wg (a.g.thread l).wg = some w → w.barCount = []
    ((∃ e ∈ parts, arrivalOf e = none) → s.checkRegroup core key = s) ∧
    (idle → (∀ e ∈ parts, arrivalOf e ≠ none) →
      ((∀ a0 ∈ as.head?, ∀ a ∈ as, passes a0 a) → ∀ a0 ∈ as.head?,
        let total := (as.map fun a => ((List.range 32).filter fun l => !a.g.dead.getLsbD l).length).sum
        s.checkRegroup core key = s.updCore core fun k => { k with shuffles := k.shuffles ++
          [{ launch := key.1, node := key.2, due := s.clk.clock + 64 + (total * (a0.n + 1) * 4 + 511) / 512 }] }) ∧
      ((∃ a0 ∈ as.head?, ∃ a ∈ as, ¬ passes a0 a) → s.checkRegroup core key = s.refuseRegroup core as))

/-- R196, R197, R198 and Table 8.7: the shuffle's order is by key, then by TID (beyond that, and for the keys of lanes that wait
in a join record, notes/assumptions/27.md names the model's choices, with those for KEYU, REC and NREC); the packing keeps that order, breaks a group
at 32 threads, or at a new key where groups remain for the rest, and forms no more groups than participants; and
REGROUP_SHUFFLE_END leaves each new group as the table says, in the slot of its participant. -/
def Obligations.ShufflePacksAndCarries : Prop :=
  (∀ (n : Nat) (as : List Arrived), (sortedThreads n as).Pairwise fun x y =>
    x.key < y.key ∨ (x.key = y.key ∧ x.t.tid.toNat ≤ y.t.tid.toNat)) ∧
  (∀ (np : Nat) (ts : List Sorted), ts.length ≤ 32 * np →
    let packed := packFrom np ts.length 0 0 none ts
    packed.map (·.2) = ts ∧ (∀ e ∈ packed, e.1 < np) ∧ (∀ e ∈ packed.head?, e.1 = 0) ∧
    ∀ (k : Nat) (x y : Nat × Sorted), packed[k]? = some x → packed[k + 1]? = some y →
      y.1 = if ((packed.take (k + 1)).filter fun e => e.1 == x.1).length = 32 ∨
        (y.2.key ≠ x.2.key ∧ x.1 + 1 + (ts.length - (k + 1) + 31) / 32 ≤ np) then x.1 + 1 else x.1) ∧
  ∀ (core launch : Nat) (s : State),
    ((∀ h ∈ (s.core core).shuffles, h.launch = launch → s.clk.clock < h.due) → exec (.regroupShuffleEnd core launch) s = .next s) ∧
    ∀ h, (s.core core).shuffles = [h] → h.launch = launch → h.due ≤ s.clk.clock → FMap.risingFrom 0 (s.core core).groups = true →
      let as := (s.participants core (h.launch, h.node)).filterMap arrivalOf
      let ts := sortedThreads s.fresh as
      let mine := fun (j : Nat) => ((packFrom as.length ts.length 0 0 none ts).filter fun e => e.1 == j).map (·.2)
      s.regroupSettled core as = true → (∀ a ∈ as, a.g.held = []) → ∃ t, exec (.regroupShuffleEnd core launch) s = .next t ∧ t.mem = s.mem ∧
        (t.core core).shuffles = [] ∧ (∀ k, (∀ a ∈ as, a.gid ≠ k) → t.group core k = s.group core k) ∧
        ∀ (j : Nat) (a : Arrived), as[j]? = some a →
          (mine j = [] → t.group core a.gid = none) ∧
          (mine j ≠ [] → ∃ y, t.group core a.gid = some y ∧
            y.launch = a.g.launch ∧ y.ctx = a.g.ctx ∧ y.wgpos = a.g.wgpos ∧ y.gang = 0 ∧ y.rrb = 0 ∧ y.records = [] ∧
            (∀ k, FMap.get 0 y.tok k = 0) ∧ (∀ k, FMap.get 0#32 y.h k = 0) ∧ (∀ a0 ∈ as.head?, y.ten = a0.g.ten) ∧
            (∀ k, y.flags.getLsbD k = true ↔ ∃ x ∈ as, x.g.flags.getLsbD k = true) ∧
            (∀ l, l < 32 → (y.dead.getLsbD l = false ↔ l < (mine j).length)) ∧
            (y.keyu = true ↔ ∀ x ∈ mine j, ∀ z ∈ mine j, x.key = z.key) ∧
            (∀ k, k ≠ 0 → y.split k = none) ∧ (∃ q, y.split 0 = some q ∧ some q.pc = some (a.p.resume.getD a.p.pc) ∧
              q.active = ~~~y.dead ∧ q.fmt = a.p.fmt ∧ q.sig = 0xFFFFFFFF ∧ q.stack = [] ∧ q.chain = none) ∧
            ∀ (l : Nat) (x : Sorted), (mine j)[l]? = some x → (y.thread l).tid = x.t.tid ∧ (y.thread l).wg = x.t.wg ∧
              (∀ r, (y.thread l).reg r = if r < a.n then x.t.reg r else 0) ∧ (∀ r, (y.thread l).isEmpty r = false) ∧
              (∀ k, k < 7 → (y.thread l).pred k = (decide (k < 4) && x.t.pred k)) ∧ ∀ k, (y.thread l).xreg k = 0)

/-! ## Traps, handlers and signatures (09_traps_preemption.md) -/

/-- R205, R207, R93, Table 9.2, R322, R54 and R384: a precise trap of a group outside handler mode whose header names a handler writes
h0 to h7, leaves h8 to h15, starts the handler split for the elected lane alone at kernel address + HANDLER with the faulting
split's FMT, sets the full bits of the registers that a replay's unfinished lanes left empty (R54) and the PASS of every split
to 0, and changes nothing else; with HANDLER 0 it kills the group, and so does a trap of any split, the handler's own too, of a
group in handler mode already, with bit 7 of DETAIL set. -/
def Obligations.TakingAnExceptionSavesItsRecord : Prop :=
  (∀ (s : State) (core gid k : Nat) (pc next : DWord) (t : Trap) (g : Group) (p : Split),
    s.group core gid = some g → g.split k = some p → k < 4 → t.elected < 32 → t.code < 256 → t.detail < 256 →
    let u := s.takeTrap core gid k pc next t
    let regs : List Word := [BitVec.ofNat 32 t.code ||| BitVec.ofNat 32 t.elected <<< 8 ||| BitVec.ofNat 32 k <<< 13 |||
        (if p.only = none then 0 else 0x8000) ||| BitVec.ofNat 32 t.detail <<< 16,
      pc.extractLsb' 0 32, pc.extractLsb' 32 32, t.lanes, t.info.extractLsb' 0 32, t.info.extractLsb' 32 32, t.w0, t.w1]
    (g.handler = none → (s.hdr g).handler ≠ 0 →
      OnlyGroup s { u with fly := s.fly } core gid ∧ ∃ h, u.group core gid = some h ∧
        h = { g with lanes := h.lanes, splits := h.splits, h := h.h, handler := h.handler } ∧
        (∀ l, h.thread l = { g.thread l with empty := (h.thread l).empty }) ∧
        (∀ l r, r < 128 → (h.thread l).isEmpty r =
          ((g.thread l).isEmpty r && !(p.replay.any fun y => y.dst.any fun d => d.1 == l && d.2.contains r))) ∧
        (∀ n, FMap.get 0#32 h.h n = if n < 8 then regs.getD n 0 else FMap.get 0#32 g.h n) ∧
        h.handler = some { split := k, lane := t.elected, pc := pc, next := next, only := p.only } ∧
        (∃ q, h.split 4 = some q ∧ q.pc = s.kernel g + BitVec.ofNat 64 (s.hdr g).handler ∧ q.active = (1#32) <<< t.elected ∧
          q.fmt = p.fmt ∧ q.stack = [] ∧ q.chain = none ∧ q.clause = none ∧ q.wait = .held) ∧
        h.split k = some { p with wait := .ready, resume := none, issued := false, replay := none, seen := none, pass := 0 } ∧
        (∀ n, n ≠ k → n ≠ 4 → h.split n = (g.split n).map fun q => { q with pass := 0 }) ∧
        u.fly.reqs = s.fly.reqs.map fun r => if r.core = core ∧ r.gid = gid ∧ (r.splits ||| r.aside).getLsbD k = true then
          { r with splits := r.splits ||| (1#5) <<< 4 } else r) ∧
    (g.handler = none → (s.hdr g).handler = 0 → u = s.killGroup core gid t.code t.detail pc (g.thread t.elected).tid)) ∧
  ∀ (s : State) (core gid k : Nat) (pc next : DWord) (t : Trap) (g : Group) (p : Split),
    s.group core gid = some g → g.split k = some p → g.handler ≠ none →
    s.takeTrap core gid k pc next t = s.killGroup core gid t.code (t.detail ||| 0x80) pc (g.thread t.elected).tid

/-- R227, R427 and Table 19.8: a kill takes the group out of its slot, cancels its operations in flight and posts one event
with its code; and an event takes the next slot of the owner's queue, with SEQ advancing, as a write that the device has still
to perform, is dropped and counted where the queue is full with those before it, and is nothing where posting is disabled. -/
def Obligations.KillsAndEventsArePosted : Prop :=
  (∀ (s : State) (core gid code detail : Nat) (pc : DWord) (tid : Word) (g : Group), s.group core gid = some g →
    let t := s.killGroup core gid code detail pc tid
    t.group core gid = none ∧ t.wgs = s.wgs ∧ t.xl = s.xl ∧ t.cust = s.cust ∧
    (∀ c, c ≠ core → t.core c = s.core c) ∧
    t.fly.reqs = s.fly.reqs.filter (fun r => !(r.core == core && r.gid == gid)) ∧
    t.fly.copies = s.fly.copies.filter (fun r => !(r.core == core && r.gid == gid)) ∧
    (∀ x ∈ t.fly.pmmas, x.core = core → ∀ m ∈ x.members, m.1 ≠ gid) ∧
    ∃ u : State, t = u.post 0x01 code detail g.ctx core pc tid ∧ u.mem = s.mem ∧ u.fq = s.fq ∧ u.clk = s.clk ∧
      u.fly.writes = s.fly.writes ∧ u.fresh = s.fresh ∧
      u.gen = { s.gen with orphans := u.gen.orphans, advance := u.gen.advance }) ∧
  ∀ (s : State) (kind code detail ctx core : Nat) (pc : DWord) (tid : Word),
    let t := s.post kind code detail ctx core pc tid
    let size := s.fq.size.toNat
    let enabled := s.fq.base ≠ 0 ∧ 16 ≤ size ∧ size ≤ 65536 ∧ s.fq.size &&& (s.fq.size - 1) = 0
    (¬ enabled → t = s) ∧
    let coming := (s.fly.writes.filter fun w => w.chan = .faultQueue).length
    (enabled → s.fq.head + BitVec.ofNat 32 coming - s.fq.tail = s.fq.size →
      t = { s with fq := { s.fq with drop := if s.fq.drop = 0xFFFFFFFF then s.fq.drop else s.fq.drop + 1 } }) ∧
    (enabled → s.fq.head + BitVec.ofNat 32 coming - s.fq.tail ≠ s.fq.size →
      ∃ w, t = { s with fq := { s.fq with seq := s.fq.seq + 1 }, fresh := s.fresh + 1,
                        fly := { s.fly with writes := s.fly.writes ++ [w] } } ∧
      w.chan = .faultQueue ∧ w.follow = .fqHead ∧ w.add = false ∧ w.bytes.length = 32 ∧
      w.pa = s.fq.base.toNat + 32 * ((s.fq.head.toNat + coming) % size) ∧
      let field := fun (o n v : Nat) => ∀ k, k < n → w.bytes[o + k]? = some (BitVec.ofNat 8 (v / 256 ^ k))
      field 0 1 kind ∧ field 1 1 code ∧ field 2 1 detail ∧ field 3 1 ctx ∧ field 4 2 core ∧ field 6 2 s.fq.seq ∧
      field 8 8 pc.toNat ∧ field 16 4 tid.toNat ∧ field 20 4 0 ∧ field 24 8 s.clk.time)

/-- R209, R210, R215: `trap` takes TRAP for every thread whose guard is true, and has no effect where there is none; `bpt`
takes BREAK; `tfence` waits for the SFU results pending at its issue, then takes ARITH where a flag that it has seen and its
enable are set: one set at its issue, by a result that it waited for, or by another split during its wait (R90); and `sigchk`
takes SIGNATURE on a difference, else starts SIG anew. That the lowest active lane alone is the fault lane of `bpt` and `sigchk`,
which check once per split, is the model's reading (notes/assumptions/20.md). -/
def Obligations.TrapInstructionsRaise : Prop :=
  (∀ f, let i := Instr.trap f
    CompletesWhen i (fun _ _ g p => lanesOf i g p = []) (fun s c g p t h => OnlyMoves s t c g h p ∧ h.flags = g.flags ∧ WentOn h c) ∧
    ∀ s c g p l, Admitted s i c g p → firstLane i g p = some l → exec i s = .next (s.takeTrap c.core c.gid c.split c.pc c.next
      { code := 0x11, detail := 0, elected := l, lanes := maskOf (lanesOf i g p), info := f.imm.setWidth 64, w0 := c.w0, w1 := c.w1 })) ∧
  (∀ f, TrapsAt (.bpt f) (fun _ _ _ _ => True) 0x12 0 fun _ _ _ _ => 0) ∧
  (∀ f, let i := Instr.tfence f
    let pending := fun (s : State) (c : Cur) => (s.fly.sfu.filter fun r => r.core == c.core && r.gid == c.gid).map (·.id)
    let seen := fun (g : Group) (p : Split) => match p.seen with
      | none => g.flags
      | some w => g.flags &&& (w ||| g.sync)
    CompletesWhen i (fun s c g p => (p.seen ≠ none ∨ pending s c = []) ∧ seen g p &&& g.ten &&& 0x7FF = 0)
      (fun s c g p t h => OnlyMoves s t c g h p ∧ h.flags = g.flags ∧ WentOn h c) ∧
    CompletesWhen i (fun s c _ p => p.seen = none ∧ pending s c ≠ []) (fun s c g p t h => OnlyGroup s t c.core c.gid ∧
      h = { g with splits := h.splits, sync := 0 } ∧
      (∀ n, n ≠ c.split → h.split n = (g.split n).map fun q => { q with seen := q.seen.map (· ||| g.sync) }) ∧
      h.split c.split = some { p with seen := some g.flags, wait := .results (pending s c), resume := none, pass := 0 }) ∧
    ∀ s c g p l, Admitted s i c g p → (p.seen ≠ none ∨ pending s c = []) → seen g p &&& g.ten &&& 0x7FF ≠ 0 →
      (activeLanes g p).head? = some l → exec i s = .next (s.takeTrap c.core c.gid c.split c.pc c.next
        { code := 0x10, detail := 0, elected := l, lanes := maskOf (activeLanes g p), info := (seen g p &&& g.ten).setWidth 64,
          w0 := c.w0, w1 := c.w1 })) ∧
  ∀ f, let i := Instr.sigchk f
    CompletesWhen i (fun s _ g p => (s.hdr g).sigMode = true → p.sig = f.imm) (fun s c g p t h => OnlyMoves s t c g h p ∧
      h.flags = g.flags ∧ WentOn h c ∧ ∃ q, h.split c.split = some q ∧ q.sig = 0xFFFFFFFF) ∧
    TrapsAt i (fun s _ g p => (s.hdr g).sigMode = true ∧ p.sig ≠ f.imm) 0x0D 0 fun _ _ _ p =>
      p.sig.setWidth 64 ||| f.imm.setWidth 64 <<< 32

/-- R211, R96, R39, R90, R384: `rte` ends handler mode: the lanes of the exit mask leave the faulting split, what the handler
wrote to FLAGS, TEN, RRB, SIG and FMT takes effect (a flag that an event sets in this cycle stays set), the other splits become
ready again, and the faulting split goes on behind its instruction (`.skip`), at it again for
its unfinished lanes, or before the header at h2:h1 (`.retry`); `.end` makes every live lane exit. -/
def Obligations.ReturnFromExceptionRestores : Prop :=
  let settled := fun (g : Group) (out : Mask) (k : Nat) =>
    (∀ n q, g.split n = some q → n < 4 → q.active &&& ~~~out ≠ 0) ∧ (∀ e ∈ g.splits, FMap.find g.splits e.1 = some e.2) ∧
    (∀ e ∈ g.splits, e.1 < 5) ∧ (∀ e ∈ g.records, e.2.members = 0 ∨ e.2.members ≠ e.2.arrived) ∧ k < 4
  let returns := fun (i : Instr) (where_ : Split → Handler → Group → Split → Prop) =>
    let out := fun (s : State) (g : Group) (hd : Handler) (q : Split) =>
      word (laneIn (s.hdr g) g i {} hd.lane).a &&& q.active &&& ~~~g.dead
    ∀ s c g p hd q, Admitted s i c g p → c.split = 4 → g.handler = some hd → g.split hd.split = some q →
      settled g (out s g hd q) hd.split → g.dead ||| out s g hd q ≠ 0xFFFFFFFF →
      ∃ t h, exec i s = .next t ∧ t.group c.core c.gid = some h ∧ OnlyGroup s t c.core c.gid ∧
        h.split 4 = none ∧ h.flags = (hd.flags.map (· ||| g.recent)).getD g.flags ∧ h.ten = hd.ten.getD g.ten ∧ h.rrb = hd.rrb.getD g.rrb ∧
        h.dead = g.dead ||| out s g hd q ∧ h.handler = none ∧
        h = { g with splits := h.splits, dead := h.dead, flags := h.flags, sync := h.sync, ten := h.ten, rrb := h.rrb, handler := h.handler } ∧
        (∃ now, s.freeAt c.core c.gid ≤ now ∧ ∀ n, n ≠ 4 → n ≠ hd.split →
          h.split n = (g.split n).map fun x => { x with
            active := x.active &&& ~~~out s g hd q, rt := Nat.max x.rt now,
            seen := if hd.flags = none then x.seen else x.seen.map fun _ => hd.flags.getD 0 }) ∧
        ∃ x, h.split hd.split = some x ∧ x.active = q.active &&& ~~~out s g hd q ∧ x.stack = q.stack ∧ x.chain = q.chain ∧
          x.sig = hd.sig.getD q.sig ∧ x.fmt = hd.fmt.getD q.fmt ∧ where_ x hd g q
  (∀ f, returns (.rteSkip f) fun x hd _ q => x.pc = hd.next ∧ x.only = none ∧
    (∀ k, q.clause = some k → x.clause = if k.left ≤ 1 then none else some { k with left := k.left - 1 }) ∧
    (q.clause = none → x.clause = none) ∧ (x.clause = none → x.wait = .held) ∧ (x.clause ≠ none → x.wait = .ready)) ∧
  (∀ f, returns (.rteRetry f) fun x hd g q =>
    let pc := (FMap.get 0#32 g.h 2) ++ (FMap.get 0#32 g.h 1)
    x.pc = pc ∧ (pc = hd.pc → x.only = hd.only ∧ x.clause = q.clause ∧ (q.clause ≠ none → x.wait = .ready)) ∧
      (pc ≠ hd.pc → x.only = none ∧ x.clause = none ∧ x.wait = .held)) ∧
  ∀ f s c g p, Admitted s (.rteEnd f) c g p → g.held = [] → (∀ x ∈ s.fly.pmmas, x.core = c.core → ∀ m ∈ x.members, m.1 ≠ c.gid) →
    ∃ t, exec (.rteEnd f) s = .next t ∧ t.group c.core c.gid = none ∧ t.mem = s.mem ∧ t.wgs = s.wgs ∧
      ∀ k, k ≠ c.gid → t.group c.core k = s.group c.core k

/-- R212: `lget` reads and `lset` writes a storage register of the lane that b names, for the elected lane; a dead lane
reads 0 with LD and takes no write; an empty target is waited for, or takes EMPTY where `lget` has its trap bit. -/
def Obligations.LaneRegistersOfTheHandler : Prop :=
  let lane := fun (s : State) (i : Instr) (g : Group) (l : Nat) => (laneIn (s.hdr g) g i {} l).b % 32
  let moves := fun (s t : State) (c : Cur) (g h : Group) (p : Split) =>
    OnlyGroup s t c.core c.gid ∧ OnlySplit g h c.split p ∧ h = { g with lanes := h.lanes, splits := h.splits, flags := h.flags, recent := h.recent, sync := h.sync } ∧ WentOn h c
  let only := fun (g h : Group) (l : Nat) (rs : List Nat) (w : Nat → Word) =>
    (∀ k r, (h.thread k).reg r = if k = l ∧ r ∈ rs then w r else (g.thread k).reg r) ∧
    ∀ k, h.thread k = { g.thread k with v := (h.thread k).v }
  (∀ f l, let i := Instr.lget f
    let regs := fun (s : State) (g : Group) => fieldRegs (s.hdr g) g.rrb (g.thread l) i.info.a i.view.a
    let dest := fun (s : State) (g : Group) => destRegs s i g l
    let m := fun (s : State) (g : Group) => lane s i g l
    CompletesWhen i (fun s _ g p => firstLane i g p = some l ∧ g.dead.getLsbD (m s g) = true) (fun s c g p t h =>
      moves s t c g h p ∧ only g h l (dest s g) (fun _ => 0) ∧ ∀ k, h.flag k = (g.flag k || k == 9)) ∧
    CompletesWhen i (fun s _ g p => firstLane i g p = some l ∧ g.dead.getLsbD (m s g) = false ∧
        ∀ r ∈ regs s g, (g.thread (m s g)).isEmpty r = false) (fun s c g p t h =>
      moves s t c g h p ∧ h.flags = g.flags ∧ (∀ k r, k ≠ l ∨ r ∉ dest s g → (h.thread k).reg r = (g.thread k).reg r) ∧
      (∀ k, h.thread k = { g.thread k with v := (h.thread k).v }) ∧
      ∀ n d r : Nat, (dest s g)[n]? = some d → (regs s g)[n]? = some r → (h.thread l).reg d = (g.thread (m s g)).reg r) ∧
    (f.a.trap = true → ∀ s c g p, Admitted s i c g p → firstLane i g p = some l → g.dead.getLsbD (m s g) = false →
      (∃ r ∈ regs s g, (g.thread (m s g)).isEmpty r = true) → exec i s = .next (s.takeTrap c.core c.gid c.split c.pc c.next
        { code := 0x04, elected := l, lanes := (1#32) <<< l, w0 := c.w0, w1 := c.w1 })) ∧
    (f.a.trap = false → CompletesWhen i (fun s _ g p => firstLane i g p = some l ∧ g.dead.getLsbD (m s g) = false ∧
        ∃ r ∈ regs s g, (g.thread (m s g)).isEmpty r = true) fun s c g p t h => OnlyMoves s t c g h p ∧ h.flags = g.flags ∧
      ∃ q, h.split c.split = some q ∧ q.pc = p.pc ∧
        q.wait = .full (((regs s g).filter fun r => (g.thread (m s g)).isEmpty r).map fun r => (m s g, r)))) ∧
  ∀ f l, let i := Instr.lset f
    let regs := fun (s : State) (g : Group) => fieldRegs (s.hdr g) g.rrb (g.thread l) i.info.d i.view.d
    let m := fun (s : State) (g : Group) => lane s i g l
    CompletesWhen i (fun s _ g p => firstLane i g p = some l ∧ g.dead.getLsbD (m s g) = true) (fun s c g p t h =>
      moves s t c g h p ∧ h = { g with splits := h.splits }) ∧
    CompletesWhen i (fun s _ g p => firstLane i g p = some l ∧ g.dead.getLsbD (m s g) = false ∧
        ∀ r ∈ regs s g, (g.thread (m s g)).isEmpty r = false) (fun s c g p t h =>
      moves s t c g h p ∧ h.flags = g.flags ∧ (∀ k r, k ≠ m s g ∨ r ∉ regs s g → (h.thread k).reg r = (g.thread k).reg r) ∧
      (∀ k, h.thread k = { g.thread k with v := (h.thread k).v }) ∧
      ∀ n r : Nat, (regs s g)[n]? = some r →
        (h.thread (m s g)).reg r = (dword (laneIn (s.hdr g) g i {} l).a).extractLsb' (32 * n) 32) ∧
    CompletesWhen i (fun s _ g p => firstLane i g p = some l ∧ g.dead.getLsbD (m s g) = false ∧
        ∃ r ∈ regs s g, (g.thread (m s g)).isEmpty r = true) fun s c g p t h => OnlyMoves s t c g h p ∧ h.flags = g.flags ∧
      ∃ q, h.split c.split = some q ∧ q.pc = p.pc ∧
        q.wait = .full (((regs s g).filter fun r => (g.thread (m s g)).isEmpty r).map fun r => (m s g, r))

/-! ## Memory (13_memory_instructions.md, 14_consistency.md) -/

/-- R294 to R303, R305, R307, R308, Tables 3.8 to 3.11 and 13.2: what each global access asks for: its bytes, order, scope
and extension by form, the address pair plus an offset of the I form or of b, the operands; and what its issue changes. Two clauses are the
model's readings: a small immediate of `redx` is taken unconverted (notes/assumptions/5.md), and under U with UCHK one access is
made, at the lowest lane's address (notes/assumptions/18.md). -/
def Obligations.GlobalAccessesIssueOneRequest : Prop :=
  let none_ := fun (_ : LaneIn) => (0 : Int)
  let disp := fun (f : FormI) (_ : LaneIn) => f.imm.toInt
  let zero := fun (_ : LaneIn) => (0 : Nat)
  let bytes := fun (z : Nat) => if z = 0 then 4 else if z = 1 then 8 else if z = 2 then 16 else if z < 6 then 1 else 2
  let ebytes := fun (z : Nat) => if z = 0 then 4 else if z = 1 then 8 else if z = 2 then 16 else 64
  let load := fun (z order scope : Nat) =>
    MemShape.mk .load .load (bytes z) order scope (if z < 4 then 0 else if z < 6 then 8 else 16) (z % 2 == 0) true
  let store := fun (z order scope : Nat) => MemShape.mk .store .store (bytes z) order scope 0 false false
  let atomic := fun (k : ReqKind) (a : Access) (f : FormE) (ret : Bool) =>
    MemShape.mk k a (ebytes f.esize) f.order f.escope 0 false ret
  let line := fun (k : ReqKind) (a : Access) (order scope : Nat) (ret : Bool) => MemShape.mk k a 64 order scope 0 false ret
  let data := fun (z : Nat) (x : LaneIn) => x.d % 2 ^ (8 * bytes z)
  (∀ f, IssuesRequest (.ld f) (load 0 0 5) none_ zero zero) ∧
  (∀ f, IssuesRequest (.ldI f) (load f.isize 0 f.iscope) (disp f) zero zero) ∧
  (∀ f, IssuesRequest (.ldAcq f) (load f.isize 1 f.iscope) (disp f) zero zero) ∧
  (∀ f, IssuesRequest (.st f) (store 0 0 5) none_ (data 0) zero) ∧
  (∀ f, IssuesRequest (.stI f) (store f.isize 0 f.iscope) (disp f) (data f.isize) zero) ∧
  (∀ f, IssuesRequest (.stRel f) (store f.isize 2 f.iscope) (disp f) (data f.isize) zero) ∧
  (∀ f, IssuesRequest (.ldx f) (atomic .load .load f true) (fun x => (word x.b).toInt) zero zero) ∧
  (∀ f, IssuesRequest (.atom f) (atomic (.atom f.c.f.toNat) .rmw f true) none_ (·.b) (·.c)) ∧
  (∀ f, IssuesRequest (.cas f) (atomic .cas .rmw f true) none_ (·.b) (·.c)) ∧
  (∀ f, IssuesRequest (.red f) (atomic (.red f.c.f.toNat) .red f false) none_ (·.b) (·.c)) ∧
  (∀ f, IssuesRequest (.redx f) (line .redx .redx f.order f.escope false) none_ (·.b) fun _ => f.esize) ∧
  (∀ f, IssuesRequest (.rdx f) (line .rdx .lineRead f.order f.escope true) none_ zero zero) ∧
  (∀ f, IssuesRequest (.clrx f) (line .clrx .clrx 0 5 false) none_ zero zero) ∧
  (∀ f, IssuesRequest (.clrxE f) (line .clrx .clrx f.order f.escope false) none_ zero zero)

/-- R202, R294, R403, R203: an `ld` or `st` with a lane whose address is no multiple of its size takes MISALIGN for those
lanes, with INFO the elected lane's address, and changes nothing else; one with a lane that translation faults takes the
trap of the least code. Lanes whose page is absent (R203, PAGE) or clean at a write (the light fault of R406) park with their
pages, an absent page being posted in the fault ring or waiting for room there (R407), while one request is issued for the other
lanes. Under U with UCHK the lowest lane alone accesses (the model's reading, notes/assumptions/18.md). -/
def Obligations.MemoryFaultsAreTakenByStage : Prop :=
  ∀ (i : Instr) (n : Nat) (a : Access) (off : LaneIn → Int),
    ((∃ f, i = .ld f ∧ n = 4 ∧ a = .load ∧ off = fun _ => 0) ∨ (∃ f, i = .st f ∧ n = 4 ∧ a = .store ∧ off = fun _ => 0) ∨
      (∃ f, i = .ldI f ∧ n = isizeBytes f.isize ∧ a = .load ∧ off = fun _ => f.imm.toInt) ∨
      (∃ f, i = .stI f ∧ n = isizeBytes f.isize ∧ a = .store ∧ off = fun _ => f.imm.toInt)) →
    ∀ s c g p, Admitted s i c g p →
      let al := accessLanes i g p
      let va := addressOf s i g off
      let crooked := al.filter fun l => (va l).toNat % n != 0
      let tr := fun l => (s.translate c.core g.ctx (va l) a).1
      let trapped := fun (code l : Nat) => ∃ d, tr l = .trap code d
      let undone := fun l => tr l = .page ∨ tr l = .light
      let good := fun l => ∃ pa e, tr l = .ok pa e
      (∀ e, crooked.head? = some e → exec i s = .next (s.takeTrap c.core c.gid c.split c.pc c.next
        { code := 0x05, elected := e, lanes := maskOf crooked, info := va e, w0 := c.w0, w1 := c.w1 })) ∧
      (∀ code d e, crooked = [] → e ∈ al → tr e = .trap code d → (∀ l ∈ al, ∀ k, trapped k l → code ≤ k) →
        (∀ l ∈ al, trapped code l → e ≤ l) →
        ∃ ls : List Nat, (∀ l, l ∈ ls ↔ l ∈ al ∧ trapped code l) ∧ exec i s = .next (s.takeTrap c.core c.gid c.split c.pc c.next
          { code := code, detail := d, elected := e, lanes := maskOf ls, info := va e, w0 := c.w0, w1 := c.w1 })) ∧
      (crooked = [] → s.slotsFree c.core al.length = true → (∃ l ∈ al, undone l) → (∀ l ∈ al, good l ∨ undone l) →
        ((∃ l ∈ al, tr l = .page) → s.xl.pfBase ≠ 0 ∧ ringSizeOk s.xl.pfSize 16 4096 = true) →
        ∃ t h q park, exec i s = .next t ∧ t.group c.core c.gid = some h ∧ t.mem = s.mem ∧ h.split c.split = some q ∧
          q.pc = p.pc ∧ q.issued = true ∧ (∃ y, q.replay = some y ∧ y.rrb = g.rrb) ∧ q.wait = .parked park.id ∧ park ∈ t.fly.parks ∧ park.ctx = g.ctx ∧ KeepsRegisters g h ∧
          (∀ m, q.only = some m → ∀ l, l < 32 → (m.getLsbD l = true ↔
            if uniform i = true then l ∈ lanesOf i g p else l ∈ al ∧ undone l)) ∧ q.only ≠ none ∧
          (∀ l ∈ al, undone l → ∃ x ∈ park.pages, x.1 = va l &&& ~~~4095#64 ∧ (x.2.2 = true ↔ tr l = .light)) ∧
          (∀ l ∈ al, tr l = .page → (∃ x ∈ t.xl.faults, x.ctx = g.ctx ∧ x.va = va l &&& ~~~4095#64) ∨
            ∃ x ∈ t.xl.unposted, x.ctx = g.ctx ∧ x.va = va l &&& ~~~4095#64) ∧
          ((∀ l ∈ al, undone l) → t.fly.reqs = s.fly.reqs) ∧
          ((∃ l ∈ al, good l) → ∃ r, t.fly.reqs = s.fly.reqs ++ [r] ∧ r.core = c.core ∧ r.gid = c.gid ∧ r.split = c.split ∧
            r.ctx = g.ctx ∧ r.kind = (if a = .load then .load else .store) ∧
            (∀ l, l ∈ r.accs.map (·.lane) ↔ l ∈ al ∧ good l) ∧
            ∀ y ∈ r.accs, y.va = va y.lane ∧ y.n = n ∧ y.performed = false ∧ ∃ e, tr y.lane = .ok y.pa e))

/-- R21, R22, R232, R233, R271, R275, R299, R300, R302, R305: the lanes of a scratch instruction access the window in ascending
order, each in its thread's cycle. A lane whose cycle is that of the issue is served at once: a load's request holds the
little-endian value of its bytes, a store writes them, an atomic returns the old word and writes the new; no byte of memory, and
no byte of a pan outside those stored, changes. On a compute pan that is not in state 0 it returns ones, writes nothing and
sets PR; a byte that would change the ATTR of such a pan in the configuration block is kept and sets PR (R271). Of several
lanes each sees what the lower ones have written, and a lane whose cycle is to come changes nothing yet. Offsets outside the window
take SCRATCH, crooked ones MISALIGN. The one access of the lowest lane under U with UCHK is the model's reading
(notes/assumptions/18.md). -/
def Obligations.ScratchAccessesAreMadeInTheirCycles : Prop :=
  let disp := fun (f : FormI) (_ : LaneIn) => f.imm.toInt
  let none_ := fun (_ : LaneIn) => (0 : Int)
  let place := fun (w : Wg) (h : Header) (off : Int) (n : Nat) =>
    let o := off.toNat
    if 0 ≤ off ∧ o + n ≤ h.scratch then (w.storage[o / 16384]?).map fun pan => (16384 * pan + o % 16384, (none : Option Nat))
    else if 0x80000 ≤ off ∧ o + n ≤ 0x80000 + 16384 * h.cpans then
      (w.compute[(o - 0x80000) / 16384]?).map fun pan => (16384 * pan + (o - 0x80000) % 16384, some ((o - 0x80000) / 16384))
    else none
  let state := fun (s : State) (w : Wg) (ix : Option Nat) =>
    ((ix.bind fun k => w.compute[k]?).map fun pan => (s.core w.core).pslu.toNat / 4 ^ pan % 4).getD 0
  let moves := fun (s t : State) (c : Cur) (g h : Group) (p : Split) (i : Instr) (returns : Bool) =>
    t.mem = s.mem ∧ RestOfGroup g h ∧ OnlySplit g h c.split p ∧ WentOn h c ∧ KeepsRegisters g h ∧
    EmptiesDestinations s i g h p returns ∧ (∀ k, k ≠ 7 → k ≠ 8 → h.flag k = g.flag k) ∧ t.wgs = s.wgs ∧ t.gen = s.gen ∧
    t.xl = s.xl ∧ t.coh = s.coh ∧ t.fq = s.fq ∧ t.cust = s.cust ∧
    (∀ k, k ≠ c.core → t.core k = s.core k) ∧ (∀ k, k ≠ c.gid → t.group c.core k = s.group c.core k)
  let at_ := fun (i : Instr) (off : LaneIn → Int) (s : State) (g : Group) (l : Nat) =>
    let x := laneIn (s.hdr g) g i {} l
    (x.a : Int) + off x
  let pan := fun (s : State) (core key : Nat) => FMap.get 0#8 (s.core core).pans key
  let old := fun (s : State) (core key n : Nat) => (((List.range n).map fun k => (pan s core (key + k)).toNat * 256 ^ k).sum)
  let ones := fun (n : Nat) => 2 ^ (8 * Nat.max n 4) - 1
  let kept := fun (s : State) (w : Wg) (h : Header) (o n v : Nat) (k : Nat) => ∃ i, i < 28 ∧ k < n ∧ 64 ≤ h.scratch ∧
    o + k = h.scratch - 64 + i ∧ state s w (some i) ≠ 0 ∧ BitVec.ofNat 8 (v / 256 ^ k) ≠ (FMap.find w.attr i).getD 0
  let access := fun (i : Instr) (n order : Nat) (off : LaneIn → Int) (op1 op2 : LaneIn → Nat) (kind : ReqKind) (returns : Bool)
      (new : Nat → LaneIn → Nat) =>
    ∀ s c g p, Admitted s i c g p → accessLanes i g p ≠ [] →
      let al := accessLanes i g p
      let o := at_ i off s g
      let x := fun l => laneIn (s.hdr g) g i {} l
      let spot := fun l => (s.wg (g.thread l).wg).bind fun w => place w (s.hdr g) (o l) n
      let crooked := al.filter fun l => decide (o l % n ≠ 0)
      let outside := al.filter fun l => decide (o l % n = 0) && (spot l).isNone
      let takes := fun (code e : Nat) (ls : List Nat) => exec i s = .next (s.takeTrap c.core c.gid c.split c.pc c.next
        { code := code, elected := e, lanes := maskOf ls, info := (BitVec.ofInt 32 (o e)).setWidth 64, w0 := c.w0, w1 := c.w1 })
      (∀ e, crooked.head? = some e → takes 0x05 e crooked) ∧
      (∀ e, crooked = [] → outside.head? = some e → takes 0x06 e outside) ∧
      (crooked = [] → outside = [] → s.slotsFree c.core al.length = true →
        s.earlier c (fun q => q.acquires || decide (2 ≤ order)) = [] →
        (∃ (u : State) (r : Req), exec i s = .next ((u.scratchStep r).advance c) ∧ u = { s with cores := u.cores, fresh := s.fresh + 1 } ∧
          (∀ k, (u.core k).pans = (s.core k).pans ∧ (u.core k).pslu = (s.core k).pslu) ∧ r.core = c.core ∧ r.gid = c.gid ∧
          r.kind = kind ∧ r.scratch = true ∧ (r.dst = [] ↔ returns = false) ∧ r.accs.map (·.lane) = al ∧
          ∀ (k : Nat) (y : Acc), r.accs[k]? = some y → y.va = BitVec.ofInt 64 (o y.lane) ∧ y.n = n ∧ y.performed = false ∧
            y.wg = (g.thread y.lane).wg ∧ y.op1 = op1 (x y.lane) ∧ y.op2 = op2 (x y.lane) ∧
            y.due = s.freeAt c.core c.gid + k) ∧
        ∀ l w key ix, al = [l] → s.wg (g.thread l).wg = some w → w.core = c.core → place w (s.hdr g) (o l) n = some (key, ix) →
          (s.track c.core (c.gid / 8)).busyUntil ≤ s.clk.clock → (∀ y ∈ s.fly.scratch, y.id < s.fresh) →
          (s.core c.core).badRows = [] →
          let refused := decide (state s w ix ≠ 0)
          let before := old s c.core key n
          let keep := kept s w (s.hdr g) (o l).toNat n (new before (x l))
          ∃ t h, exec i s = .next t ∧ t.group c.core c.gid = some h ∧ moves s t c g h p i returns ∧
            (∀ a, pan t c.core a = if kind ≠ .load ∧ refused = false ∧ key ≤ a ∧ a < key + n ∧ ¬ keep (a - key)
              then BitVec.ofNat 8 (new before (x l) / 256 ^ (a - key)) else pan s c.core a) ∧
            (h.flag 7 = true ↔ g.flag 7 = true ∨ (returns = false ∧ (refused = true ∨ ∃ k, keep k))) ∧
            (returns = false → t.fly = s.fly) ∧
            (returns = true → ∃ r y, t.fly = { s.fly with reqs := s.fly.reqs ++ [r] } ∧ r.accs = [y] ∧ r.scratch = true ∧
              y.lane = l ∧ y.performed = true ∧ y.poison = false ∧ y.result = (if refused = true then ones n else before) ∧
              (y.pr = true ↔ refused = true ∨ (kind ≠ .load ∧ ∃ k, keep k))))
  let zero := fun (_ : LaneIn) => (0 : Nat)
  let data := fun (n : Nat) (x : LaneIn) => x.d % 2 ^ (8 * n)
  (∀ f, access (.lds f) 4 0 none_ zero zero .load true fun v _ => v) ∧
  (∀ f, access (.ldsI f) (isizeBytes f.isize) 0 (disp f) zero zero .load true fun v _ => v) ∧
  (∀ f, access (.sts f) 4 0 none_ (data 4) zero .store false fun _ x => x.d) ∧
  (∀ f, access (.stsI f) (isizeBytes f.isize) 0 (disp f) (data (isizeBytes f.isize)) zero .store false fun _ x => x.d) ∧
  (∀ f, access (.atoms f) (esizeBytes f.esize) f.order none_ (·.b) (·.c) (.atom f.c.f.toNat) true
    fun v x => atomOp f.c.f.toNat (8 * esizeBytes f.esize) v x.b) ∧
  (∀ f, access (.cass f) (esizeBytes f.esize) f.order none_ (·.b) (·.c) .cas true fun v x => if v = x.b then x.c else v) ∧
  (∀ (s : State) (r : Req) (g : Group), s.group r.core r.gid = some g → r.accs ≠ [] →
    (∀ a ∈ r.accs, a.performed = false ∧ s.clk.clock < a.due) →
    let t := s.scratchStep r
    (∀ k a, pan t k a = pan s k a) ∧ t.fly.reqs = s.fly.reqs ∧ r ∈ t.fly.scratch) ∧
  ∀ (s : State) (r : Req) (g : Group) (n : Nat) (w : Acc → Wg) (key : Acc → Nat) (ix : Acc → Option Nat),
    s.group r.core r.gid = some g → r.accs ≠ [] → n ∈ [1, 2, 4, 8, 16] → (s.core r.core).badRows = [] →
    (∀ a ∈ r.accs, a.performed = false ∧ a.due ≤ s.clk.clock ∧ a.n = n ∧ g.dead.getLsbD a.lane = false ∧
      s.wg a.wg = some (w a) ∧ (w a).core = r.core ∧ a.va.toNat % n = 0 ∧
      place (w a) (s.hdr g) a.va.toNat n = some (key a, ix a) ∧ a.op1 < 2 ^ (8 * n) ∧ a.op2 < 2 ^ (8 * n) ∧
      (a.va.toNat + n + 64 ≤ (s.hdr g).scratch ∨ (s.hdr g).scratch ≤ a.va.toNat)) →
    let t := s.scratchStep r
    let refused := fun (a : Acc) => decide (state s (w a) (ix a) ≠ 0)
    let answers := fun (result : Nat → Acc → Nat) => ∃ as, t.fly.reqs = s.fly.reqs ++ [{ r with accs := as }] ∧
      as.length = r.accs.length ∧ ∀ (j : Nat) (a : Acc), r.accs[j]? = some a → ∃ b, as[j]? = some b ∧
        b = { a with performed := true, result := result j a, pr := refused a, poison := false }
    (r.kind = .load → r.dst ≠ [] → (∀ a, pan t r.core a = pan s r.core a) ∧
      answers fun _ a => if refused a = true then ones n else old s r.core (key a) n) ∧
    (r.kind = .store → r.dst = [] → t.fly.reqs = s.fly.reqs ∧
      (∀ a, pan t r.core a = ((r.accs.filter fun y => !refused y && decide (key y ≤ a) && decide (a < key y + n)).getLast?.map
        fun y => BitVec.ofNat 8 (y.op1 / 256 ^ (a - key y))).getD (pan s r.core a)) ∧
      ∃ h, t.group r.core r.gid = some h ∧ ∀ k, h.flag k = (g.flag k || (k == 7 && r.accs.any refused))) ∧
    ((r.kind = .cas ∨ ∃ op, r.kind = .atom op) → r.dst ≠ [] →
      let after := fun (as : List Acc) (k : Nat) =>
        as.foldl (fun v b => if refused b = false ∧ key b = k then wordStep r.kind n v b else v) (old s r.core k n)
      answers (fun j a => if refused a = true then ones n else after (r.accs.take j) (key a)) ∧
      (∀ a ∈ r.accs, refused a = false → ∀ k, k < n → pan t r.core (key a + k) = BitVec.ofNat 8 (after r.accs (key a) / 256 ^ k)) ∧
      ∀ a, (∀ y ∈ r.accs, refused y = false → a < key y ∨ key y + n ≤ a) → pan t r.core a = pan s r.core a)

/-- R302, R303 and Table 3.11: the operations of the atomics on words of w bits, and the lanes of one word in ascending
order, each receiving the value before its own operation. R307, R308: `redx` on a reduction line adds an exact value and
`rdx` rounds the exact sum once, whatever the order of the additions; NaN and infinities are kept in its flags, and so is an
addition that leaves the 496-bit range, after which `rdx` gives the canonical NaN. -/
def Obligations.AtomicsAndReductionLines : Prop :=
  (∀ (w op : Nat) (a b : BitVec w), 0 < w → op < 12 → atomOp op w a.toNat b.toNat =
    (if op = 0 then a + b else if op = 1 then a - b else if op = 2 then (if a.toInt < b.toInt then a else b)
     else if op = 3 then (if b.toInt < a.toInt then a else b) else if op = 4 then (if a.toNat < b.toNat then a else b)
     else if op = 5 then (if b.toNat < a.toNat then a else b) else if op = 6 then a &&& b else if op = 7 then a ||| b
     else if op = 8 then a ^^^ b else if op = 9 then b else if op = 10 then (if b.toNat ≤ a.toNat then 0 else a + 1)
     else if a = 0 ∨ b.toNat < a.toNat then b else a - 1).toNat) ∧
  (∀ (k : ReqKind) (n old : Nat) (as : List Acc),
    let r := wordSteps k n old as
    r.1.map (·.1) = as.map (·.lane) ∧ r.2 = as.foldl (fun v a => wordStep k n v a) old ∧
    ∀ (j : Nat) (e : Nat × Nat), r.1[j]? = some e → e.2 = (as.take j).foldl (fun v a => wordStep k n v a) old) ∧
  (∀ (F : Fmt) (line v : Nat), F = fp32 ∨ F = bf16 ∨ F = fp16 → line < 2 ^ 512 → v < 2 ^ (1 + F.eb + F.mb) → (F.value v).IsFinite →
    let acc := fun (n : Nat) => (BitVec.ofNat 496 n).toInt
    let next := redxLine F line v
    ∀ x : Int, (x : Rat) = (F.value v).rat * ((2 ^ 160 : Nat) : Rat) →
      let out := acc line + x < -2 ^ 495 ∨ 2 ^ 495 ≤ acc line + x
      next < 2 ^ 512 ∧ (next.testBit 499 = true ↔ line.testBit 499 = true ∨ out) ∧ (out → rdxValue next = 0x7FC00000) ∧
      (¬ out → acc next = acc line + x) ∧ ∀ k, 496 ≤ k → k ≠ 499 → next.testBit k = line.testBit k) ∧
  (∀ line : Nat, line.testBit 499 = true → rdxValue line = 0x7FC00000) ∧
  ∀ (F : Fmt) (vs : List Nat), F = fp32 ∨ F = bf16 ∨ F = fp16 → (∀ v ∈ vs, v < 2 ^ (1 + F.eb + F.mb)) → vs.length < 2 ^ 200 →
    let line := vs.foldl (redxLine F) 0
    let sum := (vs.map fun v => (F.value v).rat).sum
    let has := fun (y : FV) => ∃ v ∈ vs, F.value v = y
    ((has (.nan true) ∨ has (.nan false) ∨ (has (.inf true) ∧ has (.inf false))) → rdxValue line = 0x7FC00000) ∧
    (¬ has (.nan true) → ¬ has (.nan false) → ∀ s, has (.inf s) → ¬ has (.inf (!s)) →
      rdxValue line = if s = true then 0xFF800000 else 0x7F800000) ∧
    ((∀ v ∈ vs, (F.value v).IsFinite) → (sum = 0 → rdxValue line = 0) ∧
      ∀ y : FV, y.IsFinite → y.rat = sum → sum ≠ 0 → rdxValue line = (rnd (.mode 0) fp32 false y).1)

/-- R52, R54, R153, R203, R303, R361, R367: the events that finish accesses. A load's arrival writes every destination of a
live lane, extended as its size says, and sets its full bits, for all lanes together or for one accessing lane before the
others (notes/assumptions/31.md); a store's lane, or an atomic's word, is performed at its home
in one step that writes its bytes alone; an SFU result is written when it is due, with its flags; a served park replays its
split. Where an event's own condition does not hold yet, nothing changes. -/
def Obligations.RequestsArePerformed : Prop :=
  (∀ (s : State) (id : Nat) (r : Req), s.req id = some r →
    (s.canArrive r = false → exec (.longLatencyArrival ⟨id, none⟩) s = .next s) ∧
    (s.canArrive r = true → (∀ y ∈ r.accs, if y.performed = true then y.poison = false else s.badLine (y.pa / 64) = false) →
      (r.dst.map (·.1)).Nodup → ∀ g, s.group r.core r.gid = some g →
      ∃ t h, exec (.longLatencyArrival ⟨id, none⟩) s = .next t ∧ t.group r.core r.gid = some h ∧ t.mem = s.mem ∧ t.wgs = s.wgs ∧
        t.fly = { s.fly with reqs := s.fly.reqs.filter fun q => q.id ≠ r.id, writes := t.fly.writes } ∧ h.splits = g.splits ∧
        h.dead = g.dead ∧
        h.flags = (if r.dst.any fun d => !g.dead.getLsbD d.1 && (r.accs.find? fun y => y.lane = d.2.2).any (·.pr) then g.flags ||| 0x80
          else g.flags) ∧
        (∀ l, l ∉ r.dst.map (·.1) → h.thread l = g.thread l) ∧
        ∀ l rs a y, (l, rs, a) ∈ r.dst → g.dead.getLsbD l = false → r.accs.find? (fun y => y.lane = a) = some y → rs.Nodup →
          let v := if y.performed = true then y.result else if r.kind = .rdx then rdxValue (s.readN y.pa y.n) else s.readN y.pa y.n
          let e := if r.ext = 0 then v else if r.signed = true then ((BitVec.ofNat r.ext v).signExtend 32).toNat else v % 2 ^ r.ext
          (∀ (k d : Nat), rs[k]? = some d → (h.thread l).reg d = word (e / 2 ^ (32 * k))) ∧
          (∀ d, d ∉ rs → (h.thread l).reg d = (g.thread l).reg d) ∧
          ∀ d, d < 128 → (h.thread l).isEmpty d = ((g.thread l).isEmpty d && !decide (d ∈ rs)))) ∧
  (∀ (s : State) (id l : Nat) (r : Req) (y : Acc), s.req id = some r → r.accs.find? (fun y => y.lane = l) = some y →
    (s.laneArrives r y = false → exec (.longLatencyArrival ⟨id, some l⟩) s = .next s) ∧
    (s.laneArrives r y = true → (if y.performed = true then y.poison = false else s.badLine (y.pa / 64) = false) →
      (r.dst.map (·.1)).Nodup → ∀ g, s.group r.core r.gid = some g →
      ∃ t h, exec (.longLatencyArrival ⟨id, some l⟩) s = .next t ∧ t.group r.core r.gid = some h ∧ t.mem = s.mem ∧ t.wgs = s.wgs ∧
        h.splits = g.splits ∧ h.dead = g.dead ∧
        (∀ q ∈ t.fly.reqs, q.id = id → q.dst = r.dst.filter (fun d => d.2.2 ≠ l) ∧ q.accs.map (·.lane) = r.accs.map (·.lane) ∧
          ∀ x ∈ q.accs, x ∈ r.accs ∨ (x.lane = l ∧ x.performed = true)) ∧
        t.fly.reqs.filter (fun q => q.id ≠ id) = s.fly.reqs.filter (fun q => q.id ≠ id) ∧
        (∀ m, (∀ d ∈ r.dst, d.2.2 = l → d.1 ≠ m) → h.thread m = g.thread m) ∧
        ∀ m rs, (m, rs, l) ∈ r.dst → g.dead.getLsbD m = false → rs.Nodup →
          let v := if y.performed = true then y.result else if r.kind = .rdx then rdxValue (s.readN y.pa y.n) else s.readN y.pa y.n
          let e := if r.ext = 0 then v else if r.signed = true then ((BitVec.ofNat r.ext v).signExtend 32).toNat else v % 2 ^ r.ext
          (∀ (k d : Nat), rs[k]? = some d → (h.thread m).reg d = word (e / 2 ^ (32 * k))) ∧
          (∀ d, d ∉ rs → (h.thread m).reg d = (g.thread m).reg d) ∧
          ∀ d, d < 128 → (h.thread m).isEmpty d = ((g.thread m).isEmpty d && !decide (d ∈ rs)))) ∧
  (∀ (s : State) (id lane : Nat) (r : Req) (a : Acc), s.req id = some r → r.accs.find? (fun y => y.lane = lane) = some a →
    s.waitsFrame id lane = false →
    (s.mayPerform r a = false → exec (.writeAtHome id lane) s = .next s ∧ exec (.atomicAtHome id lane) s = .next s) ∧
    ((s.needsCopy (s.gen.genAt (s.unitsOf r a)) (a.pa / 4096) a.sx = true → s.recallable (a.pa / 4096) = true) →
     (s.mayPerform r a = true → a.performed = false → s.lostStack a.pa = false → r.kind = .store →
      ∀ u, (if r.servedHome a = true ∨ s.oldLine r a = true then s.cowAt (s.gen.genAt (s.unitsOf r a)) (a.pa / 4096) a.sx
        else some s) = some u → (a.bytes.map (·.1)).Nodup → ∃ t, exec (.writeAtHome id lane) s = .next t ∧
        (∀ k b, (k, b) ∈ a.bytes → t.byte (a.pa + k) = b) ∧ (∀ x, (∀ e ∈ a.bytes, x ≠ a.pa + e.1) → t.byte x = u.byte x) ∧
        ∀ k g, t.group k g = s.group k g) ∧
    (s.mayPerform r a = true → a.performed = false → s.lostStack a.pa = false → r.kind.atHome = true →
      ∀ u, s.cowAt (s.gen.genAt (s.unitsOf r a)) (a.pa / 4096) a.sx = some u → u.badLine (a.pa / 64) = false →
      ∃ t, exec (.atomicAtHome id lane) s = .next t ∧
        (let new := (r.accs.filter fun y => !y.performed && y.pa == a.pa).foldl (fun v y => wordStep r.kind a.n v y) (u.readN a.pa a.n)
         ∀ k, k < a.n → t.byte (a.pa + k) = BitVec.ofNat 8 (new / 256 ^ k)) ∧
        (∀ x, x < a.pa ∨ a.pa + a.n ≤ x → t.byte x = u.byte x) ∧ ∀ k g, t.group k g = s.group k g))) ∧
  (∀ (s : State) (id lane : Nat), s.waitsFrame id lane = false → exec (.copyWaitResume id lane) s = .next s) ∧
  (∀ (s : State) (id lane : Nat) (r : Req) (a : Acc), s.req id = some r → r.accs.find? (fun y => y.lane = lane) = some a →
    s.waitsFrame id lane = true →
    let u := s.cowAt (s.gen.genAt (s.unitsOf r a)) (a.pa / 4096) a.sx
    (u = none → exec (.copyWaitResume id lane) s = .next s) ∧
    (u ≠ none → exec (.copyWaitResume id lane) s = .next (s.perform r a r.kind.atHome))) ∧
  (∀ (s : State) (id : Nat) (r : SfuRes), s.fly.sfu.find? (fun x => x.id = id) = some r →
    (s.clk.clock < r.due → exec (.sfuResultWrite id) s = .next s) ∧
    (r.due ≤ s.clk.clock → (s.die (r.core / 256)).fenced = false → ∀ g, s.group r.core r.gid = some g → ∃ t h,
      exec (.sfuResultWrite id) s = .next t ∧ t.group r.core r.gid = some h ∧ t.mem = s.mem ∧
      t.fly = { s.fly with sfu := s.fly.sfu.filter fun x => x.id ≠ id } ∧
      (∀ n, g.dead.getLsbD r.lane = false → h.split n = (g.split n).map fun q => match q.wait with
        | .results ids => if ids.contains id = true then { q with seen := q.seen.map (· ||| r.flags) } else q
        | _ => q) ∧
      (∀ l, l ≠ r.lane → h.thread l = g.thread l) ∧ (g.dead.getLsbD r.lane = true → h = g) ∧
      (g.dead.getLsbD r.lane = false → h.flags = g.flags ||| r.flags ∧ (h.thread r.lane).reg r.reg = r.value ∧
        (∀ d, d ≠ r.reg → (h.thread r.lane).reg d = (g.thread r.lane).reg d) ∧
        ∀ d, d < 128 → (h.thread r.lane).isEmpty d = ((g.thread r.lane).isEmpty d && d != r.reg)))) ∧
  ∀ (s : State) (id : Nat) (k : Park), s.fly.parks.find? (fun x => x.id = id) = some k →
    (k.due = false → exec (.parkedReplay id) s = .next s) ∧
    ∀ core gid n kind m g q, k.due = true → k.who = .split core gid n kind m → s.group core gid = some g → g.handler = none →
      g.split n = some q → ∃ t h, exec (.parkedReplay id) s = .next t ∧ t.group core gid = some h ∧ t.mem = s.mem ∧
        t.fly = { s.fly with parks := s.fly.parks.filter fun x => x.id ≠ id } ∧ h.lanes = g.lanes ∧
        h.split n = some { q with wait := (if q.clause = none then .held else .ready), rt := s.clk.clock } ∧
        ∀ x, x ≠ n → h.split x = g.split x

/-- R309, R310, R311, R314, R317, Table 13.4: `bcopy` reads its descriptor whole, counts the copy on its token and hands it
to the engine; `bwait` waits for a token to read 0, or takes the fault held for it; `fence` waits for the accesses its ORDER
names; `pref` changes no register, no memory and no flag but UV, and waits where a walk that it makes waits. Four clauses are
the model's readings or choices: DSTAGE among the limits (notes/assumptions/19.md), the lowest active lane alone as fault lane
and `bwait` without a lane (notes/assumptions/20.md), a fence of any scope that waits for all, and an acquire that waits for what
releases performed early order (notes/assumptions/34.md). -/
def Obligations.CopiesFencesAndPrefetches : Prop :=
  (∀ bs : List Byte, bs.length = 64 →
    let d := copyDesc bs
    let field := fun (o n : Nat) => (((List.range n).map fun k => (bs.getD (o + k) 0).toNat * 256 ^ k).sum)
    let stride := fun (o : Nat) => (BitVec.ofNat 32 (field o 4)).toInt
    d.dir = field 0 1 ∧ d.esz = field 1 1 ∧ d.tr = field 2 1 ∧ d.x = field 4 4 ∧ d.y = field 8 2 ∧ d.z = field 10 2 ∧
    d.src = field 0x10 8 ∧ d.srow = stride 0x18 ∧ d.splane = stride 0x1C ∧ d.dst = field 0x20 8 ∧ d.drow = stride 0x28 ∧
    d.dplane = stride 0x2C ∧ d.dstage = field 0x30 1 ∧
    ∀ stages, (d.legal stages = true ↔ d.dir ≤ 2 ∧ d.esz ≤ 3 ∧ d.tr ≤ 2 ∧ (d.tr ≠ 0 → d.esz = 0) ∧
      (d.tr = 2 → d.x % 2 = 0 ∧ d.y % 2 = 0) ∧ 1 ≤ d.x ∧ d.x ≤ 2 ^ 24 ∧ 1 ≤ d.y ∧ 1 ≤ d.z ∧ (d.dir ≠ 0 → d.src < 2 ^ 32) ∧
      (d.dir ≠ 1 → d.dst < 2 ^ 32) ∧ (d.dir = 2 → d.dstage = 255 ∨ d.dstage < stages) ∧ (d.dir ≠ 2 → d.dstage = 0) ∧
      field 3 1 = 0 ∧ field 12 4 = 0 ∧ ∀ k, k < 15 → field (0x31 + k) 1 = 0)) ∧
  (∀ f w pan, let i := Instr.bcopy f
    let a := fun (s : State) (g : Group) (p : Split) => uniformA s i g p
    let desc := fun (s : State) (g : Group) (p : Split) (c : Cur) =>
      copyDesc (bytesAt (s.core c.core).pans (16384 * pan + a s g p % 16384) 64)
    CompletesWhen i (fun s c g p => firstLane i g p ≠ none ∧ s.wg (wgOf g p) = some w ∧ w.core = c.core ∧ a s g p % 64 = 0 ∧
        a s g p + 64 ≤ (s.hdr g).scratch ∧ w.storage[a s g p / 16384]? = some pan ∧ s.earlier c (·.acquires) = [] ∧
        (desc s g p c).legal (s.hdr g).stages = true ∧ (desc s g p c).aligned = true ∧
        ((desc s g p c).dir ≠ 0 → inOneRow (s.hdr g) (desc s g p c).srcExtent = true) ∧
        ((desc s g p c).dir ≠ 1 → inOneRow (s.hdr g) (desc s g p c).dstExtent = true) ∧ FMap.get 0 g.tok f.tok < 255 ∧
        (s.columnWg w (desc s g p c).dstage = none → s.columnAway w (desc s g p c).dstage = false))
      fun s c g p t h =>
        OnlyGroup s { t with fly := s.fly, fresh := s.fresh } c.core c.gid ∧ OnlySplit g h c.split p ∧ WentOn h c ∧
        h = { g with splits := h.splits, flags := h.flags, recent := h.recent, sync := h.sync, tok := h.tok } ∧ (∀ k, k ≠ 8 → h.flag k = g.flag k) ∧
        (∀ k, FMap.get 0 h.tok k = if k = f.tok then FMap.get 0 g.tok k + 1 else FMap.get 0 g.tok k) ∧
        ∃ y, t.fly = { s.fly with copies := s.fly.copies ++ [y] } ∧ y.core = c.core ∧ y.gid = c.gid ∧ y.ctx = g.ctx ∧
          y.tok = f.tok ∧ y.scope = f.escope ∧ y.srcWg = wgOf g p ∧ y.moved = 0 ∧ y.after = s.earlier c (fun _ => true) ∧
          let d := desc s g p c
          y.dir = d.dir ∧ y.esz = d.esz ∧ y.tr = d.tr ∧ y.x = d.x ∧ y.y = d.y ∧ y.z = d.z ∧ y.src = dword d.src ∧ y.dst = dword d.dst ∧
          y.srow = d.srow ∧ y.splane = d.splane ∧ y.drow = d.drow ∧ y.dplane = d.dplane ∧
          (d.dir ≠ 2 ∨ d.dstage = 255 → y.dstWg = some (wgOf g p)) ∧
          (d.dir = 2 → d.dstage ≠ 255 → ∀ v, y.dstWg = some v → ∃ x ∈ s.wgs, x.1 = v ∧ x.2.launch = w.launch ∧ x.2.x = w.x ∧
            x.2.y = w.y ∧ x.2.z = w.z ∧ x.2.stage = d.dstage)) ∧
  (∀ f w, let i := Instr.bcopy f
    let a := fun (s : State) (g : Group) (p : Split) => uniformA s i g p
    TrapsAt i (fun s _ g p => firstLane i g p ≠ none ∧ s.wg (wgOf g p) = some w ∧ a s g p % 64 ≠ 0) 0x05 0 (fun s _ g p => dword (a s g p)) ∧
    TrapsAt i (fun s _ g p => firstLane i g p ≠ none ∧ s.wg (wgOf g p) = some w ∧ a s g p % 64 = 0 ∧ (s.hdr g).scratch < a s g p + 64)
      0x06 0 (fun s _ g p => dword (a s g p))) ∧
  (∀ f, let i := Instr.bwait f
    CompletesWhen i (fun _ _ g p => lanesOf i g p = [] ∨ ((∀ y ∈ g.held, y.tok ≠ f.tok) ∧ FMap.get 0 g.tok f.tok = 0)) (fun s c g p t h =>
      OnlyMoves s t c g h p ∧ h.flags = g.flags ∧ WentOn h c) ∧
    CompletesWhen i (fun _ _ g p => lanesOf i g p ≠ [] ∧ (∀ y ∈ g.held, y.tok ≠ f.tok) ∧ FMap.get 0 g.tok f.tok ≠ 0) (fun s c g p t h =>
      OnlyMoves s t c g h p ∧ h.flags = g.flags ∧ ∃ q, h.split c.split = some q ∧ q.pc = p.pc ∧ q.wait = .tokenZero f.tok) ∧
    ∀ x, ∀ s c g p l, Admitted s i c g p → (activeLanes g p).head? = some l → lanesOf i g p ≠ [] →
      g.held.find? (fun y => y.tok = f.tok) = some x → ∃ u, exec i s = .next (State.takeTrap u c.core c.gid c.split c.pc c.next
          { code := x.code, detail := x.detail, elected := l, lanes := (1#32) <<< l, info := x.info, w0 := c.w0, w1 := c.w1 }) ∧
        OnlyGroup s u c.core c.gid ∧ u.group c.core c.gid = some { g with held := g.held.filter (· ≠ x) }) ∧
  (∀ f, let i := Instr.fence f
    let waits := fun (r : Req) => 2 ≤ f.order ∨ (f.order = 1 ∧ r.dst ≠ [])
    let awaited := fun (s : State) (c : Cur) (id : Nat) => ∃ r ∈ s.fly.reqs, r.id = id ∧ (∃ y ∈ r.accs, y.performed = false) ∧
      ((r.core = c.core ∧ r.gid = c.gid ∧ r.splits.getLsbD c.split = true ∧ waits r) ∨
        (f.order % 2 = 1 ∧ ∃ e ∈ s.fly.early, id ∈ e.ids))
    let pending := fun (s : State) (c : Cur) => ∃ id, awaited s c id
    CompletesWhen i (fun s c g p => lanesOf i g p = [] ∨ ¬ pending s c) (fun s c g p t h =>
      OnlyMoves s t c g h p ∧ h.flags = g.flags ∧ WentOn h c) ∧
    CompletesWhen i (fun s c g p => lanesOf i g p ≠ [] ∧ pending s c) (fun s c g p t h => OnlyMoves s t c g h p ∧ h.flags = g.flags ∧
      ∃ q ids, h.split c.split = some q ∧ q.wait = .requests ids ∧ q.resume = some c.next ∧ ∀ id, id ∈ ids ↔ awaited s c id)) ∧
  ∀ f, let i := Instr.pref f
    let busy := fun (s : State) (c : Cur) (g : Group) (p : Split) (line : Nat) => ∃ l ∈ accessLanes i g p,
      (s.translate c.core g.ctx (addressOf s i g (fun x => (word x.b).toInt) l) .prefetch).1 = .busy line
    CompletesWhen i (fun s c g p => ∃ line, busy s c g p line) (fun s c g p t h => OnlyMoves s t c g h p ∧ h.flags = g.flags ∧
      ∃ q line, h.split c.split = some q ∧ q.pc = p.pc ∧ q.wait = .lines [(line, false)] ∧ busy s c g p line) ∧
    CompletesWhen i (fun s c g p => ∀ line, ¬ busy s c g p line) fun s c g p t h => t.mem = s.mem ∧
    t.fly = { s.fly with prefs := t.fly.prefs } ∧ t.wgs = s.wgs ∧ t.q = s.q ∧ t.fq = s.fq ∧ t.cust = s.cust ∧
    t.xl = { s.xl with tlb := t.xl.tlb } ∧ t.gen = { s.gen with late := t.gen.late } ∧ (∀ k n, k ≠ c.core ∨ n ≠ c.gid → t.group k n = s.group k n) ∧ OnlySplit g h c.split p ∧ WentOn h c ∧ h = { g with splits := h.splits, flags := h.flags, recent := h.recent, sync := h.sync, lanes := h.lanes } ∧
    (∀ l, h.thread l = g.thread l) ∧ ∀ k, k ≠ 8 → h.flag k = g.flag k

/-- R312, R313, R315, R128, R271: a copy moves every element of its box to the place that R312 gives, in all three
transpositions, and writes nothing else: between the windows of one workgroup or of two, whole; between global memory and a
window, element by element, a copy whose elements go one after another being complete behind the last. Its completion takes 1
off its token. A byte that would change the ATTR of a pan that is not in state 0 is kept, and PR is set at the end. A
trapping fault ends a copy, whose group then holds it with DETAIL bit 6; a copy that is not ready does nothing. -/
def Obligations.CopiesMoveTheirBox : Prop :=
  let srcOf := fun (y : Copy) (i j k : Nat) => (y.src.toNat : Int) + k * y.splane + j * y.srow + (if y.tr = 2 then i / 2 else i * 2 ^ y.esz : Nat)
  let dstOf := fun (y : Copy) (i j k : Nat) => (y.dst.toNat : Int) + k * y.dplane +
    (if y.tr = 0 then j * y.drow + (i * 2 ^ y.esz : Nat) else i * y.drow + (if y.tr = 2 then j / 2 else j * 2 ^ y.esz : Nat))
  let key := fun (w : Wg) (o : Int) => 16384 * (w.storage[o.toNat / 16384]?).getD 0 + o.toNat % 16384
  let pan := fun (t : State) (w : Wg) (o : Int) => FMap.get 0#8 (t.core w.core).pans (key w o)
  let shaped := fun (y : Copy) => y.tr ≤ 2 ∧ y.esz ≤ 3 ∧ (y.tr ≠ 0 → y.esz = 0) ∧ (y.tr = 2 → y.x % 2 = 0 ∧ y.y % 2 = 0)
  let window := fun (w : Wg) (l : Launch) => (∀ p ∈ w.storage, p < 28) ∧ w.storage.Nodup ∧ l.hdr.scratch ≤ 16384 * w.storage.length
  let inside := fun (l : Launch) (e : Nat) (o : Int) => 0 ≤ o ∧ o % e = 0 ∧ o + e ≤ l.hdr.scratch
  let open_ := fun (s : State) (w : Wg) (l : Launch) (e : Nat) (o : Int) => inside l e o ∧
    (o + e + 64 ≤ l.hdr.scratch ∨ (l.hdr.scratch : Int) ≤ o + 36 ∨ ∀ k, k < 28 → s.stateOf w k = 0)
  let nib := fun (i : Nat) (b : Byte) => if i % 2 = 0 then b.toNat % 16 else b.toNat / 16
  let unit := fun (y : Copy) (i j k : Nat) => if y.tr = 2 then i + y.x * (j / 2 + y.y / 2 * k) else i + y.x * (j + y.y * k)
  let box := fun (y : Copy) (i j k : Nat) => i < y.x ∧ j < y.y ∧ k < y.z
  (∀ (s : State) (y : Copy), s.copyOf y.id = some y → s.copyReady y = false →
    exec (.bulkCopyCompletion y.id) s = .next s ∧ exec (.bulkCopyFault y.id) s = .next s) ∧
  (∀ (s : State) (y : Copy) (v : Nat) (w w2 : Wg) (l l2 : Launch) (g : Group), s.copyOf y.id = some y → s.copyReady y = true →
    y.moved = 0 → y.pr = false → y.dir = 2 → y.dstWg = some v → s.wg y.srcWg = some w → s.wg v = some w2 →
    s.launch w.launch = some l → s.launch w2.launch = some l2 → s.group y.core y.gid = some g → shaped y → window w l →
    window w2 l2 → (s.core w.core).badRows = [] → (s.core w2.core).badRows = [] →
    let e := 2 ^ y.esz
    (∀ i j k, box y i j k → inside l e (srcOf y i j k) ∧ open_ s w2 l2 e (dstOf y i j k)) →
    (if v = y.srcWg then ∀ i j k i' j' k', box y i j k → box y i' j' k' → srcOf y i j k ≠ dstOf y i' j' k'
      else w2.core ≠ w.core ∨ ∀ p ∈ w.storage, p ∉ w2.storage) →
    (∀ i j k i' j' k', box y i j k → box y i' j' k' → dstOf y i j k = dstOf y i' j' k' →
      i = i' ∧ k = k' ∧ (if y.tr = 2 then j / 2 = j' / 2 else j = j')) →
    ∃ t h, exec (.bulkCopyCompletion y.id) s = .next t ∧ t.group y.core y.gid = some h ∧ t.mem = s.mem ∧ t.copyOf y.id = none ∧
      h = { g with tok := h.tok } ∧
      (∀ k, FMap.get 0 h.tok k = if k = y.tok then FMap.get 0 g.tok k - 1 else FMap.get 0 g.tok k) ∧
      (∀ i j k b, box y i j k → b < e → y.tr ≠ 2 → pan t w2 (dstOf y i j k + b) = pan s w (srcOf y i j k + b)) ∧
      (∀ i j k, box y i j k → y.tr = 2 →
        if j % 2 = 0 then (pan t w2 (dstOf y i j k)).toNat % 16 = nib i (pan s w (srcOf y i j k))
        else (pan t w2 (dstOf y i j k)).toNat / 16 = nib i (pan s w (srcOf y i j k))) ∧
      (∀ k, k ≠ w2.core → (t.core k).pans = (s.core k).pans) ∧
      ∀ a, (∀ i j k b, box y i j k → b < e → key w2 (dstOf y i j k + b) ≠ a) →
        FMap.get 0#8 (t.core w2.core).pans a = FMap.get 0#8 (s.core w2.core).pans a) ∧
  (∀ (s : State) (y : Copy) (f : Nat → State × Copy), s.copyOf y.id = some y → s.copyReady y = true →
    f 0 = (s, { y with waits := none }) →
    (∀ k, k < y.units - y.moved → ∃ z, (f k).1.copyUnit (f k).2 (f k).2.moved = .ok (f (k + 1)).1 z ∧
      (f (k + 1)).2 = { z with moved := (f k).2.moved + 1 }) →
    let z := f (y.units - y.moved)
    exec (.bulkCopyCompletion y.id) s = .next (z.1.closeCopy z.2)) ∧
  (∀ (u : State) (z : Copy) (g : Group), u.group z.core z.gid = some g → (u.closeCopy z).mem = u.mem ∧
    (u.closeCopy z).copyOf z.id = none ∧ ∃ h, (u.closeCopy z).group z.core z.gid = some h ∧
      h = { g with tok := h.tok, flags := h.flags, recent := h.recent } ∧
      (∀ k, h.flag k = (g.flag k || (z.pr && k == 7))) ∧
      ∀ k, FMap.get 0 h.tok k = if k = z.tok then FMap.get 0 g.tok k - 1 else FMap.get 0 g.tok k) ∧
  (∀ (s : State) (y : Copy) (v : Nat) (w : Wg) (l : Launch) (i j k : Nat), s.wg v = some w → s.launch w.launch = some l →
    shaped y → window w l → (s.core w.core).badRows = [] → box y i j k → (y.tr = 2 → j % 2 = 0) →
    let e := 2 ^ y.esz
    let n := unit y i j k
    let reads := fun (row pa : Nat) => (∃ pte, (s.translate y.core y.ctx (BitVec.ofInt 64 (srcOf y i (j + row) k)) .load).1 = .ok pa pte) ∧
      s.isDevice pa = true ∧ s.homeReads y.core (pa / 64) = true ∧ s.badLine (pa / 64) = false ∧ pa % e = 0
    let held := fun (row : Nat) =>
      ∃ x, s.xl.tlb.find? (·.serves y.core y.ctx (BitVec.ofInt 64 (srcOf y i (j + row) k))) = some x
    (y.dir = 0 → y.dstWg = some v → open_ s w l e (dstOf y i j k) → ∀ pa pa', reads 0 pa →
      (y.tr = 2 → reads 1 pa' ∧ held 0 ∧ held 1 ∧ s.xl.biasBase = 0) →
      ∃ t z, s.copyUnit y n = .ok t z ∧ z = { y with readLine := z.readLine } ∧ t.mem = s.mem ∧
        (∀ a b, t.group a b = s.group a b) ∧ (∀ a, a ≠ w.core → (t.core a).pans = (s.core a).pans) ∧
        (y.tr ≠ 2 → ∀ b, b < e → pan t w (dstOf y i j k + b) = s.byte (pa + b)) ∧
        (y.tr = 2 → pan t w (dstOf y i j k) = BitVec.ofNat 8 (nib i (s.byte pa) + 16 * nib i (s.byte pa'))) ∧
        ∀ a, (∀ b, b < e → key w (dstOf y i j k + b) ≠ a) →
          FMap.get 0#8 (t.core w.core).pans a = FMap.get 0#8 (s.core w.core).pans a) ∧
    (y.dir = 1 → y.srcWg = v → y.core < 2048 → inside l e (srcOf y i j k) → (y.tr = 2 → inside l e (srcOf y i (j + 1) k)) →
      ∀ pa pte u, (s.translate y.core y.ctx (BitVec.ofInt 64 (dstOf y i j k)) .store).1 = .ok pa pte → s.isDevice pa = true →
      pa % e = 0 → s.lostStack pa = false → s.reach (dieOf y.core) (homeDie pa) = true → s.lineFree (pa / 64) = true →
      s.earlyFree (pa / 64) = true →
      let gen := s.gen.genAt (y.core :: homeUnits (pa / 64))
      (s.needsCopy gen (pa / 4096) (pteBit pte 5) = true → s.recallable (pa / 4096) = true) →
      s.cowAt gen (pa / 4096) (pteBit pte 5) = some u →
      ∃ t z, s.copyUnit y n = .ok t z ∧ z = { y with writeLine := z.writeLine, filled := z.filled } ∧
        (∀ a b, t.group a b = s.group a b) ∧ (∀ a, (t.core a).pans = (s.core a).pans) ∧
        (y.tr ≠ 2 → ∀ b, b < e → t.byte (pa + b) = pan s w (srcOf y i j k + b)) ∧
        (y.tr = 2 → t.byte pa = BitVec.ofNat 8 (nib i (pan s w (srcOf y i j k)) + 16 * nib i (pan s w (srcOf y i (j + 1) k)))) ∧
        ∀ a, a < pa ∨ pa + e ≤ a → t.byte a = u.byte a) ∧
    (y.dir = 2 → y.srcWg = v → y.dstWg = some v → y.tr = 0 → y.esz = 0 → inside l 1 (srcOf y i j k) → ∀ m : Nat, m < 28 →
      64 ≤ l.hdr.scratch → dstOf y i j k = (l.hdr.scratch : Int) - 64 + (m : Int) → s.stateOf w m ≠ 0 →
      pan s w (srcOf y i j k) ≠ (FMap.find w.attr m).getD 0 → s.copyUnit y n = .ok s { y with pr := true })) ∧
  ∀ (s : State) (y : Copy) (g : Group) (code d : Nat), s.copyOf y.id = some y → s.copyReady y = true → y.moved = 0 → y.pr = false → y.dir = 0 →
    y.tr ≠ 2 → 0 < y.x → 0 < y.y → 0 < y.z → s.group y.core y.gid = some g →
    (s.translate y.core y.ctx y.src .load).1 = .trap code d →
    ∃ t h, exec (.bulkCopyFault y.id) s = .next t ∧ t.group y.core y.gid = some h ∧ t.mem = s.mem ∧ t.copyOf y.id = none ∧
      h = { g with tok := h.tok, held := g.held ++ [{ tok := y.tok, code := code, detail := d ||| 0x40, info := y.src }] } ∧
      ∀ k, FMap.get 0 h.tok k = if k = y.tok then FMap.get 0 g.tok k - 1 else FMap.get 0 g.tok k

/-- R318 to R320, R417: `seal` and `unseal` over a mapped, writable range: the addresses of the context that are sealed
afterwards are those before with the range, or without it; other contexts keep theirs; a length of 0 changes nothing; a start
or length that is no multiple of 64 KiB takes MISALIGN, and a 257th range RESOURCE with DETAIL 1. Which entries of the table a
range takes, and so how many, is the model's choice (notes/assumptions/36.md), and the lowest executing lane alone as the fault
lane its reading (notes/assumptions/20.md). -/
def Obligations.SealingFollowsItsRange : Prop :=
  ∀ (i : Instr) (thaw : Bool), ((∃ f, i = .seal f ∧ thaw = false) ∨ (∃ f, i = .unseal f ∧ thaw = true)) →
    let start := fun (s : State) (g : Group) (p : Split) => uniformA s i g p
    let len := fun (s : State) (g : Group) (p : Split) => (laneIn (s.hdr g) g i {} ((firstLane i g p).getD 31)).b
    let whole := fun (s : State) (g : Group) (p : Split) => firstLane i g p ≠ none ∧ start s g p % 65536 = 0 ∧ len s g p % 65536 = 0
    let proper := fun (s : State) => ∀ e ∈ s.xl.seals, e.2.start.toNat % 65536 = 0 ∧
      e.2.start.toNat + 65536 * e.2.granules ≤ 2 ^ 64
    let table := fun (s : State) (g : Group) (p : Split) => if thaw = true then
      unsealTable s.xl.seals g.ctx (dword (start s g p)) (len s g p) else sealTable s.xl.seals g.ctx (dword (start s g p)) (len s g p)
    let mapped := fun (s : State) (c : Cur) (g : Group) (p : Split) => ∀ n, n < len s g p / 4096 →
      ∃ pa e, (s.translate c.core g.ctx (dword (start s g p + 4096 * n)) .granule).1 = .ok pa e
    let quiet := fun (s : State) (c : Cur) (g : Group) (p : Split) => s.earlier c (fun _ => true) = [] ∧
      s.writesTo g.ctx (dword (start s g p)) (len s g p) = []
    let rest := fun (s t : State) (c : Cur) (g h : Group) (p : Split) => t.mem = s.mem ∧ t.fly = s.fly ∧ OnlySplit g h c.split p ∧
      WentOn h c ∧ h = { g with splits := h.splits, flags := h.flags, recent := h.recent, sync := h.sync } ∧ (∀ k, k ≠ 8 → h.flag k = g.flag k) ∧
      t.coh = { s.coh with dies := t.coh.dies }
    CompletesWhen i (fun s c g p => whole s g p ∧ proper s ∧ start s g p + len s g p ≤ 2 ^ 64 ∧ mapped s c g p ∧
        (table s g p).length ≤ 256 ∧ (thaw = false → quiet s c g p)) (fun s c g p t h => rest s t c g h p ∧
      ∀ ctx va, t.sealed ctx va =
        (let inside := decide (ctx = g.ctx ∧ start s g p ≤ va.toNat ∧ va.toNat < start s g p + len s g p)
         if thaw = true then s.sealed ctx va && !inside else s.sealed ctx va || inside)) ∧
    CompletesWhen i (fun s _ g p => whole s g p ∧ len s g p = 0) (fun s c g p t h => rest s t c g h p ∧ t.xl = s.xl) ∧
    ∀ s c g p l, Admitted s i c g p → firstLane i g p = some l →
      (start s g p % 65536 ≠ 0 ∨ len s g p % 65536 ≠ 0 → exec i s = .next (s.takeTrap c.core c.gid c.split c.pc c.next
        { code := 0x05, elected := l, lanes := (1#32) <<< l, info := dword (start s g p), w0 := c.w0, w1 := c.w1 })) ∧
      (whole s g p → len s g p ≠ 0 → mapped s c g p → 256 < (table s g p).length →
        exec i s = .next (s.takeTrap c.core c.gid c.split c.pc c.next
          { code := 0x02, detail := 1, elected := l, lanes := (1#32) <<< l, w0 := c.w0, w1 := c.w1 }))

/-- R267 to R272, R276, R277, R287 to R290, R202 and Table 12.1: every pan instruction refuses a mixed group, where a check
of stage 5 with a lower code goes before; `pmode` moves the named pans to state 2 or 3 and records their attributes, or takes
PAN_CONFIG by the first check that fails; `pcfg` and `scbind` are checked stores to scratch, of the bytes that their entries
name alone; `pswap` exchanges two sets when the cycle of its issue ends; `pquery` writes the state that Q names; `pfence` and
`pwait` wait for what their entries name, and `pwait` takes a fault held for its token. That the lowest active lane alone is the
fault lane of these checks, and which checks a mixed group meets first, is the model's reading (notes/assumptions/20.md). -/
def Obligations.PanInstructionsAreChecked : Prop :=
  let ready := fun (i : Instr) (w : Wg) (s : State) (c : Cur) (g : Group) (p : Split) =>
    InWorkgroup s c g p w ∧ firstLane i g p ≠ none
  let block := fun (s : State) (g : Group) => (s.hdr g).scratch - 64
  let zero := fun (_ : State) (_ : Cur) (_ : Group) (_ : Split) => (0 : DWord)
  (∀ (i : Instr) (s : State) (c : Cur) (g : Group) (p : Split) (l : Nat), 0xC0 ≤ i.info.op → i.info.op ≤ 0xC8 →
    Admitted s i c g p → (activeLanes g p).head? = some l → g.mixed = true → ∃ code detail,
      (code = 0x0B ∨ code = 0x0C ∨ code = 0x0F ∧ detail = 0) ∧
      exec i s = .next (s.takeTrap c.core c.gid c.split c.pc c.next
        { code := code, detail := detail, elected := l, lanes := (1#32) <<< l, w0 := c.w0, w1 := c.w1 })) ∧
  (∀ i : Instr, ((∃ f, i = .sluice f ∨ i = .pfence f ∨ i = .pswap f) ∨
      ∃ f, i = .pwait f ∨ i = .pqueryState f ∨ i = .pqueryBusy f ∨ i = .pqueryPart f) →
    TrapsAt i (fun _ _ g _ => g.mixed = true) 0x0F 0 zero) ∧
  (∀ (f : FormE) (w : Wg) (i : Instr) (into : Bool), ((i = .pmodeCompute f ∧ into = true) ∨ (i = .pmodeStorage f ∧ into = false)) →
    let fits := fun (s : State) (g : Group) (p : Split) => uniformA s i g p < 2 ^ Nat.min 28 (s.hdr g).cpans
    TrapsAt i (fun s _ g p => g.mixed = true ∧ firstLane i g p ≠ none ∧ s.wg (wgOf g p) = some w ∧ ¬ fits s g p) 0x0C 6 zero ∧
    TrapsAt i (fun s c g p => g.mixed = true ∧ firstLane i g p ≠ none ∧ s.wg (wgOf g p) = some w ∧ uniformA s i g p = 0 ∧
      (s.core c.core).pslu = 0) 0x0F 0 zero) ∧
  (∀ f w (i : Instr) (into : Bool), ((i = .pmodeCompute f ∧ into = true) ∨ (i = .pmodeStorage f ∧ into = false)) →
    let named := fun (s : State) (g : Group) (p : Split) (k : Nat) => (uniformA s i g p).testBit k
    let fits := fun (s : State) (g : Group) (p : Split) => uniformA s i g p < 2 ^ Nat.min 28 (s.hdr g).cpans
    let source := if into = true then 0 else 1
    let goal := if into = true then 2 else 3
    let busy := fun (s : State) => ((List.range 32).filter fun q =>
      let x := (s.core w.core).pslu.toNat / 4 ^ q % 4
      x == 1 || x == 2).length
    let new := fun (s : State) (g : Group) (p : Split) =>
      ((List.range 28).filter fun k => named s g p k && s.stateOf w k == 0).length
    let allowed := fun (s : State) (g : Group) (p : Split) => ∀ k, named s g p k = true → s.stateOf w k ≠ 5 - goal
    TrapsAt i (fun s c g p => ready i w s c g p ∧ ¬ fits s g p) 0x0C 6 zero ∧
    TrapsAt i (fun s c g p => ready i w s c g p ∧ fits s g p ∧ ¬ allowed s g p) 0x0C 4 zero ∧
    TrapsAt i (fun s c g p => ready i w s c g p ∧ fits s g p ∧ allowed s g p ∧ into = true ∧ 28 < busy s + new s g p) 0x0C 5 zero ∧
    CompletesWhen i (fun s c g p => ready i w s c g p ∧ fits s g p ∧ allowed s g p ∧ (into = true → busy s + new s g p ≤ 28))
      fun s c g p t h => GoesOn g h c p ∧ KeepsRest s t ∧ OtherGroups s t c.core c.gid ∧
        (t.core w.core).pans = (s.core w.core).pans ∧ (t.core w.core).pmode = (s.core w.core).pmode ∧
        (∀ k q, w.compute[k]? = some q → t.stateOf w k =
          if named s g p k = true ∧ k < 28 ∧ s.stateOf w k = source then goal else s.stateOf w k) ∧
        (∀ q, q < 32 → q ∉ w.compute →
          (t.core w.core).pslu.toNat / 4 ^ q % 4 = (s.core w.core).pslu.toNat / 4 ^ q % 4) ∧
        (∀ v, v ≠ wgOf g p → t.wg v = s.wg v) ∧
        ∃ x, t.wg (wgOf g p) = some x ∧ x = { w with attr := x.attr } ∧ ∀ k, (FMap.find x.attr k).getD 0 =
          if into = true ∧ named s g p k = true ∧ k < 28 ∧ s.stateOf w k = 0 then
            (if (s.hdr g).scratch < 64 then 0 else s.windowByte w (block s g + k))
          else (FMap.find w.attr k).getD 0) ∧
  (∀ f w, let i := Instr.pcfgAttr f
    let ix := f.b.f.toNat
    let a := fun (s : State) (g : Group) (p : Split) => uniformA s i g p
    let okay := fun (s : State) (g : Group) (p : Split) => ix < (s.hdr g).cpans ∧ a s g p < 64 ∧ a s g p % 16 ≤ 5
    let free := fun (s : State) (g : Group) (p : Split) => s.stateOf w ix = 0 ∨ ((FMap.find w.attr ix).getD 0).toNat = a s g p
    TrapsAt i (fun s c g p => ready i w s c g p ∧ (s.hdr g).cpans ≤ ix) 0x0C 6 zero ∧
    TrapsAt i (fun s c g p => ready i w s c g p ∧ ix < (s.hdr g).cpans ∧ (64 ≤ a s g p ∨ 5 < a s g p % 16)) 0x0C 3 zero ∧
    TrapsAt i (fun s c g p => ready i w s c g p ∧ okay s g p ∧ ¬ free s g p) 0x0C 4 zero ∧
    TrapsAt i (fun s c g p => ready i w s c g p ∧ okay s g p ∧ free s g p ∧ (s.hdr g).scratch < 64) 0x06 0 zero ∧
    CompletesWhen i (fun s c g p => ready i w s c g p ∧ okay s g p ∧ free s g p ∧ 64 ≤ (s.hdr g).scratch ∧
        s.earlier c (·.acquires) = []) fun s c g p t h => GoesOn g h c p ∧
      StoresWindow s t c w (block s g + ix) [BitVec.ofNat 8 (a s g p)]) ∧
  (∀ f w, let i := Instr.pcfgSet f
    let bytes := fun (s : State) (g : Group) (p : Split) => (List.range 8).map fun k => BitVec.ofNat 8 (uniformA s i g p / 256 ^ k)
    let set := fun (s : State) (g : Group) (p : Split) (n : Nat) => let b := fun k => ((bytes s g p).getD k 0).toNat
      1 ≤ n ∧ n ≤ 8 ∧ (∀ k, k < n → b k ≤ 27) ∧ (∀ j k, j < k → k < n → b j ≠ b k) ∧ ∀ k, n ≤ k → k < 8 → b k = 255
    let inside := fun (s : State) (g : Group) (p : Split) (n : Nat) =>
      ∀ k, k < n → ((bytes s g p).getD k 0).toNat < (s.hdr g).cpans
    TrapsAt i (fun s c g p => ready i w s c g p ∧ ∀ n, ¬ set s g p n) 0x0C 3 zero ∧
    TrapsAt i (fun s c g p => ready i w s c g p ∧ ∃ n, set s g p n ∧ ¬ inside s g p n) 0x0C 6 zero ∧
    TrapsAt i (fun s c g p => ready i w s c g p ∧ (s.hdr g).scratch < 64 ∧ ∃ n, set s g p n ∧ inside s g p n) 0x06 0 zero ∧
    CompletesWhen i (fun s c g p => ready i w s c g p ∧ 64 ≤ (s.hdr g).scratch ∧ s.earlier c (·.acquires) = [] ∧
        ∃ n, set s g p n ∧ inside s g p n) fun s c g p t h => GoesOn g h c p ∧
      StoresWindow s t c w (block s g + 32 + 8 * f.b.f.toNat) (bytes s g p)) ∧
  (∀ f w, let i := Instr.scbind f
    let x := fun (s : State) (g : Group) (p : Split) => uniformIn s i g p
    let bound := fun (s : State) (g : Group) (p : Split) => (x s g p).b / 2 ^ 16 % 256 = 0 ∧ (x s g p).b % 2 ^ 16 ≠ 0
    TrapsAt i (fun s c g p => ready i w s c g p ∧ ¬ bound s g p) 0x0C 2 zero ∧
    TrapsAt i (fun s c g p => ready i w s c g p ∧ bound s g p ∧ (x s g p).a % 64 ≠ 0) 0x05 0 (fun s _ g p => dword (x s g p).a) ∧
    TrapsAt i (fun s c g p => ready i w s c g p ∧ bound s g p ∧ (x s g p).a % 64 = 0 ∧ (x s g p).c % 64 ≠ 0) 0x05 0
      (fun s _ g p => dword (x s g p).c) ∧
    TrapsAt i (fun s c g p => ready i w s c g p ∧ bound s g p ∧ (x s g p).a % 64 = 0 ∧ (x s g p).c % 64 = 0 ∧
      (s.hdr g).scratch < (x s g p).c + 64) 0x06 0 (fun s _ g p => dword (x s g p).c) ∧
    CompletesWhen i (fun s c g p => ready i w s c g p ∧ bound s g p ∧ (x s g p).a % 64 = 0 ∧ (x s g p).c % 64 = 0 ∧
        (x s g p).c + 64 ≤ (s.hdr g).scratch ∧ s.earlier c (·.acquires) = []) fun s c g p t h => GoesOn g h c p ∧
      StoresWindow s t c w ((x s g p).c + 0x28) (((List.range 8).map fun k => BitVec.ofNat 8 ((x s g p).a / 256 ^ k)) ++
        [BitVec.ofNat 8 (x s g p).b, BitVec.ofNat 8 ((x s g p).b / 256), BitVec.ofNat 8 ((x s g p).b / 2 ^ 24)]) ∧
      (t.core c.core).scale = (s.core c.core).scale.filter fun y => y.id ≠ (x s g p).b / 2 ^ 24) ∧
  (∀ f w, let i := Instr.pswap f
    CompletesWhen i (fun s c g p => ready i w s c g p ∧ s.earlier c (·.acquires) = []) fun s c g p t h => GoesOn g h c p ∧
      OnlyGroup s { t with fly := s.fly } c.core c.gid ∧
      t.fly = { s.fly with swaps := s.fly.swaps ++ [(wgOf g p, f.d.toNat % 2)] }) ∧
  (∀ (s : State) (v q : Nat) (w : Wg) (l : Launch), s.fly.swaps = [(v, q)] → q < 2 → s.wg v = some w → s.launch w.launch = some l →
    (w.storage ++ w.compute).Nodup → (∀ x ∈ w.storage ++ w.compute, x < 32) → l.hdr.scratch % 64 = 0 →
    l.hdr.scratch ≤ 16384 * w.storage.length →
    let t := s.settleSwaps
    let o := l.hdr.scratch - 64 + 32 + 16 * q
    t.fly = { s.fly with swaps := [] } ∧ t = { s with fly := t.fly, cores := t.cores } ∧
    (∀ a b, t.group a b = s.group a b) ∧ (l.hdr.scratch < 64 → t.cores = s.cores) ∧ (64 ≤ l.hdr.scratch →
      (∀ k, k < 16 → t.windowByte w (o + k) = s.windowByte w (o + if k < 8 then k + 8 else k - 8)) ∧
      ∀ core key, (∀ k, k < 16 → core ≠ w.core ∨ key ≠ w.place (o + k)) → t.panByte core key = s.panByte core key)) ∧
  (∀ (i : Instr) (w : Wg) (v : State → Group → Nat),
    ((∃ f, i = .pqueryState f ∧ v = fun s g => ((List.range (Nat.min 28 (s.hdr g).cpans)).map fun k => s.stateOf w k * 4 ^ k).sum) ∨
     (∃ f, i = .pqueryBusy f ∧ v = fun (s : State) (g : Group) => ((List.range 8).map fun b =>
       let slot := (List.range 8).map fun k => (s.windowByte w (block s g + 32 + 8 * (b / 2) + k)).toNat
       let pans := (slot.takeWhile (· ≠ 255)).filterMap fun k => w.compute[k]?
       if (decide (64 ≤ (s.hdr g).scratch) && s.fly.pmmas.any fun (x : Pmma) =>
         x.core == w.core && x.due.isSome && x.halves.testBit (b % 2) && x.set.any pans.contains) = true then
         2 ^ b else 0).sum) ∨
     (∃ f, i = .pqueryPart f ∧ v = fun s g => (s.hdr g).cpans + 2 ^ 8 * w.storage.length + 2 ^ 16 *
       ((List.range 32).filter fun q => let x := (s.core w.core).pslu.toNat / 4 ^ q % 4
         x == 1 || x == 2).length + 2 ^ 24 * ((List.range 32).filter fun q => (s.core w.core).pl1.getLsbD q).length)) →
    CompletesWhen i (fun s c g p => InWorkgroup s c g p w) fun s c g p t h =>
      OnlyGroup s t c.core c.gid ∧ RestOfGroup g h ∧ OnlySplit g h c.split p ∧ WentOn h c ∧ h.flags = g.flags ∧
      (∀ l, l ∉ lanesOf i g p → h.thread l = g.thread l) ∧
      ∀ l ∈ lanesOf i g p, (∀ r, r ∉ destRegs s i g l → (h.thread l).reg r = (g.thread l).reg r) ∧
        ∀ (k r : Nat), (destRegs s i g l)[k]? = some r → (h.thread l).reg r = word (v s g / 2 ^ (32 * k))) ∧
  (∀ f w, let i := Instr.pfence f
    let pending := fun (s : State) (c : Cur) (id : Nat) =>
      (∃ r ∈ s.fly.reqs, r.id = id ∧ r.core = c.core ∧ r.gid = c.gid ∧ r.splits.getLsbD c.split = true ∧ r.dst ≠ []) ∨
      ∃ r ∈ s.fly.sfu, r.id = id ∧ r.core = c.core ∧ r.gid = c.gid ∧ r.splits.getLsbD c.split = true
    CompletesWhen i (fun s c g p => InWorkgroup s c g p w ∧ ∀ id, ¬ pending s c id) (fun s c g p t h =>
      OnlyMoves s t c g h p ∧ h.flags = g.flags ∧ WentOn h c) ∧
    CompletesWhen i (fun s c g p => InWorkgroup s c g p w ∧ ∃ id, pending s c id) fun s c g p t h =>
      OnlyMoves s t c g h p ∧ h.flags = g.flags ∧ ∃ q ids, h.split c.split = some q ∧ q.wait = .results ids ∧
        q.resume = some c.next ∧ ∀ id, id ∈ ids ↔ pending s c id) ∧
  ∀ f w, let i := Instr.pwait f
    CompletesWhen i (fun s c g p => InWorkgroup s c g p w ∧ (∀ y ∈ g.held, y.tok ≠ f.tok) ∧ FMap.get 0 g.tok f.tok = 0)
      (fun s c g p t h => OnlyMoves s t c g h p ∧ h.flags = g.flags ∧ WentOn h c) ∧
    CompletesWhen i (fun s c g p => InWorkgroup s c g p w ∧ (∀ y ∈ g.held, y.tok ≠ f.tok) ∧ FMap.get 0 g.tok f.tok ≠ 0)
      (fun s c g p t h => OnlyMoves s t c g h p ∧ h.flags = g.flags ∧
        ∃ q, h.split c.split = some q ∧ q.pc = p.pc ∧ q.wait = .tokenZero f.tok) ∧
    ∀ x s c g p l, Admitted s i c g p → (activeLanes g p).head? = some l → InWorkgroup s c g p w →
      g.held.find? (fun y => y.tok = f.tok) = some x → ∃ u, exec i s = .next (State.takeTrap u c.core c.gid c.split c.pc c.next
          { code := x.code, detail := x.detail, elected := l, lanes := (1#32) <<< l, info := x.info, w0 := c.w0, w1 := c.w1 }) ∧
        OnlyGroup s u c.core c.gid ∧ u.group c.core c.gid = some { g with held := g.held.filter (· ≠ x) }

/-- R246 to R253, R257 to R260 and Table 11.1: the counts that conversion gives back, the weights that the columns hold, the
exact integer of a block at every exact setting, and its one rounding under the scales. -/
def Obligations.ChargeArithmeticIsExact : Prop :=
  (∀ s n k : Nat, s ∈ [32, 64, 128, 256] → n ∈ [1, 2, 4, 8] → k ≤ s →
    ((List.range n).map fun j => (256 * n * k + (2 * j + 1) * s) / (2 * n * s)).sum * s = recount s n k * (n * 128) ∧
    recount s n k = if s = 256 ∧ n = 1 then 2 * ((k + 1) / 2) else k) ∧
  (∀ (x : PanData) (k e : Nat), let byte := fun o => (x.pan (k / 256) (k % 256 * 64 + o)).toNat
    let nib := if e % 2 = 0 then byte (e / 2) % 16 else byte (e / 2) / 16
    x.weight 0 k e = (BitVec.ofNat 8 (byte e)).toInt ∧ x.weight 1 k e = byte e ∧ x.weight 2 k e = (BitVec.ofNat 4 nib).toInt ∧
    x.weight 3 k e = nib ∧ x.weight 4 k e = (BitVec.ofNat 8 (byte e)).toInt ∧ x.weight 5 k e = (BitVec.ofNat 5 (byte e)).toInt) ∧
  (∀ (x : PanData) (fmt : Word) (codes : Nat → Nat) (e : Nat) (b : Nat × Nat) (z za : Int),
    let planes := if fmt.toNat / 16 % 16 = 2 ∨ fmt.toNat / 16 % 16 = 3 then 4 else 8
    let signed := fmt.toNat / 16 % 16 = 0 ∨ fmt.toNat / 16 % 16 = 2 ∨ fmt.toNat / 16 % 16 = 4
    let act := fun r => if signed then (BitVec.ofNat planes (codes r)).toInt else (codes r : Int)
    (segOf fmt ≤ 128 ∨ 2 ≤ repOf fmt) → b.2 % segOf fmt = 0 → (∀ r, codes r < 2 ^ planes) →
    dsumOf x fmt codes e b - z * asumOf fmt codes b - za * qsumOf x (wfOf fmt) e b + b.2 * za * z =
      ((List.range b.2).map fun r => (act (b.1 + r) - za) * (x.weight (wfOf fmt) (b.1 + r) e - z)).sum) ∧
  ∀ (i e : Int) (s : FV) (nan : Bool) (rho : Word), let r := fp32.value rho.toNat
    (nan = true ∨ s.isNan = true ∨ r.isNan = true → scaledBlock i s e nan rho = 0x7FC00000) ∧
    (s.IsFinite → r.IsFinite → ∀ y : FV, y.IsFinite → y.rat = i * s.rat * (2 : Rat) ^ e * r.rat → y.rat ≠ 0 →
      scaledBlock i s e false rho = (rnd (.mode 0) fp32 false y).1) ∧
    (s.IsFinite → ∀ neg, r = .inf neg → scaledBlock i s e false rho =
      if (i : Rat) * s.rat = 0 then 0x7FC00000 else if ((i : Rat) * s.rat < 0) = (neg = true) then 0x7F800000 else 0xFF800000)

/-- R273, R279 to R286, R265, R266, R29, R91, R426: the sluice and its completion, and the check of the cells of a pan that goes
back to storage; a `pmma` outside a gang issues at once and takes its descriptor, set, rows and accumulators as they stand then;
in a gang it waits at its latch, which opens for all members or fails for all; either waits while a token is at 255; blocks come
by fills; the completion writes every row of a live thread and releases every token; the events do nothing where their condition
does not hold. The model's choices and readings among these: a completion overwrites what was written to its accumulators since
(notes/assumptions/15.md); elements are read as they stand when the completion is taken (16.md); the fault lane of a check made
once for the split (20.md); which checks a gang makes at its latch, and in which order (38.md); the re-runs, and what an undetected
deviation has made of a result, as the payload of the event (40.md). -/
def Obligations.PanOperationsRunToCompletion : Prop :=
  let keyed := fun (s : State) (core : Nat) => ((s.core core).groups.map (·.1)).Nodup ∧
    ∀ e ∈ (s.core core).groups, (e.2.splits.map (·.1)).Nodup
  let dec := fun (g h : Group) (k : Nat) => ∀ j, FMap.get 0 h.tok j = if j = k then FMap.get 0 g.tok j - 1 else FMap.get 0 g.tok j
  let inc := fun (g h : Group) (k : Nat) => ∀ j, FMap.get 0 h.tok j = if j = k then FMap.get 0 g.tok j + 1 else FMap.get 0 g.tok j
  let cycles := fun (fmt : Word) (k : Nat) =>
    (if fmt.toNat / 16 % 16 = 2 ∨ fmt.toNat / 16 % 16 = 3 then 4 else 8) * (Nat.min k 256 / segOf fmt) * repOf fmt * 8
  let steps := fun (x : Pmma) => x.rows.length * (if x.fmt.toNat / 16 % 16 = 2 ∨ x.fmt.toNat / 16 % 16 = 3 then 4 else 8) *
    ((unfoldOf x.desc).k / segOf x.fmt)
  (∀ f w, let i := Instr.sluice f
    CompletesWhen i (fun s c g p => InWorkgroup s c g p w ∧ firstLane i g p ≠ none) fun s c g p t h =>
      OnlySplit g h c.split p ∧ RestOfGroup g h ∧ h.lanes = g.lanes ∧ h.flags = g.flags ∧ KeepsRest s t ∧
      OtherGroups s t c.core c.gid ∧ (t.core c.core).pans = (s.core c.core).pans ∧ (t.core c.core).pslu = (s.core c.core).pslu ∧
      (∃ q, h.split c.split = some q ∧ q.wait = .sluice c.w0 c.w1 ∧ q.resume = some c.next ∧ q.sig = p.sig) ∧
      ∃ x, t.wg (wgOf g p) = some x ∧ x = { w with sluiceAt := x.sluiceAt } ∧
        let arrived := t.arrivedThreads (t.atSluice (wgOf g p)) = t.liveOf (wgOf g p)
        let moving := fun n => ∃ k, k < w.compute.length ∧ s.stateOf w k = n
        let mirrored := ∃ k, k < w.compute.length ∧ s.stateOf w k = 2 ∧ ((FMap.find w.attr k).getD 0).getLsbD 4 = true
        (w.sluiceAt ≠ none ∨ ¬ arrived → x.sluiceAt = w.sluiceAt) ∧
        let sound := ∀ k, k < w.compute.length → s.stateOf w k = 2 → attrBad ((FMap.find w.attr k).getD 0) = false
        (w.sluiceAt = none → sound → g.lowWg = wgOf g p →
          (∃ r ∈ s.fly.reqs, r.done = false ∧ r.core = c.core ∧ r.gid = c.gid) → x.sluiceAt = none) ∧
        (w.sluiceAt = none → arrived → t.atSluice (wgOf g p) ≠ [] → s.fly.reqs = [] → s.fly.copies = [] → s.fly.pmmas = [] → sound →
          (¬ moving 2 → x.sluiceAt = some (s.clk.clock + 16)) ∧ (moving 2 → ¬ mirrored → x.sluiceAt = some (s.clk.clock + 272)) ∧
          (mirrored → x.sluiceAt = some (s.clk.clock + 528)))) ∧
  (∀ (s : State) (wg : Nat) (w : Wg), s.wg wg = some w →
    let arrived := s.arrivedThreads (s.atSluice wg) = s.liveOf wg
    let moving := fun (n : Nat) => ((List.range w.compute.length).filter fun k => s.stateOf w k == n).length
    let held := ((List.range 32).filter fun q => (s.core w.core).pslu.toNat / 4 ^ q % 2 == 1).length
    let room := held + moving 2 ≤ 28 + moving 3
    (w.sluiceAt = none → exec (.sluiceCompletion wg) s = .next s) ∧
    (w.sluiceAt ≠ none → ¬ arrived → exec (.sluiceCompletion wg) s = .next (s.updWg wg fun x => { x with sluiceAt := none })) ∧
    (∀ n, w.sluiceAt = some n → arrived → s.clk.clock < n ∨ ¬ room → exec (.sluiceCompletion wg) s = .next s) ∧
    ∀ n, w.sluiceAt = some n → arrived → n ≤ s.clk.clock → room → w.compute.Nodup → (∀ q ∈ w.compute, q < 32) →
      (s.core w.core).badRows = [] → keyed s w.core →
      (∀ b ∈ (s.core w.core).flipped, ∀ k q, w.compute[k]? = some q → s.stateOf w k = 3 → b / 131072 ≠ q) →
      let waits := fun (g : Group) (q : Split) (a b : Word) => g.lowWg = wg ∧ q.wait = .sluice a b
      let attr := fun k => (FMap.find w.attr k).getD 0
      let okay := ∀ k, k < w.compute.length → s.stateOf w k = 2 → (attr k).toNat < 64 ∧ (attr k).toNat % 16 ≤ 5
      ∃ t, exec (.sluiceCompletion wg) s = .next t ∧ KeepsRest s t ∧ (∀ k, k ≠ w.core → t.core k = s.core k) ∧
        (∀ v, v ≠ wg → t.wg v = s.wg v) ∧ (t.wg wg).bind (·.sluiceAt) = none ∧
        (∀ gid g, s.group w.core gid = some g → ∃ h, t.group w.core gid = some h ∧ h = { g with splits := h.splits } ∧
          ∀ k q, g.split k = some q → ∃ r, h.split k = some r ∧ ((∀ a b, ¬ waits g q a b) → r = q) ∧
            ∀ a b, waits g q a b → (okay → r.pc = q.resume.getD q.pc ∧ (r.wait = .held ∨ r.wait = .ready) ∧
                r.sig = if (s.hdr g).sigMode = true ∧ q.issued = false then foldWords q.sig a b else q.sig) ∧
              (¬ okay → r = { q with wait := .fault 0x0C 3 0 a b })) ∧
        (¬ okay → (t.core w.core).pslu = (s.core w.core).pslu ∧ (t.core w.core).pans = (s.core w.core).pans) ∧
        (okay → (∀ k q, w.compute[k]? = some q →
            (t.core w.core).pslu.toNat / 4 ^ q % 4 = (if s.stateOf w k = 2 then 1 else if s.stateOf w k = 3 then 0 else s.stateOf w k) ∧
            (t.core w.core).pmode.getLsbD q = (if s.stateOf w k = 2 then true else if s.stateOf w k = 3 then false else
              (s.core w.core).pmode.getLsbD q) ∧
            ∀ o, o < 16384 → t.panByte w.core (16384 * q + o) =
              if s.stateOf w k = 2 ∧ (attr k).getLsbD 4 = true ∧ o % 64 / 32 = (if (attr k).getLsbD 5 = true then 1 else 0) then
                s.panByte w.core (16384 * q + if o % 64 < 32 then o + 32 else o - 32)
              else s.panByte w.core (16384 * q + o)) ∧
          ∀ a, a / 16384 ∉ w.compute → t.panByte w.core a = s.panByte w.core a)) ∧
  (∀ (s : State) (core q : Nat), let cells := (s.core core).flipped.filter fun b => b / 131072 = q
    let t := s.checkPan core q
    (t.core core).flipped = (s.core core).flipped.filter (fun b => b / 131072 ≠ q) ∧
    (cells = [] → t.mem = s.mem ∧ (t.core core).pans = (s.core core).pans ∧ (t.core core).badRows = (s.core core).badRows) ∧
    (∀ b, cells = [b] → (∀ a, t.panByte core a = if a = b / 8 then s.panByte core a ^^^ (1#8) <<< (b % 8) else s.panByte core a) ∧
      (t.core core).badRows = (s.core core).badRows ∧ (t.die (core / 256)).eccCor = satInc (s.die (core / 256)).eccCor) ∧
    ∀ a b, cells = [a, b] → a ≠ b → a / 64 = b / 64 → (∀ o, t.panByte core o = s.panByte core o) ∧
      (∀ r, r ∈ (t.core core).badRows ↔ r ∈ (s.core core).badRows ∨ r = a / 512) ∧
      (t.die (core / 256)).eccUnc = satInc (s.die (core / 256)).eccUnc) ∧
  (∀ f w np, let i := Instr.pmma f
    let n := 16 * 2 ^ f.nsel
    let off := fun (s : State) (g : Group) (p : Split) => uniformA s i g p
    let slot := f.mod.toNat / 8 % 4
    let member := fun (s : State) (g : Group) (k : Nat) => (s.windowByte w ((s.hdr g).scratch - 64 + 32 + 8 * slot + k)).toNat
    let desc := fun (s : State) (g : Group) (p : Split) => (List.range 64).map fun k => s.windowByte w (off s g p + k)
    let start := fun (s : State) (c : Cur) (g : Group) (p : Split) => InWorkgroup s c g p w ∧ firstLane i g p ≠ none ∧
      fmtBad p.fmt = false ∧ g.splits.length = 1 ∧ g.gang = 0
    let set := fun (s : State) (g : Group) => 64 ≤ (s.hdr g).scratch ∧ 1 ≤ np ∧ np ≤ 8 ∧
      (∀ k, k < np → member s g k < (s.hdr g).cpans ∧ member s g k ≤ 27) ∧ (∀ j k, j < k → k < np → member s g j ≠ member s g k) ∧
      (∀ k, np ≤ k → k < 8 → member s g k = 255)
    let holds := fun (s : State) (g : Group) (p : Split) => ∀ k, k < np → s.stateOf w (member s g k) = 1 ∧
      ((FMap.find w.attr (member s g k)).getD 0).toNat % 16 = wfOf p.fmt
    let placed := fun (s : State) (g : Group) (p : Split) => off s g p % 64 = 0 ∧ off s g p + 64 ≤ (s.hdr g).scratch
    let fits := fun (s : State) (g : Group) (p : Split) => let d := unfoldOf (desc s g p)
      d.legal p.fmt n np = true ∧ (readsTable p.fmt = true → d.scaddr.toNat % 64 = 0) ∧
      ∀ o ∈ d.reads p.fmt (lanesOf i g p), o < (s.hdr g).scratch
    TrapsAt i (fun s c g p => InWorkgroup s c g p w ∧ g.gang = 0 ∧ 1 < g.splits.length) 0x0B 3 (fun _ _ _ _ => 0) ∧
    TrapsAt i (fun s c g p => InWorkgroup s c g p w ∧ g.gang = 0 ∧ g.splits.length = 1 ∧ fmtBad p.fmt = true) 0x0C 1
      (fun _ _ _ _ => 0) ∧
    TrapsAt i (fun s c g p => start s c g p ∧ set s g ∧ (∃ k, k < np ∧ s.stateOf w (member s g k) ≠ 1) ∧
      ∀ k, k < np → ((FMap.find w.attr (member s g k)).getD 0).toNat % 16 = wfOf p.fmt) 0x0C 4 (fun _ _ _ _ => 0) ∧
    TrapsAt i (fun s c g p => start s c g p ∧ set s g ∧ holds s g p ∧ off s g p % 64 ≠ 0) 0x05 0
      (fun s _ g p => dword (off s g p)) ∧
    TrapsAt i (fun s c g p => start s c g p ∧ set s g ∧ holds s g p ∧ off s g p % 64 = 0 ∧
      (s.hdr g).scratch < off s g p + 64) 0x06 0 (fun s _ g p => dword (off s g p)) ∧
    TrapsAt i (fun s c g p => start s c g p ∧ set s g ∧ holds s g p ∧ placed s g p ∧
      (unfoldOf (desc s g p)).legal p.fmt n np = false) 0x0C 2 (fun _ _ _ _ => 0) ∧
    CompletesWhen i (fun s c g p => InWorkgroup s c g p w ∧ g.gang ≠ 0 ∧ 255 ≤ FMap.get 0 g.tok f.tok) (fun s c g p t h =>
      OnlyMoves s t c g h p ∧ ∃ q, h.split c.split = some q ∧ q.wait = .tokenRoom f.tok ∧ q.resume = none ∧ q.pc = p.pc) ∧
    CompletesWhen i (fun s c g p => InWorkgroup s c g p w ∧ firstLane i g p ≠ none ∧ g.gang ≠ 0 ∧ FMap.get 0 g.tok f.tok < 255)
      (fun s c g p t h => OnlyMoves s t c g h p ∧ ∃ q k, h.split c.split = some q ∧ q.wait = .latch k ∧ q.resume = some c.next ∧
        q.pc = p.pc ∧ q.sig = p.sig ∧
        k.a = word (off s g p) ∧ k.md = f.md ∧ k.xd = f.xd ∧ k.slot = slot ∧ k.nsel = f.nsel ∧ k.tok = f.tok ∧
        k.rows.map (·.lane) = lanesOf i g p) ∧
    CompletesWhen i (fun s c g p => start s c g p ∧ set s g ∧ holds s g p ∧ placed s g p ∧ fits s g p ∧
        255 ≤ FMap.get 0 g.tok f.tok) (fun s c g p t h =>
      OnlyMoves s t c g h p ∧ ∃ q, h.split c.split = some q ∧ q.wait = .tokenRoom f.tok ∧ q.resume = none ∧ q.pc = p.pc) ∧
    CompletesWhen i (fun s c g p => start s c g p ∧ set s g ∧ holds s g p ∧ placed s g p ∧ fits s g p ∧
        FMap.get 0 g.tok f.tok < 255) fun s c g p t h =>
      OnlySplit g h c.split p ∧ WentOn h c ∧ h = { g with splits := h.splits, flags := h.flags, recent := h.recent, sync := h.sync, tok := h.tok } ∧ inc g h f.tok ∧
      (∀ k, k ≠ 8 → h.flag k = g.flag k) ∧ OnlyGroup s { t with fly := s.fly, fresh := s.fresh } c.core c.gid ∧
      ∃ x : Pmma, t.fly = { s.fly with pmmas := s.fly.pmmas ++ [x] } ∧ x.due = none ∧ x.at_ = s.clk.clock ∧ x.pos = g.wgpos ∧
        x.id = s.fresh ∧ x.ctx = g.ctx ∧ x.core = c.core ∧ x.wg = wgOf g p ∧ x.members = [(c.gid, f.tok)] ∧ x.fmt = p.fmt ∧ x.n = n ∧
        x.desc = desc s g p ∧ x.set = (List.range np).filterMap (fun k => w.compute[member s g k]?) ∧
        (let d := unfoldOf (desc s g p)
         let per := if wfOf p.fmt = 2 ∨ wfOf p.fmt = 3 then 4 else 8
         let low := (d.e0 + n) * per ≤ 256
         let high := 256 ≤ d.e0 * per
         let marked := fun (mh : Bool) => ∀ k, k < np → ((FMap.find w.attr (member s g k)).getD 0).getLsbD 4 = true ∧
           ((FMap.find w.attr (member s g k)).getD 0).getLsbD 5 = mh
         (x.mirrored = true ↔ p.fmt.getLsbD 14 = true ∧ ((low ∧ marked true) ∨ (high ∧ marked false))) ∧
         (x.mirrored = true → x.halves = 3) ∧ (x.mirrored = false → (low → x.halves = 1) ∧ (high → x.halves = 2) ∧
           (¬ low → ¬ high → x.halves = 3))) ∧
        x.rows.map (·.lane) = lanesOf i g p ∧ ∀ r ∈ x.rows, r.row = r.lane ∧ r.gid = c.gid ∧ r.regs = destRegs s i g r.lane ∧
          r.acc = r.regs.map (g.thread r.lane).reg ∧ r.rho = word (laneIn (s.hdr g) g i { b := .f32 } r.lane).b) ∧
  (∀ (s : State) (k : Nat) (y : Pmma), s.fly.pmmas[k]? = some y → ∃ z, s.tick.fly.pmmas[k]? = some z ∧
    let behind := ∃ x ∈ s.fly.pmmas, x.core = y.core ∧ x.halves &&& y.halves ≠ 0 ∧ (∃ q ∈ x.set, q ∈ y.set) ∧
      (x.at_ < y.at_ ∨ x.at_ = y.at_ ∧ (x.pos < y.pos ∨ x.pos = y.pos ∧ x.id < y.id))
    z = { y with due := z.due, got := z.got } ∧ (y.due ≠ none ∨ behind → z.due = y.due) ∧
    (y.due = none → ¬ behind → z.due = some (s.clk.clock + 24 + y.rows.length * cycles y.fmt (unfoldOf y.desc).k)) ∧
    ∀ b, FMap.find z.got b = if z.due ≠ none ∧ b ∈ s.missing y then (s.scaleBlock y b).map (·.data) else FMap.find y.got b) ∧
  (∀ (s : State) (core gid : Nat) (g : Group) (w : Wg), s.group core gid = some g → s.wg g.lowWg = some w →
    let named := maskLanes g.gang
    let gone := fun q => (s.groupAt core g.lowWg q).isNone && !s.savedAt core g.lowWg q
    let ms := named.filterMap fun q => (s.groupAt core g.lowWg q).bind memberOf
    (s.latchReady core gid = false → exec (.pmmaLatchOpen core gid) s = .next s) ∧
    (s.latchReady core gid = true → keyed s core → ∀ m, memberOf (gid, g) = some m → ∃ t,
      exec (.pmmaLatchOpen core gid) s = .next t ∧ t.mem = s.mem ∧ t.wgs = s.wgs ∧
      let full := ∃ z ∈ ms, 255 ≤ FMap.get 0 z.g.tok z.t.tok
      ∀ y ∈ ms, ∃ h, t.group core y.gid = some h ∧
        h.lanes = y.g.lanes ∧
        let torn := ∃ z ∈ ms, 1 < z.g.splits.length
        let fails := fun (code detail : Nat) => h = { y.g with splits := h.splits } ∧
          h.split y.k = some { y.p with wait := .fault code detail 0 y.t.w0 y.t.w1 }
        (torn → fails 0x0B 3) ∧
        (¬ torn → named.any gone = true → fails 0x0B 2) ∧
        (¬ torn → named.any gone = false → (∃ z ∈ ms, m.agrees z = false) → fails 0x0B 1) ∧
        (¬ torn → named.any gone = false → (∀ z ∈ ms, m.agrees z = true) →
          (fmtBad m.p.fmt = true → fails 0x0C 1) ∧
          (fmtBad m.p.fmt = false → ∀ e, s.pmmaCheck w (s.hdr g) m ((memberRows ms).map (·.1)) = some e →
            h = { y.g with splits := h.splits } ∧
            h.split y.k = some { y.p with wait := .fault e.code e.detail e.info y.t.w0 y.t.w1 }) ∧
          (fmtBad m.p.fmt = false → s.pmmaCheck w (s.hdr g) m ((memberRows ms).map (·.1)) = none → full → t = s) ∧
          (fmtBad m.p.fmt = false → s.pmmaCheck w (s.hdr g) m ((memberRows ms).map (·.1)) = none → ¬ full →
            (∃ q, h.split y.k = some q ∧ q.pc = y.p.resume.getD y.p.pc ∧ (q.wait = .held ∨ q.wait = .ready) ∧
              q.sig = if (s.hdr y.g).sigMode = true ∧ y.p.issued = false then foldWords y.p.sig y.t.w0 y.t.w1 else y.p.sig) ∧
            inc y.g h y.t.tok ∧ h.flags = y.g.flags ||| word y.t.uv ∧ ∃ x, t.fly.pmmas = s.fly.pmmas ++ [x] ∧ x.id = s.fresh ∧ x.due = none ∧ x.at_ = s.clk.clock ∧
              x.members = ms.map (fun z => (z.gid, z.t.tok)))))) ∧
  (∀ (s : State) (id b : Nat) (x : Pmma), s.pmmaOf id = some x → let va := x.blockAddr b
    ((x.due = none ∨ b ∉ s.missing x ∨ s.fillParked id b = true) →
      exec (.scaleFill id b) s = .next s ∧ exec (.scaleFillFault id b) s = .next s) ∧
    (x.due ≠ none → b ∈ s.missing x → s.fillParked id b = false →
      (∀ pa e, (s.translate x.core x.ctx va .load).1 = .ok pa e → s.isDevice pa = true → s.badLine (pa / 64) = false →
        s.scaleBlock x b = none → s.homeReads x.core (pa / 64) = true →
        ∃ t, exec (.scaleFill id b) s = .next t ∧ t.mem = s.mem ∧ (∀ k j, t.group k j = s.group k j) ∧
          (t.scaleBlock x b).map (·.data) = some (s.read pa 64) ∧ ∃ y, t.pmmaOf id = some y ∧ y = { x with got := y.got } ∧
            FMap.find y.got b = some (s.read pa 64)) ∧
      (∀ y, s.scaleBlock x b = some y → ∃ t z, exec (.scaleFill id b) s = .next t ∧ t = { s with fly := { s.fly with pmmas := t.fly.pmmas } } ∧
        t.pmmaOf id = some z ∧ z = { x with got := z.got } ∧ FMap.find z.got b = some y.data) ∧
      ∀ code d, (s.translate x.core x.ctx va .load).1 = .trap code d → (x.members.map (·.1)).Nodup →
        (∀ m ∈ x.members, ∃ g, s.group x.core m.1 = some g ∧ g.phase ≠ .draining) → ∃ t, exec (.scaleFillFault id b) s = .next t ∧
          t.mem = s.mem ∧ t.pmmaOf id = none ∧ ∀ m ∈ x.members, ∀ g, s.group x.core m.1 = some g → ∃ h, t.group x.core m.1 = some h ∧
            h = { g with tok := h.tok, held := g.held ++ [{ tok := m.2, code := code, detail := d ||| 0x40, info := va }] } ∧
            dec g h m.2)) ∧
  (∀ (s : State) (id reruns : Nat) (wrong : List (Nat × Nat × Word)) (x : Pmma) (w : Wg) (l : Launch), s.pmmaOf id = some x →
    s.wg x.wg = some w → s.launch w.launch = some l →
    let again := if x.mirrored = true then reruns else 0
    let done := (∃ n, x.due = some n ∧ n + 8 * repOf x.fmt * again ≤ s.clk.clock) ∧ s.missing x = [] ∧ again ≤ 3 * steps x
    (¬ done → exec (.pmmaCompletion id ⟨reruns, wrong⟩) s = .next s) ∧
    (done → (∀ y ∈ wrong, x.mirrored = false → ∀ r ∈ x.rows, y.1 ≠ r.row) → (s.core x.core).badRows = [] → (x.members.map (·.1)).Nodup → (∀ r ∈ x.rows, r.gid ∈ x.members.map (·.1)) →
      (x.rows.map fun r => (r.gid, r.lane)).Nodup → (∀ r ∈ x.rows, r.regs.Nodup ∧ r.acc.length = r.regs.length) →
      ∃ t, exec (.pmmaCompletion id ⟨reruns, wrong⟩) s = .next t ∧ t.mem = s.mem ∧ t.wgs = s.wgs ∧ t.pmmaOf id = none ∧
        ∀ m ∈ x.members, ∀ g, s.group x.core m.1 = some g → ∃ h, t.group x.core m.1 = some h ∧ dec g h m.2 ∧ h.splits = g.splits ∧
          (∀ k, h.flag k = (g.flag k || (x.mirrored && decide (0 < reruns) && k == 10))) ∧
          (∀ l, (∀ r ∈ x.rows, r.gid = m.1 → r.lane ≠ l) → h.thread l = g.thread l) ∧
          ∀ r ∈ x.rows, r.gid = m.1 → (g.dead.getLsbD r.lane = true → h.thread r.lane = g.thread r.lane) ∧
            (g.dead.getLsbD r.lane = false → (∀ k, k ∉ r.regs → (h.thread r.lane).reg k = (g.thread r.lane).reg k) ∧
              ∀ (k d v : Nat), r.regs[k]? = some d → (rowResult (s.pmmaData x w l.hdr) (unfoldOf x.desc) x.fmt r)[k]? = some v →
                (h.thread r.lane).reg d = word v))) ∧
  (∀ (s : State) (id reruns : Nat) (x : Pmma), s.pmmaOf id = some x →
    let most := 3 * steps x
    (x.mirrored = false ∨ x.due = none ∨ reruns < 3 ∨ most < reruns → exec (.machineCheckEvent ⟨id, reruns⟩) s = .next s) ∧
    (x.mirrored = true → x.due ≠ none → 3 ≤ reruns → reruns ≤ most → ∃ t, exec (.machineCheckEvent ⟨id, reruns⟩) s = .next t ∧ (∀ m ∈ x.members, t.group x.core m.1 = none) ∧
      (t.die (x.core / 256)).mCheck = satInc (s.die (x.core / 256)).mCheck)) ∧
  ∀ (s : State) (core gid : Nat) (g : Group), s.group core gid = some g →
    let busy := ∃ x ∈ s.fly.pmmas, x.core = core ∧ ∃ m ∈ x.members, m.1 = gid
    (g.phase ≠ .draining ∨ busy → exec (.drainingEnd core gid) s = .next s) ∧
    (g.phase = .draining → ¬ busy → ∃ t, exec (.drainingEnd core gid) s = .next t ∧ t.group core gid = none ∧ t.mem = s.mem ∧
      ∀ k j, (k, j) ≠ (core, gid) → t.group k j = s.group k j)

/-- R385 to R389, R391 to R395, R397, R398: arrivals at named barriers and supersteps are counted by workgroup and cohort, and
a phase releases when every live thread has arrived and what came before is performed; `evsig` hands a release to its
counter's home and `evwait` waits until the counter reaches the threshold; `enq`, `deq` and `launch` append and take records
in order, each record in exactly one place, and an exchange overfills no team's store; each checks its operands first. That
`evwait` reads its counter again at most once in a cycle is the model's choice (notes/assumptions/9.md); that the lowest active lane alone is the fault lane of a check made once for the
split, its reading (20.md); where in its share a spilled record lies, its choice (30.md). -/
def Obligations.BarriersQueuesAndEventCounters : Prop :=
  let zero := fun (_ : State) (_ : Cur) (_ : Group) (_ : Split) => (0 : DWord)
  let bytes := fun (n v : Nat) => (List.range n).map fun k => BitVec.ofNat 8 (v / 256 ^ k)
  let recs := fun (s : State) (team launch node : Nat) => ((s.q.fifo team launch node).map (·.recs)).getD []
  (∀ (i : Instr) (stays : Bool), ((∃ f, i = .bar f ∧ stays = true) ∨ (∃ f, i = .bara f ∧ stays = false)) →
    let b := fun (s : State) (g : Group) (p : Split) => uniformA s i g p
    let heeds := fun (g : Group) => stays = true → g.held = []
    TrapsAt i (fun s _ g p => heeds g ∧ firstLane i g p ≠ none ∧ (s.hdr g).barriers ≤ b s g p) 0x02 0 zero ∧
    CompletesWhen i (fun s _ g p => heeds g ∧ firstLane i g p ≠ none ∧ b s g p < (s.hdr g).barriers) fun s c g p t h =>
      KeepsRest s t ∧ OtherGroups s t c.core c.gid ∧ OnlySplit g h c.split p ∧
      h = { g with splits := h.splits, flags := h.flags, recent := h.recent, sync := h.sync } ∧ (∀ k, k ≠ 8 → h.flag k = g.flag k) ∧
      (stays = false → WentOn h c) ∧
      (stays = true → ∃ q tickets, h.split c.split = some q ∧ q.wait = .barrier tickets ∧ q.resume = some c.next ∧
        ∀ v n ph, (v, n, ph) ∈ tickets ↔ n = b s g p ∧ (∃ l ∈ lanesOf i g p, (g.thread l).wg = v) ∧
          ph = ((s.wg v).map (·.phase n)).getD 0) ∧
      ∀ v w, s.wg v = some w → (∃ l ∈ lanesOf i g p, (g.thread l).wg = v) →
        let a := (FMap.find w.barCount (b s g p)).getD 0 + ((lanesOf i g p).filter fun l => (g.thread l).wg == v).length
        let ids := (FMap.find w.barReqs (b s g p)).getD [] ++ s.beforeArrival c
        ∃ x, t.wg v = some x ∧ if s.liveOf v ≤ a ∧ s.allPerformed ids = true then
          FMap.find x.barCount (b s g p) = none ∧ x.phase (b s g p) = w.phase (b s g p) + 1
        else FMap.find x.barCount (b s g p) = some a ∧ x.phase (b s g p) = w.phase (b s g p)) ∧
  (∀ i : Instr, (∃ f, i = .bar f ∨ i = .sstep f) → ∀ s c g p l x xs, Admitted s i c g p → (activeLanes g p).head? = some l →
    g.held = x :: xs → ∃ u, exec i s = .next (State.takeTrap u c.core c.gid c.split c.pc c.next
        { code := x.code, detail := x.detail, elected := l, lanes := (1#32) <<< l, info := x.info, w0 := c.w0, w1 := c.w1 }) ∧
      OnlyGroup s u c.core c.gid ∧ u.group c.core c.gid = some { g with held := g.held.filter (· ≠ x) }) ∧
  (∀ f x, let i := Instr.sstep f
    let here := fun (s : State) (g : Group) => s.launch g.launch = some x
    let node := fun (s : State) (g : Group) (p : Split) => ∃ w, s.wg (wgOf g p) = some w ∧ w.node ≠ none
    let cohort := fun (s : State) (g : Group) (l : Nat) => ((s.wg (g.thread l).wg).map fun y => x.lr.wgCohort y.wgid).getD 0
    let n := fun (s : State) (g : Group) (p : Split) (k : Nat) => ((lanesOf i g p).filter fun l => cohort s g l == k).length
    TrapsAt i (fun s _ g p => g.held = [] ∧ here s g ∧ (x.lr.sscope = 0 ∨ f.escope ≠ x.lr.sscope ∨ node s g p)) 0x13 3 zero ∧
    CompletesWhen i (fun s _ g p => g.held = [] ∧ here s g ∧ x.lr.sscope ≠ 0 ∧ f.escope = x.lr.sscope ∧ ¬ node s g p)
      fun s c g p t h => t = { s with cores := t.cores, q := { s.q with launches := t.q.launches } } ∧
        OtherGroups s t c.core c.gid ∧ OnlySplit g h c.split p ∧ h = { g with splits := h.splits } ∧
        (∃ q tickets, h.split c.split = some q ∧ q.wait = .superstep g.launch tickets ∧ q.resume = some c.next ∧
          ∀ k ph, (k, ph) ∈ tickets ↔ 0 < n s g p k ∧ ph = x.ssPhaseOf k) ∧
        (∀ k, k ≠ g.launch → t.launch k = s.launch k) ∧ ∃ y, t.launch g.launch = some y ∧
          y = { x with ssCount := y.ssCount, ssReqs := y.ssReqs } ∧
          ∀ k, FMap.find y.ssCount k = if n s g p k = 0 then FMap.find x.ssCount k else
            some ((FMap.find x.ssCount k).getD 0 + n s g p k)) ∧
  (∀ (s : State) (l k : Nat), (s.stepReady l k = false → exec (.superstepRelease l k) s = .next s) ∧
    (s.stepReady l k = true → ∀ x, s.launch l = some x → ∃ t y, exec (.superstepRelease l k) s = .next t ∧
      t = { s with q := { s.q with launches := t.q.launches } } ∧ t.launch l = some y ∧ FMap.find y.ssCount k = none ∧
      y.ssPhaseOf k = x.ssPhaseOf k + 1 ∧ (∀ j, j ≠ k → y.ssPhaseOf j = x.ssPhaseOf j) ∧ ∀ j, j ≠ l → t.launch j = s.launch j)) ∧
  (∀ (i : Instr) (acc : Access), ((∃ f, i = .evsig f ∧ acc = .add) ∨ (∃ f, i = .evwait f ∧ acc = .load)) →
    let va := fun (s : State) (g : Group) (p : Split) => dword (uniformA s i g p)
    let tr := fun (s : State) (c : Cur) (g : Group) (p : Split) => (s.translate c.core g.ctx (va s g p) acc).1
    let some_ := fun (g : Group) (p : Split) => firstLane i g p ≠ none
    TrapsAt i (fun s _ g p => some_ g p ∧ (va s g p).toNat % 8 ≠ 0) 0x05 0 (fun s _ g p => va s g p) ∧
    (∀ code d, TrapsAt i (fun s c g p => some_ g p ∧ (va s g p).toNat % 8 = 0 ∧ tr s c g p = .trap code d) code d
      fun s _ g p => va s g p) ∧
    TrapsAt i (fun s c g p => some_ g p ∧ (va s g p).toNat % 8 = 0 ∧ ∃ pa e, tr s c g p = .ok pa e ∧ e.getLsbD 4 = true) 0x08 3
      (fun s _ g p => va s g p) ∧
    (∀ line, CompletesWhen i (fun s c g p => some_ g p ∧ (va s g p).toNat % 8 = 0 ∧ tr s c g p = .busy line)
      fun s c g p t h => OnlyMoves s t c g h p ∧ h.flags = g.flags ∧
        ∃ q, h.split c.split = some q ∧ q.wait = .lines [(line, false)] ∧ q.resume = none ∧ q.pc = p.pc) ∧
    (∀ pa e, CompletesWhen i (fun s c g p => some_ g p ∧ (va s g p).toNat % 8 = 0 ∧ tr s c g p = .ok pa e ∧ e.getLsbD 4 = false ∧
        acc = .add ∧ s.slotsFree c.core 1 = false)
      fun s c g p t h => OnlyGroup s { t with xl := s.xl } c.core c.gid ∧ OnlySplit g h c.split p ∧ h = { g with splits := h.splits } ∧
        ∃ q, h.split c.split = some q ∧ q.wait = .slots 1 ∧ q.resume = none ∧ q.pc = p.pc) ∧
    ∀ pa e, CompletesWhen i (fun s c g p => some_ g p ∧ (va s g p).toNat % 8 = 0 ∧ tr s c g p = .ok pa e ∧ e.getLsbD 4 = false ∧
        (acc = .add → s.slotsFree c.core 1 = true))
      fun s c g p t h => OnlyGroup s { t with fly := s.fly, fresh := s.fresh, xl := s.xl } c.core c.gid ∧
        OnlySplit g h c.split p ∧ h = { g with splits := h.splits, flags := h.flags, recent := h.recent, sync := h.sync } ∧ (∀ k, k ≠ 8 → h.flag k = g.flag k) ∧
        t.xl = { s.xl with tlb := t.xl.tlb } ∧
        (∀ f, i = .evsig f → WentOn h c ∧ ∃ r y, t.fly = { s.fly with reqs := s.fly.reqs ++ [r] } ∧ r.kind = .signal ∧ r.order = 2 ∧
          r.scope = f.escope ∧ r.ctx = g.ctx ∧ r.core = c.core ∧ r.gid = c.gid ∧ r.split = c.split ∧ r.accs = [y] ∧ r.dst = [] ∧
          y.va = va s g p ∧ y.pa = pa ∧ y.n = 8 ∧ y.op1 = (uniformIn s i g p).b ∧ y.performed = false) ∧
        ∀ f, i = .evwait f → t.fly = s.fly ∧ ∃ q, h.split c.split = some q ∧ q.resume = some c.next ∧
          q.wait = .event (va s g p) (uniformIn s i g p).b f.escope) ∧
  (∀ (s : State) (core gid n : Nat) (g : Group) (q : Split) (thr sc : Nat) (va : DWord), s.group core gid = some g →
    g.split n = some q → q.wait = .event va thr sc →
    let answers := fun (pa : Nat) => ∃ e, (s.translate core g.ctx va .load).1 = .ok pa e ∧ e.getLsbD 4 = false
    (∀ line, (s.translate core g.ctx va .load).1 = .busy line → exec (.evwaitReread core gid n) s = .next s) ∧
    ((∀ pa, ¬ answers pa) → (∀ line, (s.translate core g.ctx va .load).1 ≠ .busy line) →
      exec (.evwaitReread core gid n) s = .next (s.updSplit core gid n (·.again g.rrb s.clk.clock))) ∧
    ∀ pa, answers pa →
    let earlier := ∃ r ∈ s.fly.reqs, r.core = core ∧ r.gid = gid ∧ r.splits.getLsbD n = true ∧ r.done = false ∧
      (r.acquires = true ∨ ∃ a ∈ r.accs, a.performed = false ∧ a.pa < pa + 8 ∧ pa < a.pa + a.n)
    (earlier ∨ s.clk.clock ≤ q.rt → exec (.evwaitReread core gid n) s = .next s) ∧
    (¬ earlier → q.rt < s.clk.clock → s.isDevice pa = true → s.homeReads core (pa / 64) = true → s.dieUp (dieOf core) = true →
      s.earlyOk pa 8 (fun _ => false) = true → s.badLine (pa / 64) = false → ∃ t h r,
        exec (.evwaitReread core gid n) s = .next t ∧ t.mem = s.mem ∧ t.fly = { s.fly with writes := t.fly.writes } ∧
        t.group core gid = some h ∧ h = { g with splits := h.splits } ∧ (∀ k, k ≠ n → h.split k = g.split k) ∧ h.split n = some r ∧
        (s.readN pa 8 < thr → r = { q with rt := s.clk.clock }) ∧ (thr ≤ s.readN pa 8 → r.pc = q.resume.getD q.pc ∧ (r.wait = .held ∨ r.wait = .ready)))) ∧
  (∀ f, let i := Instr.enq f
    let x := fun (s : State) (g : Group) (l : Nat) => laneIn (s.hdr g) g i {} l
    let entry := fun (s : State) (g : Group) (l : Nat) => s.nodeEntry g.launch (x s g l).b
    let size := fun (s : State) (g : Group) (l : Nat) => ((entry s g l).map (·.recSize)).getD 0
    let okay := fun (s : State) (g : Group) (p : Split) => ∀ l ∈ lanesOf i g p, entry s g l ≠ none ∧ (x s g l).a % 8 = 0 ∧
      (x s g l).a + size s g l ≤ (s.hdr g).scratch
    let ready := fun (s : State) (c : Cur) (g : Group) (p : Split) => okay s g p ∧ s.earlier c (fun _ => true) = []
    let room := fun (s : State) (c : Cur) (g : Group) (p : Split) =>
      fitsFree ((lanesOf i g p).map (size s g)) (s.queueFree (c.core / 16) g.launch)
    (∀ s c g p e, Admitted s i c g p → ((lanesOf i g p).filter fun l => (entry s g l).isNone).head? = some e →
      let bad := maskOf ((lanesOf i g p).filter fun l => (entry s g l).isNone)
      exec i s = .next (s.takeTrap c.core c.gid c.split c.pc c.next
        { code := 0x13, detail := 1, elected := e, lanes := bad, w0 := c.w0, w1 := c.w1 })) ∧
    CompletesWhen i (fun s c g p => ready s c g p ∧ room s c g p = false) (fun s c g p _ h => OnlySplit g h c.split p ∧
      RestOfGroup g h ∧ h.lanes = g.lanes ∧ ∃ q, h.split c.split = some q ∧ q.pc = p.pc ∧
        q.wait = .queueRoom ((lanesOf i g p).map (size s g))) ∧
    CompletesWhen i (fun s c g p => ready s c g p ∧ room s c g p = true ∧
        ((lanesOf i g p).map (size s g)).sum ≤ (s.queueFree (c.core / 16) g.launch).1 ∧
        ∀ l ∈ lanesOf i g p, ∃ w, s.wg (g.thread l).wg = some w ∧ w.core = c.core ∧
          (s.hdr g).scratch ≤ 16384 * w.storage.length) fun s c g p t h =>
      GoesOn g h c p ∧ h.flags = g.flags ∧ t = { s with cores := t.cores, q := { s.q with fifos := t.q.fifos, queueFull := t.q.queueFull } } ∧
      OtherGroups s t c.core c.gid ∧ (∀ team launch node, (team ≠ c.core / 16 ∨ launch ≠ g.launch) →
        t.q.fifo team launch node = s.q.fifo team launch node) ∧
      ∀ node, (recs t (c.core / 16) g.launch node).map (·.bytes) = (recs s (c.core / 16) g.launch node).map (·.bytes) ++
        ((lanesOf i g p).filter fun l => (x s g l).b == node).map fun l => (List.range (size s g l)).map fun k =>
          ((s.wg (g.thread l).wg).map fun w => s.windowByte w ((x s g l).a + k)).getD 0) ∧
  (∀ (s : State) (team launch node : Nat) (bs : List Byte) (x : Launch) (pas : Nat → Nat), s.launch launch = some x →
    (s.queueFree team launch).1 < bs.length → bs.length ≤ (s.queueFree team launch).2 → bs.length % 8 = 0 →
    let base := x.lr.spillBase + dword (team * s.spillShare launch)
    let va := fun k => base + dword (8 * k)
    (∀ k, k < (s.q.spillWords team launch).length + bs.length / 8 → s.writeWaits x.lr.ctx (va k) none = false ∧
      s.GrouplessAt (fun _ => False) x.lr.ctx (va k) .store (pas k)) →
    ∃ (t : State) (ks : List Nat) (ws : List DevWrite), s.appendRec team launch node bs = t ∧ t.mem = s.mem ∧ t.cores = s.cores ∧
      (recs t team launch node).map (·.bytes) = (recs s team launch node).map (·.bytes) ++ [bs] ∧
      ks.length = bs.length / 8 ∧ ks.Nodup ∧ (∀ k ∈ ks, k ∉ s.q.spillWords team launch) ∧
      t.fly.writes = s.fly.writes ++ ws ∧ ws.map (fun y => (y.pa, y.bytes)) = ks.mapIdx fun j k => (pas k, (bs.drop (8 * j)).take 8)) ∧
  (∀ (s : State) (core gid n : Nat) (g : Group) (q : Split) (sizes : List Nat), s.group core gid = some g →
    g.split n = some q → q.wait = .queueRoom sizes →
    (fitsFree sizes (s.queueFree (core / 16) g.launch) = false → exec (.enqResume core gid n) s = .next s) ∧
    (fitsFree sizes (s.queueFree (core / 16) g.launch) = true → ∃ t h, exec (.enqResume core gid n) s = .next t ∧
      t.group core gid = some h ∧ t.mem = s.mem ∧ t.q = s.q ∧
      h.split n = some { q with wait := (if q.clause = none then .held else .ready), rt := s.clk.clock } ∧
      ∀ k, k ≠ n → h.split k = g.split k)) ∧
  (∀ f w n e, let i := Instr.deq f
    let x := fun (s : State) (g : Group) (p : Split) => uniformIn s i g p
    let counted := fun (s : State) (g : Group) (p : Split) => firstLane i g p ≠ none ∧ 1 ≤ (x s g p).b ∧ (x s g p).b ≤ 1024
    let own := fun (s : State) (g : Group) (p : Split) => s.wg (wgOf g p) = some w ∧ w.node = some n ∧
      s.nodeEntry g.launch n.node = some e
    TrapsAt i (fun s _ g p => firstLane i g p ≠ none ∧ ((x s g p).b = 0 ∨ 1024 < (x s g p).b)) 0x01 3 zero ∧
    TrapsAt i (fun s _ g p => counted s g p ∧ ∀ v, s.wg (wgOf g p) = some v → v.node = none) 0x13 2 zero ∧
    TrapsAt i (fun s _ g p => counted s g p ∧ own s g p ∧ (x s g p).a % 8 ≠ 0) 0x05 0 (fun s _ g p => dword (x s g p).a) ∧
    TrapsAt i (fun s _ g p => counted s g p ∧ own s g p ∧ (x s g p).a % 8 = 0 ∧
      (s.hdr g).scratch < (x s g p).a + (x s g p).b * e.recSize) 0x06 0 (fun s _ g p => dword (x s g p).a) ∧
    CompletesWhen i (fun s c g p => counted s g p ∧ own s g p ∧ (x s g p).a % 8 = 0 ∧ (s.wg (wgOf g p) = some w → w.core = c.core) ∧
        (x s g p).a + (x s g p).b * e.recSize + 64 ≤ (s.hdr g).scratch ∧ s.earlier c (·.acquires) = [] ∧
        (s.hdr g).scratch ≤ 16384 * w.storage.length ∧ w.storage.Nodup ∧ 0 < e.recSize ∧ e.recSize ≤ 256 ∧
        ∀ r ∈ recs s n.team g.launch n.node, r.bytes.length = e.recSize) fun s c g p t h =>
      let old := recs s n.team g.launch n.node
      let m := (x s g p).b
      OnlySplit g h c.split p ∧ RestOfGroup g h ∧ WentOn h c ∧ t.mem = s.mem ∧ t.fly = s.fly ∧ OtherGroups s t c.core c.gid ∧
      recs t n.team g.launch n.node = old.drop m ∧
      (∀ a l k, (a, l, k) ≠ (n.team, g.launch, n.node) → t.q.fifo a l k = s.q.fifo a l k) ∧
      (∀ l ∈ lanesOf i g p, ∀ r ∈ destRegs s i g l, (h.thread l).reg r = word (Nat.min m old.length)) ∧
      (∀ (j : Nat) (r : NodeRec), j < m → old[j]? = some r → ∀ (k : Nat) (b : Byte), r.bytes[k]? = some b →
        t.windowByte w ((x s g p).a + j * e.recSize + k) = b) ∧
      ∀ key, (∀ k, k < m * e.recSize → key ≠ w.place ((x s g p).a + k)) → t.panByte w.core key = s.panByte w.core key) ∧
  (∀ (s : State) (team launch node : Nat) (y : Fifo) (e : NodeEntry) (r : NodeRec), s.q.fifo team launch node = some y →
    s.nodeEntry launch node = some e → y.recs.head? = some r →
    (s.clk.clock < r.entered + e.maxWait → exec (.maxwaitExpiry team launch node) s = .next s) ∧
    (r.entered + e.maxWait ≤ s.clk.clock → ∃ t z, exec (.maxwaitExpiry team launch node) s = .next t ∧
      t.q.fifo team launch node = some z ∧ z.recs = y.recs ∧ z.expired = true ∧ t = { s with q := { s.q with fifos := t.q.fifos } } ∧
      ∀ a l k, (a, l, k) ≠ (team, launch, node) → t.q.fifo a l k = s.q.fifo a l k)) ∧
  (∀ s : State, (s.clk.clock < s.q.exchangeAt ∨ s.q.transit ≠ [] → exec .queueExchange s = .next s) ∧
    (s.q.exchangeAt ≤ s.clk.clock → s.q.transit = [] → (s.q.fifos.map fun y => (y.team, y.launch, y.node)).Nodup →
      (∀ y ∈ s.q.fifos, y.team < 128) → ∃ t, exec .queueExchange s = .next t ∧ t.cores = s.cores ∧ t.mem = s.mem ∧ t.wgs = s.wgs ∧
        (∀ team, s.q.storeUsed team ≤ 262144 → t.q.storeUsed team ≤ 262144) ∧ t.q.exchangeAt = s.q.exchangeAt + 1024 ∧ (∀ z ∈ t.q.transit, z.recs.length ≤ 256) ∧
        ∀ l k, let total := fun (u : State) => ((u.q.fifos.filter fun y => y.launch == l && y.node == k).map (·.recs.length)).sum +
            ((u.q.transit.filter fun z => z.launch == l && z.node == k).map (·.recs.length)).sum
          total t = total s)) ∧
  (∀ (s : State) (id : Nat) (z : Transit), s.q.transit.find? (fun y => y.id = id) = some z → ∃ t,
    exec (.recordTransitArrival id) s = .next t ∧ t.q.transit = s.q.transit.filter (fun y => y.id ≠ id) ∧ t.mem = s.mem ∧
    t.cores = s.cores ∧ (recs t z.team z.launch z.node).map (·.bytes) = (recs s z.team z.launch z.node).map (·.bytes) ++ z.recs.map (·.bytes)) ∧
  ∀ f pa e, let i := Instr.launch f
    let va := fun (s : State) (g : Group) (p : Split) => dword (uniformA s i g p)
    let cls := fun (s : State) => (s.byte (pa + 2)).toNat
    let slot := fun (s : State) => (s.ring (cls s)).dbase.toNat + 8 * ((s.ring (cls s)).dwptr.toNat % (s.ring (cls s)).dsize.toNat)
    let open_ := fun (s : State) => cls s ≤ 7 ∧ (s.ring (cls s)).dbase ≠ 0 ∧ ringSizeOk (s.ring (cls s)).dsize 16 65536 = true ∧
      (s.ring (cls s)).dwptr - (s.ring (cls s)).drptr ≠ (s.ring (cls s)).dsize
    TrapsAt i (fun s _ g p => firstLane i g p ≠ none ∧ (va s g p).toNat % 128 ≠ 0) 0x05 0 (fun s _ g p => va s g p) ∧
    let free := fun (s : State) (a : Nat) =>
      s.target a = .device a ∧ s.lineFree (a / 64) = true ∧ s.earlyFree (a / 64) = true ∧ s.lostStack a = false
    CompletesWhen i (fun s c g p => firstLane i g p ≠ none ∧ (va s g p).toNat % 128 = 0 ∧
        (s.translate c.core g.ctx (va s g p) .rmw).1 = .ok pa e ∧ s.earlier c (fun _ => true) = [] ∧ s.isDevice pa = true ∧
        s.lostStack pa = false ∧ s.badLine (pa / 64) = false ∧ s.homeReads c.core (pa / 64) = false) (fun s c g p t h =>
      OnlyMoves s t c g h p ∧ h.flags = g.flags ∧ ∃ q, h.split c.split = some q ∧ q.wait = .lines [(pa / 64, true)] ∧
        q.resume = none ∧ q.pc = p.pc) ∧
    CompletesWhen i (fun s c g p => firstLane i g p ≠ none ∧ (va s g p).toNat % 128 = 0 ∧
        (s.translate c.core g.ctx (va s g p) .rmw).1 = .ok pa e ∧ s.earlier c (fun _ => true) = [] ∧ s.isDevice pa = true ∧
        s.badLine (pa / 64) = false ∧ s.homeReads c.core (pa / 64) = true ∧ s.gen.keeps = [] ∧
        (open_ s → free s pa ∧ free s (slot s) ∧ (slot s + 8 ≤ pa ∨ pa + 128 ≤ slot s) ∧ slot s % 8 = 0 ∧ pa % 128 = 0 ∧
          s.xl.biasBase.toNat + slot s / 32768 ≠ pa + 0x1F)) fun s c g p t h =>
      OnlySplit g h c.split p ∧ RestOfGroup g h ∧ WentOn h c ∧ (∀ k, k ≠ 8 → h.flag k = g.flag k) ∧ t.wgs = s.wgs ∧ t.fly.reqs = s.fly.reqs ∧
      (∀ l ∈ lanesOf i g p, ∀ r ∈ destRegs s i g l, (h.thread l).reg r = if open_ s then 0 else 1) ∧
      (¬ open_ s → t.mem = s.mem ∧ t.q = s.q) ∧
      (open_ s → t.byte (pa + 0x1F) = BitVec.ofNat 8 g.ctx ∧ (∀ (k : Nat) (b : Byte), (bytes 8 pa)[k]? = some b → t.byte (slot s + k) = b) ∧
        (∀ a, a ≠ pa + 0x1F → (a < slot s ∨ slot s + 8 ≤ a) → t.byte a = s.byte a) ∧
        t.ring (cls s) = { s.ring (cls s) with dwptr := (s.ring (cls s)).dwptr + 1 } ∧
        ∀ k, k ≠ cls s → t.ring k = s.ring k)

/-- R357 to R360, R364, R365, R367 to R373: `snap` checks its context and descriptor and waits at the barrier unit, where the
generation rises by 1 and, once every unit holds it, the old one is retained and its drain starts, or STATUS 6 refuses it; its
split goes on, with d written, once STATUS is; it waits while the sweep is due; `snapq` reads, `snapdrop` ends a retained
generation; the sweep raises the base; an exhausted share abandons every generation taken with ABANDON, and presses the owner
once while a write waits with no drain; the spool drains the lowest generation page by page and ends with STATUS 3. What goes to
a descriptor is handed to the device's writes in order. The units that an advance has not reached yet are the payload of the event
by the model's choice (notes/assumptions/13.md), and the lowest active lane alone is the fault lane of a check made once for the
split by its reading (20.md). -/
def Obligations.GenerationsFollowTheirRules : Prop :=
  let field := fun (bs : List Byte) (o n : Nat) => ofBytes ((bs.drop o).take n)
  let may := fun (s : State) (g : Group) => s.gen.snapCtx.getLsbD g.ctx = true
  let holds := fun (s : State) (a n v : Nat) => ∀ k, k < n → s.byte (a + k) = BitVec.ofNat 8 (v / 256 ^ k)
  let goes := fun (q r : Split) => r.pc = q.resume.getD q.pc ∧ (r.wait = .held ∨ r.wait = .ready)
  let within := fun (a n : Nat) (x : Nat) => a ≤ x ∧ x < a + n
  let wrote := fun (g h : Group) (n : Nat) (q : Split) (dst : List (Nat × Nat)) (v : Nat) =>
    (∃ r, h.split n = some r ∧ goes q r) ∧ (∀ k, k ≠ n → h.split k = g.split k) ∧ h.flags = g.flags ∧
    ∀ l r, (h.thread l).reg r = if (l, r) ∈ dst ∧ g.dead.getLsbD l = false then word v else (g.thread l).reg r
  let bytes := fun (n v : Nat) => (List.range n).map fun k => BitVec.ofNat 8 (v / 256 ^ k)
  let queues := fun (s t : State) (ws : List (Nat × List Byte × Follow)) => t.mem = s.mem ∧ ∃ l, t.fly = { s.fly with writes := s.fly.writes ++ l } ∧
    l.map (fun y => (y.pa, y.bytes, y.follow)) = ws ∧ ∀ y ∈ l, y.add = false
  let legal := fun (bs : List Byte) =>
    let f := field bs
    let outward := fun (x : Nat) => x / 2 ^ 48 = 1 ∨ x / 2 ^ 48 = 2
    let incr := (f 2 2).testBit 1 = true
    f 0 2 = 1 ∧ f 2 2 < 8 ∧ (¬ incr → f 12 4 = 0) ∧ f 0x10 8 % 4096 = 0 ∧ f 0x10 8 < 2 ^ 40 ∧ f 0x18 8 % 4096 = 0 ∧
      f 0x10 8 + f 0x18 8 ≤ 2 ^ 40 ∧ (f 0x18 8 = 0 → f 0x20 8 = 0) ∧ (f 0x18 8 ≠ 0 → f 0x20 8 % 4096 = 0 ∧ outward (f 0x20 8)) ∧
      (incr → f 0x28 8 % 8 = 0 ∧ outward (f 0x28 8)) ∧ (¬ incr → f 0x28 8 = 0) ∧ f 0x38 8 % 8 = 0
  let ends := fun (s t : State) (gen st : Nat) => t.gen.cur = s.gen.cur ∧ t.gen.base = s.gen.base ∧
    t.gen.retained = s.gen.retained.filter (fun r => r.gen ≠ gen) ∧ t.gen.drains = s.gen.drains.filter (fun d => d.gen ≠ gen) ∧
    FMap.find t.gen.stat gen = some st ∧ ∀ f ∈ s.gen.shadows, (∃ r ∈ s.gen.retained, r.gen ≠ gen ∧ f.lo ≤ r.gen ∧ r.gen ≤ f.hi ∧
      ∀ x ∈ s.gen.retained, x.gen = r.gen → f.page ∉ x.passed) → f ∈ t.gen.shadows
  let signals := fun (s t : State) (r : GenRec) (pa st : Nat) => queues s t [(pa + 4, bytes 4 st, .signal r.ctx r.event)]
  let reachable := fun (s : State) (r : GenRec) (pa : Nat) => r.mute = false ∧ s.writeWaits r.ctx (r.va + 4) none = false ∧
    s.GrouplessAt (fun _ => False) r.ctx (r.va + 4) .store (pa + 4)
  (∀ f, let i := Instr.snap f
    let va := fun (s : State) (g : Group) (p : Split) => dword (uniformA s i g p)
    let tr := fun (s : State) (c : Cur) (g : Group) (p : Split) => (s.translate c.core g.ctx (va s g p) .load).1
    let read := fun (s : State) (c : Cur) (g : Group) (p : Split) (pa : Nat) (e : DWord) => may s g ∧ (va s g p).toNat % 64 = 0 ∧
      tr s c g p = .ok pa e ∧ s.earlier c (fun _ => true) = [] ∧ (s.isDevice pa = true → s.homeReads c.core (pa / 64) = true) ∧
        s.badLine (pa / 64) = false
    TrapsAt i (fun s _ g _ => ¬ may s g) 0x08 4 (fun _ _ _ _ => 0) ∧
    TrapsAt i (fun s _ g p => may s g ∧ (va s g p).toNat % 64 ≠ 0) 0x05 0 (fun s _ g p => va s g p) ∧
    (∀ code d, TrapsAt i (fun s c g p => may s g ∧ (va s g p).toNat % 64 = 0 ∧ tr s c g p = .trap code d) code d
      fun s _ g p => va s g p) ∧
    (∀ line, CompletesWhen i (fun s c g p => may s g ∧ (va s g p).toNat % 64 = 0 ∧ tr s c g p = .busy line) fun s c g p t h =>
      OnlyMoves s t c g h p ∧ h.flags = g.flags ∧
        ∃ q, h.split c.split = some q ∧ q.wait = .lines [(line, false)] ∧ q.resume = none ∧ q.pc = p.pc) ∧
    (∀ s c g p pa e l, Admitted s i c g p → (activeLanes g p).head? = some l → read s c g p pa e → ¬ legal (s.read pa 64) →
      ∃ u : State, u.mem = s.mem ∧ (∀ k j, u.group k j = s.group k j) ∧ u.fly.reqs = s.fly.reqs ∧
        exec i s = .next (u.takeTrap c.core c.gid c.split c.pc c.next { code := 0x01, detail := 2, elected := l, lanes := (1#32) <<< l, w0 := c.w0, w1 := c.w1 })) ∧
    ∀ pa e, CompletesWhen i (fun s c g p => read s c g p pa e ∧ legal (s.read pa 64)) fun s c g p t h =>
      OnlySplit g h c.split p ∧ h = { g with splits := h.splits, flags := h.flags, recent := h.recent, sync := h.sync } ∧ (∀ k, k ≠ 8 → h.flag k = g.flag k) ∧
      t.mem = s.mem ∧ t.gen = { s.gen with late := t.gen.late } ∧ t.fly = { s.fly with writes := t.fly.writes } ∧
      (∀ k j, (k, j) ≠ (c.core, c.gid) → t.group k j = s.group k j) ∧ ∃ q dst, h.split c.split = some q ∧
        q.wait = .snap (va s g p) (s.read pa 64) dst ∧ q.resume = some c.next ∧
        ∀ l r, (l, r) ∈ dst ↔ l ∈ lanesOf i g p ∧ r ∈ destRegs s i g l) ∧
  (∀ (s : State) (core gid n : Nat) (g : Group) (q : Split) (va : DWord) (bs : List Byte) (dst : List (Nat × Nat)) (late : List Nat),
    s.gen.advance = none → core ≠ 0xFFFF → s.group core gid = some g → g.split n = some q → q.wait = .snap va bs dst →
    let refused := s.gen.cur = 0xFFFFFFFF ∨ s.gen.cur = s.gen.base + 3 ∧ ∃ r ∈ s.gen.retained, r.gen = s.gen.base
    let ready := s.gen.cur < s.gen.base + 3 ∧ ∀ r ∈ s.fly.reqs, r.overtaken = true → r.done = true
    let unit := fun u => u < 2048 + 160 * 8 ∨ 4096 ≤ u ∧ u < 4096 + 16
    let f := field bs
    let served := fun (h : Group) => h = { g with splits := h.splits } ∧ h.split n = some { q with wait := .snapEnd dst } ∧
      ∀ k, k ≠ n → h.split k = g.split k
    (¬ refused → ¬ ready → exec (.snapAdvance core gid ⟨n, late⟩) s = .next s) ∧
    (¬ refused → ready → (∃ u ∈ late, unit u) → ∃ t, exec (.snapAdvance core gid ⟨n, late⟩) s = .next t ∧
      t = { s with gen := { s.gen with cur := s.gen.cur + 1, advance := t.gen.advance, late := t.gen.late } } ∧
      (∃ x, t.gen.advance = some x ∧ x.is core gid n = true ∧ x.rec_.gen = s.gen.cur ∧ x.rec_.va = va) ∧
      ∀ u, u ∈ t.gen.late ↔ u ∈ late ∧ unit u) ∧
    ∀ pa, va.toNat % 64 = 0 → s.writeWaits g.ctx va none = false →
      (∀ o ∈ [4, 8, 0x30], s.GrouplessAt (fun _ => False) g.ctx (va + dword o) .store (pa + o)) →
    (refused → ∃ t h, exec (.snapAdvance core gid ⟨n, late⟩) s = .next t ∧ t.group core gid = some h ∧ t.gen = s.gen ∧
      served h ∧ queues s t [(pa + 4, bytes 4 6, .snapDone core gid n 0)]) ∧
    (¬ refused → ready → (∀ u ∈ late, ¬ unit u) → f 0x10 8 % 4096 = 0 → f 0x18 8 % 4096 = 0 →
      ∃ t h, exec (.snapAdvance core gid ⟨n, late⟩) s = .next t ∧ t.group core gid = some h ∧
        t.gen.base = s.gen.base ∧ t.gen.cur = s.gen.cur + 1 ∧ t.gen.advance = none ∧ t.gen.late = [] ∧
        served h ∧ queues s t [(pa + 0x30, bytes 8 0, .nothing), (pa + 8, bytes 4 s.gen.cur, .nothing),
          (pa + 4, bytes 4 (if f 0x18 8 = 0 then 1 else 2), .snapDone core gid n (s.gen.cur + 1))] ∧
        ∃ r, t.gen.retained = s.gen.retained ++ [r] ∧ r.gen = s.gen.cur ∧ r.ctx = g.ctx ∧ r.va = va ∧
          r.status = (if f 0x18 8 = 0 then 1 else 2) ∧ r.abandon = (f 2 2).testBit 0 ∧ r.incr = (f 2 2).testBit 1 ∧
          r.autodrop = (f 2 2).testBit 2 ∧ r.baseGen = f 12 4 ∧ r.rbase = f 0x10 8 ∧ r.rlen = f 0x18 8 ∧ r.dest = f 0x20 8 ∧
          r.index = f 0x28 8 ∧ r.event = dword (f 0x38 8) ∧ r.drained = 0 ∧ r.errPages = 0 ∧
          (f 0x18 8 = 0 → t.gen.drains = s.gen.drains) ∧ (f 0x18 8 ≠ 0 → ∃ d, t.gen.drains = s.gen.drains ++ [d] ∧ d.gen = r.gen ∧
            ∀ p, let inside := r.rbase ≤ 4096 * p ∧ 4096 * p < r.rbase + r.rlen ∧ (r.incr = true → r.baseGen < s.gen.imageGen p r.gen)
              (p ∈ d.left0 ↔ inside ∧ homeDie (4096 * p) ∈ [0, 1, 4, 5]) ∧ (p ∈ d.left1 ↔ inside ∧ homeDie (4096 * p) ∉ [0, 1, 4, 5])))) ∧
  (∀ (s : State) (core gid n v : Nat) (g : Group) (q : Split) (dst : List (Nat × Nat)), s.group core gid = some g →
    g.split n = some q → q.wait = .snapEnd dst → ∃ h, (s.follow (.snapDone core gid n v)).group core gid = some h ∧
      wrote g h n q dst v ∧ (s.follow (.snapDone core gid n v)).mem = s.mem) ∧
  (∀ (s : State) (k n : Nat) (late : List Nat) (o : Orphan), s.gen.advance = none → s.gen.orphans[k]? = some o →
    s.gen.cur < s.gen.base + 3 → s.gen.cur < 0xFFFFFFFF → (∀ r ∈ s.fly.reqs, r.overtaken = true → r.done = true) →
    (∃ u ∈ late, u < 2048) → ∃ t x, exec (.snapAdvance 0xFFFF k ⟨n, late⟩) s = .next t ∧ t.gen.cur = s.gen.cur + 1 ∧ t.mem = s.mem ∧
      t.gen.orphans = s.gen.orphans.eraseIdx k ∧ t.gen.advance = some x ∧ x.rec_.gen = s.gen.cur ∧ x.rec_.ctx = o.ctx ∧
      x.rec_.va = o.va) ∧
  (∀ (s : State) (core gid n : Nat) (late : List Nat) (x : Advance), s.gen.advance = some x →
    (x.is core gid n = false → exec (.snapAdvance core gid ⟨n, late⟩) s = .next s) ∧
    (x.is core gid n = true → (∃ u ∈ s.gen.late, u ∈ late) → exec (.snapAdvance core gid ⟨n, late⟩) s =
      .next { s with gen := { s.gen with late := s.gen.late.filter late.contains } }) ∧
    ∀ pa, x.is core gid n = true → (∀ u ∈ s.gen.late, u ∉ late) → (x.rec_.mute = true ∨
        x.rec_.va.toNat % 64 = 0 ∧ s.writeWaits x.rec_.ctx x.rec_.va none = false ∧
        ∀ o ∈ [4, 8, 0x30], s.GrouplessAt (fun _ => False) x.rec_.ctx (x.rec_.va + dword o) .store (pa + o)) →
      ∃ t, exec (.snapAdvance core gid ⟨n, late⟩) s = .next t ∧ t.mem = s.mem ∧ t.gen.cur = s.gen.cur ∧ t.gen.advance = none ∧
        t.gen.late = [] ∧ t.gen.retained = s.gen.retained ++ [x.rec_]) ∧
  (∀ (i : Instr) (v : State → Nat → Nat),
    ((∃ f, i = .snapqState f ∧ v = fun s n => if n < s.gen.base ∨ s.gen.cur ≤ n then 0 else
        ((s.gen.retained.find? fun r => r.gen == n).map (·.status)).getD ((FMap.find s.gen.stat n).getD 0)) ∨
      (∃ f, i = .snapqCur f ∧ v = fun s _ => s.gen.cur) ∨ (∃ f, i = .snapqBase f ∧ v = fun s _ => s.gen.base) ∨
      (∃ f, i = .snapqFree f ∧ v = fun s _ => s.gen.poolGib * 2 ^ 18 - s.gen.shadows.length)) →
    Completes i fun s c g p t h => OnlyGroup s t c.core c.gid ∧ WritesOne s i c g h p (dword (v s (uniformA s i g p)))) ∧
  (∀ f, let i := Instr.snapdrop f
    let n := fun (s : State) (g : Group) (p : Split) => uniformA s i g p
    TrapsAt i (fun s _ g _ => ¬ may s g) 0x08 4 (fun _ _ _ _ => 0) ∧
    CompletesWhen i (fun s _ g p => may s g ∧ ∀ r ∈ s.gen.retained, r.gen ≠ n s g p) (fun s c g p t h =>
      OnlyGroup s t c.core c.gid ∧ WritesOne s i c g h p 0) ∧
    ∀ r pa, CompletesWhen i (fun s _ g p => may s g ∧ s.gen.retained.find? (fun r => r.gen == n s g p) = some r ∧
      reachable s r pa) fun s c g p t h => WritesOne s i c g h p (dword r.status) ∧ ends s t (n s g p) 5 ∧ signals s t r pa 5) ∧
  (∀ s : State, let sweeps := s.gen.base < s.gen.cur ∧ (∀ r ∈ s.gen.retained, r.gen ≠ s.gen.base) ∧
      ∀ x, s.gen.advance = some x → x.rec_.gen ≠ s.gen.base
    (¬ sweeps → exec .generationSweep s = .next s) ∧
    (sweeps → (s.gen.tag.map (·.1)).Nodup → ∃ t, exec .generationSweep s = .next t ∧
      t = { s with gen := { s.gen with base := s.gen.base + 1, tag := t.gen.tag, tagLost := t.gen.tagLost } } ∧
      ∀ p, t.gen.tagOf p = Nat.max (s.gen.base + 1) (s.gen.tagOf p))) ∧
  (∀ (s : State) (e : Nat), let left := fun (d : Drain) => if e = 0 then d.left0 else d.left1
    ((∀ d ∈ s.gen.drains, left d = []) → exec (.spoolDrainPage e) s = .next s) ∧
    ∀ (d : Drain) (r : GenRec) (page : Nat) (rest : List Nat) (pa : Nat), d ∈ s.gen.drains → left d = page :: rest → page ∉ rest →
      (∀ x ∈ s.gen.drains, x ≠ d → d.gen < x.gen ∨ x.gen < d.gen ∧ left x = []) →
      r ∈ s.gen.retained → r.gen = d.gen → (∀ x ∈ s.gen.retained, x.gen = r.gen → x = r) →
      let rank := d.included.idxOf page
      let target := if r.incr then r.dest + 4096 * rank else r.dest + (page * 4096 - r.rbase)
      let index := r.index + 8 * rank
      let frame := s.gen.shadows.find? fun f => f.page == page && decide (f.lo ≤ r.gen ∧ r.gen ≤ f.hi)
      let image := fun (k : Nat) => match frame with | some f => s.byte (f.frame * 4096 + k) | none => s.byte (page * 4096 + k)
      let bad := fun (k : Nat) => match frame with
        | some f => k ∈ f.bad ∨ k < 64 ∧ s.badLine (f.frame * 64 + k) = true
        | none => k < 64 ∧ s.badLine (page * 64 + k) = true
      let hit := fun (a : Nat) => within target 4096 a ∨ r.incr = true ∧ within index 8 a
      (s.recallable page = false → exec (.spoolDrainPage e) s = .next s) ∧
      (s.recallable page = true → r.mute = false → s.writeWaits r.ctx (r.va + 0x30) none = false → s.GrouplessAt hit r.ctx (r.va + 0x30) .store pa →
      s.isDevice target = false → (r.incr = true → s.isDevice index = false) → (s.coh.dir.map (·.1)).Nodup →
      (∀ k, bad k → k < 64) → (r.incr = true → target + 4096 ≤ index ∨ index + 8 ≤ target) →
      ∃ t errors, exec (.spoolDrainPage e) s = .next t ∧ ((∃ k, bad k) → errors = r.errPages + 1) ∧
        ((∀ k, ¬ bad k) → errors = r.errPages) ∧ (∀ k, k < 4096 → t.byte (target + k) = image k) ∧
        (∀ k, bad k → target / 64 + k ∈ t.poisoned) ∧ (r.incr = true → holds t index 8 (page * 4096)) ∧
        (∃ w, t.fly = { s.fly with writes := s.fly.writes ++ [w] } ∧ w.pa = pa ∧ w.add = false ∧
          w.bytes = bytes 4 (r.drained + 1) ++ bytes 4 errors) ∧
        (∀ l, l / 64 = page → (t.entry l).owned = false) ∧
        (∀ a, ¬ hit a → t.byte a = s.byte a) ∧ t.gen.cur = s.gen.cur ∧ t.gen.base = s.gen.base ∧
        t.gen.retained = s.gen.retained.map (fun x => if x.gen = r.gen then
          { r with drained := r.drained + 1, errPages := errors, passed := r.passed ++ [page] } else x) ∧
        ∃ x ∈ t.gen.drains, x.gen = d.gen ∧ x.included = d.included ∧ (if e = 0 then x.left0 = rest ∧ x.left1 = d.left1 else
          x.left0 = d.left0 ∧ x.left1 = rest))) ∧
  (∀ (s : State) (w : FrameWait) (pa : GenRec → Nat), s.gen.copyWait = [w] → s.stillWaits w = true →
    let t := s.settleFrames
    (w.tried = false → (s.gen.retained.map (·.gen)).Nodup → (∀ r ∈ s.gen.retained, r.abandon = true → reachable s r (pa r)) →
      t.mem = s.mem ∧ t.gen.retained = s.gen.retained.filter (fun r => !r.abandon) ∧
      (∀ r ∈ s.gen.retained, r.abandon = true → FMap.find t.gen.stat r.gen = some 4 ∧
        ∃ y ∈ t.fly.writes, y.pa = pa r + 4 ∧ y.bytes = bytes 4 4 ∧ y.add = false ∧ y.follow = .signal r.ctx r.event) ∧
      (∀ d, d ∈ t.gen.drains ↔ d ∈ s.gen.drains ∧ ∀ r ∈ s.gen.retained, r.abandon = true → r.gen ≠ d.gen) ∧
      ((∀ r ∈ s.gen.retained, r.abandon = true) → s.gen.advance = none → t.gen.pressed = false)) ∧
    (w.tried = true → s.frameShort w = true → s.gen.pressed = true → t = s) ∧
    (w.tried = true → s.frameShort w = true → s.undrained w.page = true → s.gen.pressed = false →
      t = { s.post 0x06 0 0 w.ctx w.core (dword (w.page * 4096)) 0 with gen := { s.gen with pressed := true } })) ∧
  (∀ (s : State) (n : Nat) (d : Drain) (r : GenRec), s.gen.drains.find? (fun d => d.gen == n) = some d →
    s.gen.retained.find? (fun r => r.gen == n) = some r →
    (d.left0 ≠ [] ∨ d.left1 ≠ [] → exec (.spoolDrainCompletion n) s = .next s) ∧
    (d.left0 = [] → d.left1 = [] → ∃ t, exec (.spoolDrainCompletion n) s = .next t ∧
      t.gen.drains = s.gen.drains.filter (fun d => d.gen ≠ n) ∧
      (r.autodrop = true → t.gen.retained = s.gen.retained.filter (fun r => r.gen ≠ n) ∧ FMap.find t.gen.stat n = some 5) ∧
      (r.autodrop = false → t.gen.retained = s.gen.retained.map (fun x => if x.gen = n then { x with status := 3 } else x) ∧
        ∀ pa, reachable s r pa → signals s t r pa 3)) ∧
    ∃ t u, exec (.spoolDrainAbandon n) s = .next t ∧ t = u.post 0x0B 0 0 r.ctx 0xFFFF r.va 0 ∧ ends s t n 4 ∧
      ∀ pa, reachable s r pa → signals s u r pa 4)

/-- R67, R68, R410 to R416, R422 to R424: the table instructions check their operands' values, run in a system context alone and
release first; `tlbinv` removes the named translations of the instance's TLBs and waits for their users, writes of the device and
accesses outside it among them; `biasset` requests flips, `migack` advances MIGTAIL; a write of SPLREQ splinters a large leaf; and
`pmc` reads, selects and clears counters, unless the owner has written the register in the same cycle. Every event of a cycle is
added at its end to each counter whose selection and filter it meets, the cycle's own among them; what counts an issue is its
split, one execution under U, and the cycles in which its threads occupy the track. That the lowest active
lane alone is the fault lane of these checks, and their order, is the model's reading (notes/assumptions/20.md). -/
def Obligations.TablesAndCounters : Prop :=
  let sys := fun (s : State) (g : Group) => s.xl.ctxBase ≠ 0 ∧ (s.readN (s.xl.ctxBase.toNat + 16 * g.ctx + 8) 4).testBit 1 = true
  let a := fun (s : State) (i : Instr) (g : Group) (p : Split) => (uniformIn s i g p).a
  let b := fun (s : State) (i : Instr) (g : Group) (p : Split) => (uniformIn s i g p).b
  let n := fun (s : State) (i : Instr) (g : Group) (p : Split) => (uniformIn s i g p).c
  let first := fun (i : Instr) (g : Group) (p : Split) => p.only = none ∧ firstLane i g p ≠ none
  let ready := fun (s : State) (i : Instr) (c : Cur) (g : Group) (p : Split) => first i g p ∧ sys s g ∧ s.earlier c (fun _ => true) = []
  let zero := fun (_ : State) (_ : Cur) (_ : Group) (_ : Split) => (0 : DWord)
  let stays := fun (c : Cur) (g h : Group) (p : Split) => OnlySplit g h c.split p ∧
    h = { g with splits := h.splits, flags := h.flags, recent := h.recent, sync := h.sync } ∧ ∀ k, k ≠ 8 → h.flag k = g.flag k
  let through := fun (s t : State) (ctx : Nat) (va : DWord) => s.xl.tlb.any fun e => !t.xl.tlb.contains e && e.ctx == ctx &&
    decide (e.vpn ≤ vpnOf va) && decide (vpnOf va < e.vpn + e.pages)
  let usersOf := fun (s t : State) (used : Nat → DWord → Bool) (whole : Nat → Bool) =>
    let at_ := fun (ctx : Nat) (va : DWord) => used ctx va || through s t ctx va
    let theirs := fun (ctx : Nat) => whole ctx || s.xl.tlb.any fun e => !t.xl.tlb.contains e && e.ctx == ctx
    (s.fly.reqs.filter fun r => r.accs.any fun y => !y.performed && at_ r.ctx y.va).map (·.id) ++
      (s.fly.writes.filter fun w => w.ctx.any (at_ · w.va)).map (·.id) ++
      (s.fly.copies.filter fun y => y.sent.isSome && y.outside.isNone && theirs y.ctx).map (2 ^ 64 + ·.id) ++
      (s.fly.pmmas.filter fun y => y.sent.isSome && theirs y.ctx).map (2 ^ 64 + ·.id)
  let invalidates := fun (i : Instr) (scope : Nat) (values legal : State → Group → Split → Prop) (names : State → Group → Split → TlbEntry → Prop)
      (uses : State → Group → Split → Nat → DWord → Bool) (whole : State → Group → Split → Nat → Bool) =>
    TrapsAt i (fun s _ g p => first i g p ∧ ¬ values s g p) 0x01 3 zero ∧
    TrapsAt i (fun s _ g p => first i g p ∧ values s g p ∧ ¬ sys s g) 0x08 0 zero ∧
    CompletesWhen i (fun s c g p => first i g p ∧ sys s g ∧ legal s g p ∧ s.earlier c (fun _ => true) ≠ []) (fun s c _ p t h =>
      t = { s with cores := t.cores } ∧ ∃ q, h.split c.split = some q ∧ q.pc = p.pc ∧ q.resume = none ∧
        q.wait = .requests (s.earlier c fun _ => true)) ∧
    CompletesWhen i (fun s c g p => ready s i c g p ∧ legal s g p) fun s c g p t h =>
      let users := usersOf s t (uses s g p) (whole s g p)
      t = { s with cores := t.cores, xl := { s.xl with tlb := t.xl.tlb } } ∧ OtherGroups s t c.core c.gid ∧ stays c g h p ∧
      (∀ e, e.level ≤ 2 → (e ∈ t.xl.tlb ↔ e ∈ s.xl.tlb ∧ ¬ (names s g p e ∧
        ∃ k, (scope = 2 → k = c.core) ∧ (scope = 3 → k / 16 = c.core / 16) ∧ (scope = 4 → k / 256 = c.core / 256) ∧
          e.unit = if e.level = 0 then k else if e.level = 1 then k / 16 else k / 256))) ∧
      (users = [] → WentOn h c) ∧
      (users ≠ [] → ∃ q, h.split c.split = some q ∧ q.resume = some c.next ∧ q.wait = .requests users)
  (∀ f, let i := Instr.tlbinvRange f
    let page := fun (s : State) (g : Group) (p : Split) => a s i g p / 4096 % 2 ^ 45
    let inRange := fun (s : State) (g : Group) (p : Split) => n s i g p ≤ 63 ∧ b s i g p ≤ 2 ^ 20
    let canon := fun (s : State) (g : Group) (p : Split) => a s i g p / 2 ^ 56 = 0 ∨ a s i g p / 2 ^ 56 = 255
    TrapsAt i (fun s _ g p => first i g p ∧ sys s g ∧ inRange s g p ∧ ¬ canon s g p) 0x08 1 (fun s _ g p => dword (a s i g p)) ∧
    invalidates i f.escope inRange (fun s g p => inRange s g p ∧ canon s g p)
      (fun s g p e => e.ctx = n s i g p ∧ e.vpn < page s g p + b s i g p ∧ page s g p < e.vpn + e.pages ∧ 0 < b s i g p)
      (fun s g p ctx va => decide (ctx = n s i g p ∧ page s g p ≤ vpnOf va ∧ vpnOf va < page s g p + b s i g p))
      fun s g p ctx => decide (ctx = n s i g p ∧ 0 < b s i g p)) ∧
  (∀ f, let i := Instr.tlbinvCtx f
    invalidates i f.escope (fun s g p => n s i g p ≤ 63) (fun s g p => n s i g p ≤ 63) (fun s g p e => e.ctx = n s i g p ∧ e.pte.getLsbD 10 = false)
      (fun s g p ctx _ => ctx == n s i g p) fun s g p ctx => ctx == n s i g p) ∧
  (∀ f, invalidates (.tlbinvAll f) f.escope (fun _ _ _ => True) (fun _ _ _ => True) (fun _ _ _ _ => True) (fun _ _ _ _ _ => true)
    fun _ _ _ _ => true) ∧
  (∀ (i : Instr) (host : Bool), ((∃ f, i = .biassetHost f ∧ host = true) ∨ (∃ f, i = .biassetDev f ∧ host = false)) →
    let pages := fun (s : State) (g : Group) (p : Split) =>
      ((List.range (b s i g p)).map fun k => a s i g p / 4096 + k).filter fun q => s.biasBit q != host
    let addr := fun (s : State) (_ : Cur) (g : Group) (p : Split) => dword (a s i g p)
    let past := fun (s : State) (g : Group) (p : Split) => b s i g p ≠ 0 ∧ 2 ^ 40 < a s i g p + 4096 * b s i g p
    let legal := fun (s : State) (g : Group) (p : Split) => b s i g p ≤ 65536 ∧ a s i g p % 4096 = 0 ∧ ¬ past s g p
    TrapsAt i (fun s _ g p => first i g p ∧ 65536 < b s i g p) 0x01 3 zero ∧
    TrapsAt i (fun s _ g p => first i g p ∧ b s i g p ≤ 65536 ∧ a s i g p % 4096 ≠ 0) 0x05 0 addr ∧
    TrapsAt i (fun s _ g p => first i g p ∧ b s i g p ≤ 65536 ∧ a s i g p % 4096 = 0 ∧ ¬ sys s g) 0x08 0 zero ∧
    TrapsAt i (fun s _ g p => first i g p ∧ sys s g ∧ b s i g p ≤ 65536 ∧ a s i g p % 4096 = 0 ∧ past s g p) 0x08 6 addr ∧
    CompletesWhen i (fun s c g p => ready s i c g p ∧ legal s g p ∧ b s i g p = 0) (fun s c g p t h =>
      OnlyMoves s t c g h p ∧ WentOn h c) ∧
    CompletesWhen i (fun s c g p => ready s i c g p ∧ legal s g p ∧ b s i g p ≠ 0 ∧ pages s g p = []) (fun s c g p t h =>
      OnlyGroup s t c.core c.gid ∧ WritesOne s i c g h p 0) ∧
    CompletesWhen i (fun s c g p => ready s i c g p ∧ legal s g p ∧ pages s g p ≠ []) fun s c g p t h =>
      stays c g h p ∧ OtherGroups s t c.core c.gid ∧ ∃ q dst fs, h.split c.split = some q ∧ q.resume = some c.next ∧
        q.wait = .flips host (pages s g p) (pages s g p).length dst ∧
        (∀ l r, (l, r) ∈ dst ↔ l ∈ lanesOf i g p ∧ r ∈ destRegs s i g l) ∧
        t = { s with cores := t.cores, coh := { s.coh with flips := s.coh.flips ++ fs } } ∧ fs.map (·.page) = pages s g p ∧
        ∀ x ∈ fs, x.toHost = host ∧ ∀ l, l ∈ x.waitingLines ↔ host = false ∧ l / 64 = x.page) ∧
  (∀ f, let i := Instr.migack f
    TrapsAt i (fun s _ g p => first i g p ∧ 7 < a s i g p) 0x01 3 zero ∧
    TrapsAt i (fun s _ g p => first i g p ∧ a s i g p ≤ 7 ∧ ¬ sys s g) 0x08 0 zero ∧
    CompletesWhen i (fun s c g p => ready s i c g p ∧ a s i g p ≤ 7) fun s c g p t h =>
      let d := s.die (a s i g p)
      let tail := d.migTail + word (Nat.min (b s i g p) (d.migHead - d.migTail).toNat)
      t = { s with cores := t.cores, coh := { s.coh with dies := t.coh.dies } } ∧ OtherGroups s t c.core c.gid ∧
      t.die (a s i g p) = { d with migTail := tail } ∧ (∀ k, k ≠ a s i g p → t.die k = s.die k) ∧
      WritesOne s i c g h p (tail.setWidth 64)) ∧
  (∀ v : BitVec 64, OwnersWrite (fun m => .splreqWrite m v) 0x638 fun s t =>
    let ctx := s.xl.splCtx.toNat % 64
    let valid := s.xl.ctxBase ≠ 0 ∧ (s.readN (s.xl.ctxBase.toNat + 16 * ctx + 8) 4).testBit 0 = true ∧
      (v.toNat / 2 ^ 56 = 0 ∨ v.toNat / 2 ^ 56 = 255)
    let use := (ctx, s.xl.splBase)
    let only := fun (r : Word) => t = { s with xl := { s.xl with splReq := v, splUse := use, splStat := r, splOpen := false } }
    let waits := t = { s with xl := { s.xl with splReq := v, splUse := use, splStat := 0x80000000, splOpen := true } }
    let frame := s.readN (s.xl.splBase.toNat + 8 * (s.xl.splCnt - 1).toNat) 8
    (s.xl.splStat.getLsbD 31 = true → t = s) ∧
    (s.xl.splStat.getLsbD 31 = false → (¬ valid ∨ (∀ line, s.leaf ctx v ≠ .busy line ∧ s.leaf ctx v ≠ .poisoned line) ∧
      ∀ e at_ level, s.leaf ctx v = .found e at_ level → level = 1) → only 2) ∧
    (∀ line, s.xl.splStat.getLsbD 31 = false → valid → s.leaf ctx v = .poisoned line →
      t = { s.detect line with xl := { s.xl with splReq := v, splUse := use, splStat := 2, splOpen := false } }) ∧
    (∀ line, s.xl.splStat.getLsbD 31 = false → valid → s.leaf ctx v = .busy line → waits) ∧
    ∀ e at_ level, s.xl.splStat.getLsbD 31 = false → valid → s.leaf ctx v = .found e at_ level → level ≠ 1 →
      (s.xl.splCnt = 0 → only 1) ∧
      (s.xl.splCnt ≠ 0 → s.lostStack frame = false → frame % 4096 = 0 → (∃ l, l / 64 = frame / 4096 ∧ s.lineFree l = false) → waits) ∧
      (s.xl.splCnt ≠ 0 → frame % 4096 = 0 → frame < 2 ^ 40 → (at_ + 8 ≤ frame ∨ frame + 4096 ≤ at_) →
        s.lostStack frame = false → s.lostStack at_ = false → (∀ l, l / 64 = frame / 4096 ∨ l ∈ linesIn at_ 8 → s.lineFree l = true ∧ s.earlyFree l = true) →
        (s.xl.biasBase.toNat + at_ / 32768 + 1 < frame ∨ frame + 4096 ≤ s.xl.biasBase.toNat + at_ / 32768) → s.gen.keeps = [] →
        t.cores = s.cores ∧ t.fly = s.fly ∧ t.xl.splCnt = s.xl.splCnt - 1 ∧ t.xl.splReq = v ∧
        (∀ k, k < 512 → let x := dword (t.readN (frame + 8 * k) 8)
          pteFrame x = pteFrame e + k * leafSize (level - 1) ∧ x.getLsbD 52 = decide (level = 3) ∧ x.getLsbD 11 = decide (level = 2) ∧
          (∀ j, j < 11 → x.getLsbD j = e.getLsbD j) ∧ ∀ j, 52 < j → x.getLsbD j = false) ∧
        t.readN at_ 8 = frame + 1 ∧
        (∀ k, (k < frame ∨ frame + 4096 ≤ k) → (k < at_ ∨ at_ + 8 ≤ k) → t.byte k = s.byte k) ∧
        let size := leafSize level / 4096
        let from_ := vpnOf v / size * size
        let users := usersOf s t (fun k va => decide (k = ctx ∧ from_ ≤ vpnOf va ∧ vpnOf va < from_ + size)) (· == ctx)
        (∀ x, x ∈ t.xl.tlb ↔ x ∈ s.xl.tlb ∧ ¬ (x.ctx = ctx ∧ x.vpn < from_ + size ∧ from_ < x.vpn + x.pages)) ∧
        (users = [] → t.xl.splStat = 0) ∧ (users ≠ [] → t.xl.splStat = 0x80000000 ∧ t.xl.splWait = users))) ∧
  (∀ f, let i := Instr.pmcRd f
    Completes i fun s c g p t h => OnlyGroup s t c.core c.gid ∧
      WritesOne s i c g h p (FMap.get 0#64 (s.core c.core).pmcCnt f.a.f.toNat)) ∧
  (∀ k : CoreSt, let l := k.cycle
    let counts := fun (sel : Word) (e : Nat × Nat × Option Nat) => sel.toNat % 256 = e.1 ∧ e.1 ≠ 0 ∧ e.1 ≤ 0x10 ∧
      (sel.getLsbD 14 = false ∨ e.2.2 = none ∨ e.2.2 = some (sel.toNat / 256 % 64))
    l = { k with pmcNow := [], pmcOwner := [], pmcCnt := l.pmcCnt, groups := l.groups, deadline := l.deadline } ∧
    ∀ i, i < 8 → FMap.get 0#64 l.pmcCnt i = (k.pmcNow ++ [(0x01, 1, none)]).foldl
      (fun n e => if counts (FMap.get 0#32 k.pmcSel i) e then n + BitVec.ofNat 64 e.2.1 else n) (FMap.get 0#64 k.pmcCnt i)) ∧
  (∀ s : State, s.fly.pmmas = [] → s.fly.swaps = [] → s.fly.scratch = [] →
    s.tick = { s with clk := s.clk.cycle, cores := s.cores.map fun e => (e.1, e.2.cycle) }) ∧
  (∀ (s : State) (c : Cur) (g : Group) (p : Split) (i : Instr) (n : Nat), 0 < n → let cost := occupancy i g n
    let old := (s.core c.core).pmcNow
    let issued := [(0x02, 1, some g.ctx)] ++ if uniform i = true ∧ uchk g = false then [(0x04, 1, some g.ctx)] else []
    let held := if i.info.tm = .p ∨ i.info.tm = .c then [] else [(0x03, cost, some g.ctx)]
    ((s.issue c g p i n).core c.core).pmcNow = old ++ (if p.issued = true then [] else issued) ++ held) ∧
  ∀ (i : Instr) (sel : Bool) (k : Nat), ((∃ f, i = .pmcSel f ∧ sel = true ∧ k = f.a.f.toNat) ∨
      (∃ f, i = .pmcClr f ∧ sel = false ∧ k = f.a.f.toNat)) →
    let may := fun (s : State) (c : Cur) (g : Group) => (s.core c.core).pmcCtx.getLsbD g.ctx = true
    let v := fun (s : State) (g : Group) (p : Split) => word (b s i g p)
    let legal := fun (s : State) (g : Group) (p : Split) => sel = true → (v s g p).toNat < 2 ^ 15 ∧ (v s g p).toNat % 256 ≤ 0x10
    TrapsAt i (fun s c g p => legal s g p ∧ ¬ may s c g) 0x08 4 zero ∧
    TrapsAt i (fun s _ g p => ¬ legal s g p) 0x01 3 zero ∧
    CompletesWhen i (fun s c g p => may s c g ∧ legal s g p) fun s c g p t h =>
      let x := t.core c.core
      t = { s with cores := t.cores } ∧ OtherGroups s t c.core c.gid ∧ stays c g h p ∧ WentOn h c ∧
      x = { s.core c.core with
        groups := x.groups, tracks := x.tracks, pmcNow := x.pmcNow, pmcCnt := x.pmcCnt, pmcSel := x.pmcSel } ∧
      let owners := (s.core c.core).pmcOwner.contains (if sel = true then k else 8 + k) = true
      (∀ j, FMap.get 0#32 x.pmcSel j = if sel = true ∧ j = k ∧ ¬ owners then v s g p else FMap.get 0#32 (s.core c.core).pmcSel j) ∧
      ∀ j, FMap.get 0#64 x.pmcCnt j = if sel = false ∧ j = k ∧ ¬ owners then 0 else FMap.get 0#64 (s.core c.core).pmcCnt j

/-- R24, R40, R235 to R239, R375 to R384, R393, R396, R465: the launch unit takes the head entry of the highest live class,
refuses it, skips it, or accepts it and deals its units; a workgroup is placed where it fits, with zeroed pans and its threads'
identities; a node batch takes the oldest records; what has ended retires; and the track chooses among its ready splits. That a
team numbers its node workgroups from 0 is the model's choice (notes/assumptions/9.md). -/
def Obligations.LaunchesArePlacedAndScheduled : Prop :=
  let status := fun (s t : State) (pa st : Nat) (after : Follow) => t.mem = s.mem ∧ ∃ w, t.fly = { s.fly with writes := s.fly.writes ++ [w] } ∧
    w.pa = pa + 4 ∧ w.bytes = (List.range 4).map (fun k => BitVec.ofNat 8 (st / 256 ^ k)) ∧ w.add = false ∧ w.follow = after
  let answer := fun (y : LaunchRec) => if y.ctx ≤ 63 then Follow.signal y.ctx y.done else .nothing
  let sized := fun (w : Word) => 16 ≤ w.toNat ∧ w.toNat ≤ 65536 ∧ w &&& (w - 1) = 0
  let ownerLive := fun (r : Ring) => r.obase ≠ 0 ∧ sized r.osize ∧ r.owptr ≠ r.orptr
  let deviceLive := fun (r : Ring) => r.dbase ≠ 0 ∧ sized r.dsize ∧ r.dwptr ≠ r.drptr
  let live := fun (s : State) (c : Nat) => ownerLive (s.ring c) ∨ deviceLive (s.ring c)
  let working := fun (s : State) (l : Nat) (x : Launch) => x.gridLeft ≠ 0 ∨ x.away ≠ [] ∨ ∃ e ∈ s.wgs, e.2.launch = l
  let onlyQ := fun (s t : State) => t = { s with q := t.q }
  let owned := fun (s : State) (core : Nat) => ∀ p, p < 32 → (s.core core).owner p < 0x80 ∨ (s.core core).owner p = 0xFE ∨
    (s.core core).owner p = 0xFF
  let room := fun (s : State) (core : Nat) (key : RegroupKey) (ctx : Nat) (h : Header) (groups : Nat) =>
    let here := s.wgs.filter fun e => e.2.core = core
    s.regrouping core key = false ∧ s.coh.quar.getLsbD (core / 256) = false ∧ ((s.core core).yreqV = true → (s.core core).yreqCtx ≠ ctx) ∧ here.length < 128 ∧
      (here.map fun e => (s.launchHdr e.2.launch).barriers).sum + h.barriers ≤ 256 ∧
      (s.core core).ownedPans + ((h.scratch + 16383) / 16384 + h.cpans) + Nat.max (s.l1Target core) h.lpans ≤ 32 ∧
      (assignTracks h.groupBytes groups (s.loads core)).isSome = true
  let placed := fun (s t : State) (core l : Nat) (x : Launch) (w : Wg) (wk n tid0 : Nat) (entry : DWord) =>
    s.wg wk = none ∧ t.wg wk = some w ∧ w.launch = l ∧ w.ctx = x.lr.ctx ∧ w.core = core ∧
    w.storage.length = (x.hdr.scratch + 16383) / 16384 ∧ w.compute.length = x.hdr.cpans ∧ (w.storage ++ w.compute).Nodup ∧
    w.zeroing = some (s.clk.clock + if x.hdr.scratch = 0 ∧ x.hdr.cpans = 0 then 0 else 64) ∧
    (∀ p ∈ w.storage ++ w.compute, p < 32 ∧ 0x80 ≤ (s.core core).owner p ∧ (t.core core).owner p = w.slot ∧
      (t.core core).panState p = 0) ∧
    ∀ pos, pos < (n + 31) / 32 → ∃ gid g q, s.group core gid = none ∧ t.group core gid = some g ∧ g.launch = l ∧
      g.wgpos = pos ∧ g.phase = .placed ∧ g.split 0 = some q ∧ q.pc = entry ∧ q.active = ~~~g.dead ∧
      ∀ k, k < 32 → (g.dead.getLsbD k = decide (n ≤ 32 * pos + k)) ∧ (g.thread k).tid = word (tid0 + 32 * pos + k) ∧
        (g.thread k).wg = wk ∧ ∀ r, (g.thread k).reg r = 0
  (∀ (cls : Nat) (v : BitVec 32), (∀ s m, 8 ≤ cls → exec (.owptrWrite m cls v) s = .next s) ∧
    (cls < 8 → OwnersWrite (fun m => .owptrWrite m cls v) (0x40C + 0x40 * cls) fun s t =>
      ((s.ring cls).osize < v - (s.ring cls).orptr → t = s) ∧
      (¬ (s.ring cls).osize < v - (s.ring cls).orptr → onlyQ s t ∧ t.q = { s.q with rings := t.q.rings } ∧
        t.ring cls = { s.ring cls with owptr := v } ∧ ∀ k, k ≠ cls → t.ring k = s.ring k))) ∧
  (∀ s : State, ((∀ c, c < 8 → ¬ live s c) → exec .launchRingTake s = .next s) ∧
    ∀ c, c < 8 → live s c → (∀ d, d < 8 → c < d → ¬ live s d) →
      let waits := (∃ e ∈ s.q.launches, ∃ n, e.2.st = .pending (some n) ∧ c ≤ e.2.prio) ∨
        256 ≤ (s.q.launches.filter fun e => e.2.st == .reading || match e.2.st with | .pending _ => true | _ => false).length
      let r := s.ring c
      (waits → exec .launchRingTake s = .next s) ∧
      ∀ owner, ¬ waits → (owner = true ↔ ownerLive r ∧ ¬ (deviceLive r ∧ r.devNext = true)) →
        let slot := if owner then r.obase.toNat + 8 * (r.orptr.toNat % r.osize.toNat) else r.dbase.toNat + 8 * (r.drptr.toNat % r.dsize.toNat)
        let e := s.readN (s.memKey slot) 8
        let y := launchRec (s.read (s.memKey e) 128)
        let bad := e % 128 ≠ 0 ∨ s.target e = .nothing ∨ s.isDevice e = true ∧
          (s.badLine (s.memKey e / 64) = true ∨ s.badLine (s.memKey e / 64 + 1) = true)
        let context := s.xl.ctxBase ≠ 0 ∧ (s.readN (s.xl.ctxBase.toNat + 16 * y.ctx + 8) 4).testBit 0 = true
        let refused := fun (t : State) (st : Nat) => status s t e st (answer y) ∧ t.q.launches = s.q.launches ∧
          t.q.waiting = s.q.waiting ∧ t.q.accepted = s.q.accepted
        let known := s.readableAt slot 8 = true ∧ (e % 128 ≠ 0 ∨ s.readableAt e 128 = true)
        let entry := s.badLine (s.contextLine y.ctx) = true ∨ s.lineCurrent (s.contextLine y.ctx) = true
        (¬ known → exec .launchRingTake s = .next s) ∧
        (known → ¬ bad → y.legal c owner = true → s.xl.ctxBase ≠ 0 → ¬ entry → exec .launchRingTake s = .next s) ∧
        (known → (y.legal c owner = true → s.xl.ctxBase ≠ 0 → entry) → (y.legal c owner = true → context → (s.readKernel y).1 ≠ .busy ∧ ∀ h dict nodes,
          (s.readKernel y).1 = .good h dict nodes → fitsEmpty y h nodes = true → y.deps = []) →
        ∃ t, exec .launchRingTake s = .next t ∧ (∀ k, k ≠ c → t.ring k = s.ring k) ∧
          (t.ring c = if owner then { r with orptr := r.orptr + 1, devNext := true } else
            { r with drptr := r.drptr + 1, devNext := false }) ∧
          (bad → ∃ u : State, u = { s with q := u.q, coh := u.coh, poisoned := u.poisoned, latent := u.latent, soft := u.soft } ∧
            t = u.post 0x09 0 0 0xFF 0xFFFF (dword e) 0) ∧
          (¬ bad → y.legal c owner = false ∨ ¬ context → refused t 4) ∧
          ∀ h dict nodes, ¬ bad → y.legal c owner = true → context → (s.readKernel y).1 = .good h dict nodes →
            let size := h.stages * y.coords * 32 * ((y.threads + 31) / 32)
            (2 ^ 32 < size → refused t 6) ∧
            (size ≤ 2 ^ 32 → fitsEmpty y h nodes = false → refused t 5) ∧
            (size ≤ 2 ^ 32 → fitsEmpty y h nodes = true → status s t e 2 .nothing ∧
              t.q.accepted = s.q.accepted + 1 ∧ ∃ x us, t.launch s.fresh = some x ∧ x.addr = e ∧ x.lr = y ∧ x.hdr = h ∧ x.dict = dict ∧
                x.nodeTab = nodes ∧ x.prio = y.prio ∧ x.st = .running ∧ x.accept = s.q.accepted ∧ x.startDie = s.q.accepted % 8 ∧
                x.gridLeft = y.coords * h.stages ∧ t.q.waiting = s.q.waiting ++ us ∧
                (y.sscope = 0 → us.length = y.coords ∧ ∀ k, k < y.coords → us[k]? = some
                  { launch := s.fresh, die := (s.q.accepted % 8 + k) % 8, wgs := (List.range h.stages).map fun j => (k, j),
                    since := s.clk.clock })))) ∧
  (∀ (s : State) (l : Nat) (x : Launch), s.launch l = some x → (s.q.launches.map (·.1)).Nodup →
    let others := fun (n : Nat) => ∃ e ∈ s.q.launches, ∃ m, e.2.st = .pending (some m) ∧ m < n
    ((∀ n, x.st ≠ .pending (some n)) → exec (.pendingLaunchStart l) s = .next s) ∧
    (∀ n, x.st = .pending (some n) → others n → exec (.pendingLaunchStart l) s = .next s) ∧
    ∀ n, x.st = .pending (some n) → ¬ others n → ∃ t us, exec (.pendingLaunchStart l) s = .next t ∧
      t.launch l = some { x with st := .running, gridLeft := x.lr.coords * x.hdr.stages } ∧ t.q.waiting = s.q.waiting ++ us ∧
      status s t x.addr 2 .nothing) ∧
  (∀ (s : State) (l : Nat) (x : Launch), s.launch l = some x →
    let counter := fun (va : DWord) => match (s.translate 0xFFFF x.lr.ctx va .load).1 with | .ok pa _ => s.readN pa 8 | _ => 0
    let parked := ∃ p ∈ s.fly.parks, p.who = .launchRead l
    (x.st ≠ .pending none ∨ parked → exec (.dependenceReread l) s = .next s) ∧
    (x.st = .pending none → ¬ parked → (∀ d ∈ x.lr.deps, d.1.toNat % 8 = 0 ∧ ∃ pa e,
        (s.translate 0xFFFF x.lr.ctx d.1 .load).1 = .ok pa e ∧ (s.isDevice pa = true → ∀ j ∈ linesIn pa 8,
          s.badLine j = false ∧ j ∉ s.soft ∧ s.lineCurrent j = true ∧ s.biasBit (j / 64) = false)) →
      ∃ t, exec (.dependenceReread l) s = .next t ∧
        t = { s with q := t.q, coh := { s.coh with snooped := t.coh.snooped } } ∧ (∀ k, k ≠ l → t.launch k = s.launch k) ∧
        ((∀ d ∈ x.lr.deps, d.2.toNat ≤ counter d.1) → t.launch l = some { x with st := .pending (some s.clk.clock) }) ∧
        ((∃ d ∈ x.lr.deps, counter d.1 < d.2.toNat) → t.launch l = some x))) ∧
  (∀ (s : State) (l : Nat) (x : Launch), s.launch l = some x →
    let fifo := (∃ y ∈ s.q.fifos, y.launch = l) ∨ ∃ y ∈ s.q.transit, y.launch = l
    let quiet := x.st = .running ∧ x.hdr.nodes ≠ 0 ∧ ¬ working s l x ∧ ¬ fifo
    let done := x.st = .running ∧ ¬ working s l x ∧ (x.hdr.nodes ≠ 0 → x.quiesced = true) ∧
      (∀ r ∈ s.fly.reqs, r.launch = l → r.done = true) ∧ s.spilling l x = false
    (¬ quiet → exec (.quiescence l) s = .next s) ∧
    (quiet → ∃ t, exec (.quiescence l) s = .next t ∧ onlyQ s t ∧ t.launch l = some { x with quiesced := true } ∧
      ∀ k, k ≠ l → t.launch k = s.launch k) ∧
    (¬ done → exec (.launchCompletion l) s = .next s) ∧
    (done → ∃ t, exec (.launchCompletion l) s = .next t ∧ t.launch l = none ∧ status s t x.addr 3 (answer x.lr) ∧
      t.cores = s.cores ∧ t.wgs = s.wgs ∧ ∀ k, k ≠ l → t.launch k = s.launch k)) ∧
  (∀ (s : State) (k core coord stage : Nat) (u : WaitUnit) (x : Launch), s.q.waiting[k]? = some u → s.launch u.launch = some x →
    x.lr.sscope = 0 → u.wgs = [(coord, stage)] →
    (dieOf core ≠ u.die ∨ s.fitsCore core (u.launch, none) x ((x.lr.threads + 31) / 32) = false →
      exec (.workgroupPlacement k [core]) s = .next s) ∧
    (∀ y o, s.unitWaiting u = some y → o ∈ s.waitingWork → o.die = u.die → o.fits = true → (y.prio < o.prio ∨ y.prio = o.prio ∧
      (o.accept < y.accept ∨ o.accept = y.accept ∧ o.wgid < y.wgid)) → exec (.workgroupPlacement k [core]) s = .next s) ∧
    (∀ y o, s.unitWaiting u = some y → o ∈ s.waitingWork → o.die = u.die → y.prio ≤ o.prio → o.since + 2 ^ 20 ≤ s.clk.clock →
      s.clk.clock < y.since + 2 ^ 20 → exec (.workgroupPlacement k [core]) s = .next s) ∧
    (dieOf core = u.die → (∀ o ∈ s.waitingWork, o.die = u.die → s.unitWaiting u = some o) → owned s core → s.wg s.fresh = none →
      room s core (u.launch, none) x.lr.ctx x.hdr ((x.lr.threads + 31) / 32) → ∃ t w, exec (.workgroupPlacement k [core]) s = .next t ∧
        let id := stage * x.lr.coords + coord
        placed s t core u.launch x w s.fresh x.lr.threads (id * 32 * ((x.lr.threads + 31) / 32)) (x.lr.kernel + dword x.hdr.entry) ∧
        w.wgid = word id ∧ w.x = word (coord % x.lr.gx) ∧ w.y = word (coord / x.lr.gx % x.lr.gy) ∧
        w.z = word (coord / (x.lr.gx * x.lr.gy)) ∧ w.stage = stage ∧ w.node = none ∧
        (∀ p ∈ w.storage ++ w.compute, ∀ o, o < 16384 → t.panByte core (16384 * p + o) = 0) ∧
        t.q.waiting = s.q.waiting.filter (· ≠ u) ∧ t.mem = s.mem)) ∧
  (∀ (s : State) (wk : Nat) (w : Wg), s.wg wk = some w →
    ((∀ n, w.zeroing = some n → s.clk.clock < n) → exec (.panZeroingDone wk) s = .next s) ∧
    ∀ n, w.zeroing = some n → n ≤ s.clk.clock → ∃ t, exec (.panZeroingDone wk) s = .next t ∧
      t.wg wk = some { w with zeroing := none } ∧ t.mem = s.mem ∧ ∀ gid g, s.group w.core gid = some g → ∃ h, t.group w.core gid = some h ∧
        (g.phase = .placed → g.lowWg = wk → h.phase = .running ∧ h.lanes = g.lanes ∧ ∀ j q, g.split j = some q →
          h.split j = some { q with rt := s.clk.clock }) ∧ (g.phase ≠ .placed ∨ g.lowWg ≠ wk → h = g)) ∧
  (∀ (s : State) (team launch node core : Nat) (y : Fifo) (x : Launch) (e : NodeEntry), s.q.fifo team launch node = some y →
    s.launch launch = some x → s.nodeEntry launch node = some e →
    let n := Nat.min y.recs.length e.batch
    let due := e.batch ≤ y.recs.length ∨ y.expired = true
    (¬ due ∨ core / 16 ≠ team → exec (.nodeBatchPlacement team launch node core) s = .next s) ∧
    (due → core / 16 = team → (∀ o ∈ s.waitingWork, o.die = team / 16 → s.fifoWaiting y = some o) → x.st = .running → owned s core →
      room s core (launch, some node) x.lr.ctx x.hdr ((n + 31) / 32) → e.batch * e.recSize ≤ x.hdr.scratch → 0 < e.recSize → s.wg s.fresh = none →
      (∀ r ∈ y.recs, r.bytes.length = e.recSize) → ∃ t w, exec (.nodeBatchPlacement team launch node core) s = .next t ∧
        let seq := (FMap.find s.q.nodeSeq team).getD 0
        placed s t core launch x w s.fresh n 0 (x.lr.kernel + dword e.entry) ∧ w.node = some { node := node, team := team, seq := seq, count := n } ∧
        w.x = word node ∧ w.y = word team ∧ w.z = word seq ∧ FMap.find t.q.nodeSeq team = some (seq + 1) ∧
        ((t.q.fifo team launch node).map (·.recs)).getD [] = y.recs.drop n ∧
        ∀ (j : Nat) (r : NodeRec), j < n → y.recs[j]? = some r → ∀ (i : Nat) (b : Byte), r.bytes[i]? = some b →
          t.windowByte w (j * e.recSize + i) = b)) ∧
  (∀ (s : State) (wk : Nat) (w : Wg), s.wg wk = some w →
    let busy := s.liveOf wk ≠ 0 ∨ (∃ y ∈ s.fly.copies, y.srcWg = wk ∨ y.dstWg = some wk) ∨
      ∃ g ∈ (s.core w.core).groups, g.2.phase = .draining ∧ ∃ l ∈ g.2.lanes, l.2.wg = wk
    (busy → exec (.workgroupRetirement wk) s = .next s) ∧
    (¬ busy → ((s.core w.core).pown.map (·.1)).Nodup → ∃ t, exec (.workgroupRetirement wk) s = .next t ∧ t.wg wk = none ∧
      (∀ k, k ≠ wk → t.wg k = s.wg k) ∧ (∀ p, (t.core w.core).owner p = if (s.core w.core).owner p = w.slot then 0xFF else
        (s.core w.core).owner p) ∧ t.mem = s.mem ∧ ∀ x, s.launch w.launch = some x →
          t.launch w.launch = some (if w.node = none then { x with gridLeft := x.gridLeft - 1 } else x))) ∧
  (∀ (s : State) (core gid k : Nat) (g : Group) (p : Split), s.group core gid = some g → g.split k = some p →
    let good := fun (w : Word) => w.extractLsb' 30 2 = 3 ∧ w.extractLsb' 26 4 ≠ 0 ∧ w.extractLsb' 23 3 ≠ 7 ∧ w.extractLsb' 0 7 = 0
    let may := fun (w : Word) => (∀ j, j < 8 → w.getLsbD (15 + j) = true → FMap.get 0 g.tok j = 0) ∧
      p.clauseEnd + (w.extractLsb' 8 7).toNat ≤ s.clk.clock
    let before := fun (w : Word) => ∃ pa e, (s.translate core g.ctx p.pc .fetch).1 = .ok pa e ∧ s.badLine (pa / 64) = false ∧
      p.pc.toNat % 4 = 0 ∧ w = word (s.readN pa 4) ∧ good w
    let clause := fun (w : Word) =>
      ({ header := p.pc, left := (w.extractLsb' 26 4).toNat, cls := (w.extractLsb' 23 3).toNat } : Clause)
    let track := trackOf gid
    let ready := fun (j n : Nat) (x : Group) (q : Split) => s.group core j = some x ∧ x.split n = some q ∧ trackOf j = track ∧
      x.phase = .running ∧ (x.handler = none ∨ n = 4) ∧ q.wait = .ready
    let later := fun (q : Split) (j n : Nat) => p.rt < q.rt ∨ p.rt = q.rt ∧ (gid < j ∨ gid = j ∧ k ≤ n)
    let tidy := ((s.core core).groups.map (·.1)).Nodup ∧ ∀ e ∈ (s.core core).groups, e.1 < 128 ∧ (e.2.splits.map (·.1)).Nodup ∧
      ∀ q ∈ e.2.splits, q.1 < 5
    (p.wait ≠ .held ∨ g.phase ≠ .running ∨ innermostJoin g p ≠ some p.pc ∧ (∃ w, before w ∧ ¬ may w) →
      exec (.clauseStallExpiry core gid k) s = .next s) ∧
    (p.wait = .held → g.phase = .running → (∀ w, before w → may w) → ∃ t h, exec (.clauseStallExpiry core gid k) s = .next t ∧
      t.mem = s.mem ∧ t.group core gid = some h ∧ h.split k = some { p with wait := .ready, rt := Nat.max p.rt s.clk.clock } ∧
      ∀ j, j ≠ k → h.split j = g.split j) ∧
    (p.wait = .ready → p.clause = none → g.phase = .running → innermostJoin g p ≠ some p.pc → (∃ w, before w ∧ ¬ may w) →
      ∃ h, (s.holdAgain core gid k).group core gid = some h ∧ h.split k = some { p with wait := .held, pass := 0 } ∧
        ∀ j, j ≠ k → h.split j = g.split j) ∧
    (s.clk.clock < (s.track core track).busyUntil ∨ (s.die (core / 256)).fenced = true →
      exec (.trackFreeSchedule core track) s = .next s) ∧
    ((s.track core track).issuing = none → (∀ j n x q, ¬ ready j n x q) → tidy → exec (.trackFreeSchedule core track) s = .next s) ∧
    ∀ w, (s.track core track).issuing = none → (s.track core track).busyUntil ≤ s.clk.clock → (s.die (core / 256)).fenced = false →
      tidy → ready gid k g p → (∀ j n x q, ready j n x q →
        if 8 ≤ p.pass then q.pass < 8 ∨ later q j n else q.pass < 8 ∧ (q.cls < p.cls ∨ q.cls = p.cls ∧ later q j n)) →
      p.clause = none → innermostJoin g p ≠ some p.pc → before w → may w → g.held = [] → w.getLsbD 7 = false →
      (∀ pa e, (s.translate core g.ctx p.pc .fetch).1 = .ok pa e → s.isDevice pa = true → pa / 128 ∈ (s.core core).icache ∨
        s.homeReads core (pa / 64) = true) →
      ∃ t h, exec (.trackFreeSchedule core track) s = .next t ∧ t.mem = s.mem ∧ t.group core gid = some h ∧
        h.split k = some { p with pass := 0, pc := p.pc + 4, wait := .ready, clause := some (clause w) } ∧
        (t.track core track).issuing = some (gid, k) ∧ h.lanes = g.lanes ∧
        ∀ j n x q, ready j n x q → (j, n) ≠ (gid, k) → ∃ y, t.group core j = some y ∧
          y.split n = some { q with pass := Nat.min 8 (q.pass + 1) })

/-- R99, R218 to R228, R379: YREQ and DEADLINE start and time a request; the ripcord stops the context's groups; each group
that is ready is saved and leaves; the image's header is written and the request ends; a unit is restored from its image; a
kill takes every group of the context off the cores, and its end is posted with event 0x03 and answers the killed launches. What
the device keeps of an image beside its bytes, held faults among it, and how it restores an image of which it keeps nothing, is
the model's reading (notes/assumptions/21.md); that the owner's order to kill, for which the rules give no register, has no effect
from another master is its choice (45.md). -/
def Obligations.PreemptionAndKills : Prop :=
  let holds := fun (s : State) (a n v : Nat) => ∀ k, k < n → s.byte (a + k) = BitVec.ofNat 8 (v / 256 ^ k)
  let answer := fun (y : LaunchRec) => if y.ctx ≤ 63 then Follow.signal y.ctx y.done else .nothing
  let window := fun (core off : Nat) => 0x1000000 + 0x1000 * core + off
  let page := fun (a : DWord) => a.toNat / 4096 * 4096
  let valid := fun (b : Nat) => b ≠ 0 ∧ b + 2 ^ 20 ≤ 2 ^ 40 ∧ b % 2 ^ 36 + 2 ^ 20 ≤ 2 ^ 36 - 2 ^ 22
  let onlyCore := fun (s t : State) (core : Nat) => t = { s with cores := t.cores } ∧ ∀ k, k ≠ core → t.core k = s.core k
  (∀ (core : Nat) (v : BitVec 32), (∀ s m, 2048 ≤ core → exec (.yreqWrite m core v) s = .next s ∧ exec (.deadlineWrite m core v) s = .next s) ∧
    (core < 2048 → OwnersWrite (fun m => .yreqWrite m core v) (window core 0x040) fun s t =>
      let k := s.core core
      (k.yreqV = true ∨ v.getLsbD 31 = false → t = s) ∧
      (k.yreqV = false → v.getLsbD 31 = true → valid (page k.saveBase) → onlyCore s t core ∧
        t.core core = { k with yreqV := true, yreqCtx := v.toNat % 64, yreqAt := s.clk.clock, saveFault := false }) ∧
      (k.yreqV = false → v.getLsbD 31 = true → ¬ valid (page k.saveBase) → (t.core core).saveStat = 0xC0000000 ∧
        (t.core core).yreqV = false ∧ t.fq = (s.post 0x04 0 0 (v.toNat % 64) core k.saveBase 0).fq ∧
        t.fly = (s.post 0x04 0 0 (v.toNat % 64) core k.saveBase 0).fly ∧ t.mem = s.mem)) ∧
    (core < 2048 → OwnersWrite (fun m => .deadlineWrite m core v) (window core 0x044) fun s t =>
      let k := s.core core
      let n := if v = 0 then 50000 else v.toNat
      (k.yreqV = true → t = s) ∧
      (k.yreqV = false → onlyCore s t core ∧ t.core core = { k with deadline := n, deadlineSet := n }))) ∧
  (∀ (s : State) (core : Nat), let k := s.core core
    (k.yreqV = false ∨ k.deadline ≠ 0 → exec (.ripcord core) s = .next s) ∧
    (k.yreqV = true → k.deadline = 0 → (k.groups.map (·.1)).Nodup → ∃ t, exec (.ripcord core) s = .next t ∧ onlyCore s t core ∧
      ∀ gid, t.group core gid = (s.group core gid).map fun g =>
        if g.ctx = k.yreqCtx ∧ g.phase ≠ .draining then
          { g with phase := .ripped, splits := g.splits.map fun e => (e.1, { e.2 with pass := 0 }) }
        else g)) ∧
  (∀ (s : State) (core gid : Nat) (g : Group), s.group core gid = some g →
    let wgs := ((maskLanes (~~~g.dead)).map fun l => (g.thread l).wg).eraseDups
    let quiet := g.tok = [] ∧ (∀ r ∈ s.fly.reqs, r.core = core → r.gid = gid → r.dst = []) ∧
      (∀ r ∈ s.fly.scratch, r.core = core → r.gid ≠ gid) ∧
      (∀ r ∈ s.fly.sfu, r.core = core → r.gid ≠ gid) ∧
      (∀ y ∈ s.fly.copies, y.core = core → y.gid ≠ gid ∧ y.srcWg ∉ wgs ∧ ∀ v, y.dstWg = some v → v ∉ wgs) ∧
      (∀ y ∈ (s.core core).shuffles, (y.launch, y.node) ≠ s.regroupKey g) ∧ ∀ e ∈ g.splits,
        (∀ va d r, e.2.wait ≠ .snap va d r) ∧ ∀ r, e.2.wait ≠ .snapEnd r
    let leaves := (g.phase = .yielding ∨ g.phase = .ripped) ∧ quiet
    (¬ leaves → exec (.groupSave core gid) s = .next s) ∧
    (leaves → ∃ t x, exec (.groupSave core gid) s = .next t ∧ t.group core gid = none ∧ t.mem = s.mem ∧
      (∀ k, k ≠ gid → t.group core k = s.group core k) ∧ (t.core core).saved = (s.core core).saved ++ [x] ∧ x.gid = gid ∧ x.group = g ∧
      (x.forced = true ↔ g.phase = .ripped) ∧ x.key = 129 + s.fresh ∧ t.wgs = s.wgs)) ∧
  (∀ (s : State) (wk : Nat) (w : Wg), s.wg wk = some w → (s.wgs.map (·.1)).Nodup →
    let k := s.core w.core
    let leaves := k.yreqV = true ∧ k.yreqCtx = w.ctx ∧ (∃ y ∈ k.saved, y.group.liveIn wk ≠ 0) ∧
      (∀ e ∈ k.groups, ∀ l ∈ e.2.lanes, l.2.wg ≠ wk) ∧ (∀ x ∈ s.fly.pmmas, x.wg ≠ wk) ∧
      (∀ y ∈ s.fly.copies, y.srcWg ≠ wk ∧ y.dstWg ≠ some wk) ∧ ∀ x ∈ s.fly.swaps, x.1 ≠ wk
    (¬ leaves → s.settleSaves.wg wk = some w) ∧
    (leaves → s.settleSaves.wg wk = none ∧ ∃ y ∈ (s.settleSaves.core w.core).savedWgs, y.key = wk ∧ y.wg.wgid = w.wgid)) ∧
  (∀ (s : State) (core : Nat), let k := s.core core
    let b := page k.saveBase
    let ends := k.yreqV = true ∧ k.yreqAt < s.clk.clock ∧ (∀ g ∈ k.groups, g.2.ctx ≠ k.yreqCtx) ∧
      if k.saveFault = true then k.yreqCtx ∉ s.killing else ∀ g ∈ k.saved, ∀ w ∈ g.group.wgsOf, s.wg w = none
    let units := if k.saveFault = true then 0 else (k.saved.map fun g => g.group.launch).eraseDups.length
    let groups := if k.saveFault = true then 0 else k.saved.length
    let status := if k.saveFault = true then 2 else if k.saved = [] then 1 else 0
    let inside := fun (a : Nat) => b ≤ a ∧ a < b + 2 ^ 20
    (¬ ends → exec (.preemptionComplete core) s = .next s) ∧
    (ends → s.lostStack b = false → s.lineFree (b / 64) = false → exec (.preemptionComplete core) s = .next s) ∧
    (ends → (∀ g ∈ k.saved, (s.launch g.group.launch).isSome = true) → valid b →
      (∀ a, inside a → s.lostStack a = false ∧ s.lineFree (a / 64) = true ∧ s.earlyFree (a / 64) = true) → s.gen.keeps = [] →
      (∀ p, p < 2 ^ 28 → ¬ inside (s.xl.biasBase.toNat + p / 8)) → ∃ t, exec (.preemptionComplete core) s = .next t ∧
      t.fq = (s.post 0x04 0 0 k.yreqCtx core k.saveBase 0).fq ∧ t.fly = (s.post 0x04 0 0 k.yreqCtx core k.saveBase 0).fly ∧
      (t.core core).yreqV = false ∧ (t.core core).deadline = k.deadlineSet ∧ (t.core core).saved = [] ∧
      (t.core core).groups = k.groups ∧
      (k.saveFault = true → (t.core core).saveStat = 0x80000001 ∧ t.kept = s.kept) ∧
      (k.saveFault = false → k.saved = [] → (t.core core).saveStat = 0x40000001 ∧ t.kept = s.kept) ∧
      (k.saveFault = false → k.saved ≠ [] → ∃ x, t.kept = s.kept ++ [x] ∧ x.base = b ∧ x.core = core ∧ x.clock = s.clk.clock ∧ x.ctx = k.yreqCtx ∧
        x.groups.length = k.saved.length) ∧
      (holds t b 2 1 ∧ holds t (b + 2) 2 0x4349 ∧ holds t (b + 4) 4 status ∧ holds t (b + 8) 4 k.yreqCtx ∧
        holds t (b + 12) 4 core ∧ holds t (b + 16) 8 s.clk.clock ∧ holds t (b + 24) 8 s.clk.time ∧ holds t (b + 32) 4 units ∧
        holds t (b + 36) 4 groups ∧ holds t (b + 48) 8 0x1000 ∧ ∀ a, ¬ inside a → t.byte a = s.byte a))) ∧
  (∀ (s : State) (base : BitVec 64) (index core : Nat),
    let b := page base
    let at_ := fun (a n : Nat) => s.readN a n
    let here := core < 2048 ∧ b + 2 ^ 20 ≤ 2 ^ 40
    let mine := fun (q : RestoreReq) => q.base == b && q.index == index
    let rest := { s with q := { s.q with restores := s.q.restores.filter fun q => !mine q } }
    (¬ here → exec (.restore base index core) s = .next s) ∧
    (here → s.badBytes b 4096 = true → exec (.restore base index core) s =
      .next ((rest.detectAt b 4096).contextFault (at_ (b + 8) 4 % 64) 0x14 0 core 0 0)) ∧
    (here → s.badBytes b 4096 = false → (at_ b 2 ≠ 1 ∨ at_ (b + 2) 2 ≠ 0x4349 ∨ at_ (b + 0x20) 4 ≤ index ∨ 128 ≤ index ∨
      s.restoring b index core = none) → exec (.restore base index core) s = .next rest) ∧
    ∀ r : Restoring, here → (∀ l, s.badLine l = false) → at_ b 2 = 1 → at_ (b + 2) 2 = 0x4349 → index < at_ (b + 0x20) 4 → index < 128 →
      s.restoring b index core = some r →
      let q : RestoreReq := { (s.q.restores.find? mine).getD (s.restoreReq b index core r) with core := core }
      ((∃ l ∈ s.imageLines b, s.lineCurrent l = false) ∨
        s.restoreRoom q r.x = none → ∃ t, exec (.restore base index core) s = .next t ∧
        t = { s with q := { s.q with restores := t.q.restores } } ∧
        ∃ y ∈ t.q.restores, y.base = b ∧ y.index = index ∧ y.core = core ∧ y.since = q.since) ∧
      ∀ tracks, (∀ l ∈ s.imageLines b, s.lineCurrent l = true) → (∀ o ∈ rest.waitingWork, o.die ≠ core / 256) →
        s.restoreRoom q r.x = some tracks →
        (∀ y ∈ r.gs, y.group.launch = r.l) → s.launch r.l = some r.x →
        let e := b + 0x80 + 16 * index
        let gs := r.gs
        let x := r.x
        let regs := x.hdr.regs
        let recs := s.recordsAt regs gs.length r.u.recs
        x.st = .running ∧ x.addr = at_ e 8 ∧
        ∃ t, exec (.restore base index core) s = .next t ∧ t.mem = s.mem ∧ (∀ y ∈ t.q.restores, mine y = false) ∧
          (∀ (j : Nat) (y : SavedGroup) (a : Nat), gs[j]? = some y → recs[j]? = some a → ∃ gid h, s.group core gid = none ∧
            t.group core gid = some h ∧ h.phase = .running ∧ h.ctx = y.group.ctx ∧ h.held = y.group.held ∧ h.dead = word (at_ (a + 0x50) 4) ∧
            h.flags = word (at_ (a + 0x54) 4) &&& 0x7FF#32 ∧ h.ten = word (at_ (a + 0x58) 4) &&& 0x107FF#32 ∧ h.gang = word (at_ (a + 0x5C) 4) ∧
            h.rrb = at_ (a + 0x60) 1 ∧ h.wgpos = at_ (a + 0x6C) 4 ∧
            (∀ i, i < 4 → (at_ (a + 0x61) 1).testBit i = true → ∃ q, h.split i = some q ∧ q.pc = dword (at_ (a + 8 * i) 8) ∧
              q.active = word (at_ (a + 0x20 + 4 * i) 4) ∧ q.fmt = word (at_ (a + 0x30 + 4 * i) 4) ∧
              q.sig = word (at_ (a + 0x40 + 4 * i) 4) ∧ q.stack.length = at_ (a + 0x68 + i) 1) ∧
            ∀ l, l < 32 → (h.thread l).tid = word (at_ (a + 256 + 4 * l) 4) ∧
              (∀ n, n < 7 → (h.thread l).pred n = (at_ (a + 512 + 4 * n) 4).testBit l) ∧
              ∀ n, n < regs → (h.thread l).reg n = if y.forced = false ∧ x.hdr.ysave.testBit (n / 8) = false then 0 else
                word (at_ (a + s.recordSize regs a - 64 - 128 * regs + 128 * n + 4 * l) 4)) ∧
          (r.kept = none → t.kept = s.kept) ∧
          ∀ k, r.kept = some k → k ∉ t.kept ∧ ∀ y ∈ t.kept, y ∈ s.kept ∨ y = { k with restored := index :: k.restored }) ∧
  (∀ (s : State) (m ctx : Nat), let acts := s.cust.attach.getLsbD m = true ∧ m = s.cust.owner ∧ ctx < 64
    (¬ acts → exec (.ownerContextKill m ctx) s = .next s) ∧ (acts → ∃ t, exec (.ownerContextKill m ctx) s = .next t ∧
    (ctx ∈ s.killing → t = s) ∧
    (ctx ∉ s.killing → (∃ u : State, t = u.post 0x02 0 0 ctx 0xFFFF 0 0 ∧ u.mem = s.mem ∧ u.fq = s.fq ∧ u.clk = s.clk) ∧
      t.killing = ctx :: s.killing ∧ (∀ core gid g, t.group core gid = some g → g.ctx ≠ ctx) ∧
      (∀ r ∈ t.fly.reqs, r.ctx ≠ ctx) ∧ (∀ r ∈ t.fly.copies, r.ctx ≠ ctx) ∧ (∀ r ∈ t.fly.pmmas, r.ctx ≠ ctx) ∧
      ((s.cores.map (·.1)).Nodup → (∀ core, ((s.core core).groups.map (·.1)).Nodup) →
        (∀ core gid g, s.group core gid = some g → g.ctx ≠ ctx → (∀ x ∈ s.fly.pmmas, x.core = core → ∀ m ∈ x.members, m.1 ≠ gid) →
          t.group core gid = some g) ∧
        ∀ r ∈ s.fly.reqs, r.ctx ≠ ctx → (∀ g, s.group r.core r.gid = some g → g.ctx ≠ ctx) → r ∈ t.fly.reqs) ∧
      ∀ l x, s.launch l = some x → t.launch l = some (if x.lr.ctx = ctx then { x with st := .killed } else x)))) ∧
  ∀ (s : State) (ctx : Nat), (ctx ∉ s.killing → exec (.killComplete ctx) s = .next s) ∧
    (ctx ∈ s.killing → (s.q.launches.map (·.1)).Nodup → ∃ t, exec (.killComplete ctx) s = .next t ∧ t.killing = s.killing.filter (· ≠ ctx) ∧
        (∀ core gid, t.group core gid = s.group core gid) ∧ t.fq = (s.post 0x03 0 0 ctx 0xFFFF 0 0).fq ∧
        (∀ w ∈ (s.post 0x03 0 0 ctx 0xFFFF 0 0).fly.writes, w ∈ t.fly.writes) ∧
        t.xl.seals = s.xl.seals.filter (fun e => e.2.ctx ≠ ctx) ∧ t.mem = s.mem ∧
        ∀ l x, s.launch l = some x → (x.st = .killed ∧ x.lr.ctx = ctx → t.launch l = none ∧ ∃ w ∈ t.fly.writes,
            w.pa = x.addr + 4 ∧ w.bytes = [7, 0, 0, 0] ∧ w.add = false ∧ w.follow = answer x.lr) ∧
          (¬ (x.st = .killed ∧ x.lr.ctx = ctx) → t.launch l = some x))

/-- R243, R340 to R356, R415: the home's flows leave the entries of Table 15.2; a copy is invalidated at its die before its
acknowledgement, on the next route after a timeout; a boundary's failure marks the parts not kept, and a record quarantines a
die; requests of peers and of the host are performed at the home, refused or made to wait; flips set the bias bit. These are the
model's own, not the spec's words: the token under which a refused request's fault is held (notes/assumptions/37.md), that an
answer of a peer or of the host is an event which carries what the target holds (22), that what the home performs goes in the
order in which it takes requests and later ones wait behind (35), and how long a die is without a handshake with a management
processor (39). Which line leaves a full set of an L2 is the model's choice too (33). -/
def Obligations.LinesDiesAndHostRequests : Prop :=
  let holds := fun (s : State) (a n v : Nat) => ∀ k, k < n → s.byte (a + k) = BitVec.ofNat 8 (v / 256 ^ k)
  let bit := fun (d : Nat) => ((1#8) <<< d : BitVec 8)
  let fenced := fun (s : State) (d : Nat) => (s.die d).fenced = true
  let home := fun (l : Nat) => homeDie (64 * l)
  let open_ := fun (s : State) (d l : Nat) => s.isDevice (64 * l) = true ∧ s.served l false = true ∧
    (∀ v ∈ s.coh.invals, v.line ≠ l) ∧ l ∉ s.coh.claimed ∧ d < 8 ∧ ¬ fenced s d ∧ ¬ fenced s (home l) ∧ s.reach d (home l) = true
  let wants := fun (s : State) (d l : Nat) (k : ReqKind) => ∃ r ∈ s.fly.reqs, r.core / 256 = d ∧ r.kind = k ∧ ∃ a ∈ r.accs,
    a.performed = false ∧ a.pa / 64 = l ∧ a.cp ≠ 2
  let has := fun (e : DirEntry) (d : Nat) => (e.st = .s ∨ e.st = .o) ∧ e.sharers.getLsbD d = true ∨
    (e.st = .e ∨ e.st = .m ∨ e.st = .o) ∧ e.owner = d
  let owned := fun (e : DirEntry) => e.st = .e ∨ e.st = .m ∨ e.st = .o
  let apart := fun (s t : State) (ds : List Nat) (l : Nat) => t.mem = s.mem ∧
    (∀ k, k ≠ l → sliceOf k ≠ sliceOf l → t.entry k = s.entry k) ∧ ∀ c, c / 256 ∉ ds → t.core c = s.core c
  let copy := fun (s : State) (d l : Nat) (frozen : Bool) => l ∈ (s.die d).l2 ∧
    (has (s.entry l) d ∨ frozen = true ∧ ¬ owned (s.entry l))
  let cleared := fun (s t : State) (d l : Nat) => ∀ c, c / 256 = d → ((t.core c).sig (sliceOf l)).getLsbD (bucketOf l) = false ∧
    (((s.core c).sig (sliceOf l)).getLsbD (bucketOf l) = true → ∀ k ∈ (t.core c).l1, bucketOf k.line ≠ bucketOf l)
  let counted := fun (s t : State) (d l : Nat) =>
    let key := 8 * (l / 2 ^ 15) + d
    FMap.get 0 (t.die (home l)).access key = Nat.min 255 (FMap.get 0 (s.die (home l)).access key + 1)
  let given := fun (s t : State) (d l : Nat) =>
    let lg := (t.entry l).lg
    t.entry l = { s.entry l with st := .m, owner := d, sharers := 0, lg := lg, written := false } ∧ (s.gen.late = [] → (t.entry l).lg = s.gen.cur) ∧ l ∈ (t.die d).l2
  let asks := fun (s t : State) (l : Nat) (fd : Option Nat) (asked : Nat → Prop) => t.coh.dir = s.coh.dir ∧ t.mem = s.mem ∧
    ∃ new, t.coh.invals = s.coh.invals ++ new ∧
      (∀ v ∈ new, v.line = l ∧ v.received = false ∧ v.route = 0 ∧ v.sent = s.clk.clock ∧ v.forDie = fd) ∧
      ∀ d, (∃ v ∈ new, v.die = d) ↔ d < 8 ∧ asked d
  let bias := fun (s : State) (p : Nat) => s.xl.biasBase ≠ 0 ∧ (s.byte (s.xl.biasBase.toNat + p / 8)).getLsbD (p % 8) = true
  let marks := fun (s t : State) => t = { s with coh := { s.coh with marked := t.coh.marked } }
  (∀ (s : State) (core slice b : Nat), b < 512 → let has_ := ((s.core core).sig slice).getLsbD b
    (has_ = false ∨ fenced s (core / 256) → exec (.l1SignatureInvalidation core ⟨slice, b⟩) s = .next s) ∧
    (has_ = true → ¬ fenced s (core / 256) → ∃ t, exec (.l1SignatureInvalidation core ⟨slice, b⟩) s = .next t ∧
      t = { s with cores := t.cores, gen := s.gen.exchange [core, 2048 + 160 * (core / 256) + slice] } ∧
      (∀ k, k ≠ core → t.core k = s.core k) ∧ (t.core core).pmcNow = (s.core core).pmcNow ++ [(0x08, 1, none)] ∧
      (∀ k j, j < 512 → ((t.core core).sig k).getLsbD j = (((s.core core).sig k).getLsbD j && !(k == slice && j == b))) ∧
      (t.core core).l1 = (s.core core).l1.filter fun l => bucketOf l.line ≠ b)) ∧
  (∀ (s : State) (d l : Nat), let e := s.entry l
    let goes := open_ s d l ∧ (if home l = d then owned e else wants s d l .load ∧ ¬ copy s d l (s.wantsSealed d l) ∧
      s.l2Room d l = true)
    let away := owned e ∧ s.reach (home l) e.owner = false
    let kept := e.sharers ||| (if owned e then bit e.owner else 0)
    (¬ goes → exec (.readShared d l) s = .next s) ∧
    (goes → away → ∃ t, exec (.readShared d l) s = .next t ∧ marks s t) ∧
    (goes → ¬ away → owned e → fenced s e.owner → exec (.readShared d l) s = .next s) ∧
    (goes → ¬ away → (owned e → ¬ fenced s e.owner) → ∃ t, exec (.readShared d l) s = .next t ∧
      apart s t [d] l ∧ (t.entry l).poison = e.poison ∧ (owned e → t.poisoned = s.poisoned) ∧ (¬ owned e →
        (l ∈ s.latent → l ∈ t.poisoned ∧ l ∉ t.latent) ∧ (l ∉ s.latent → t.poisoned = s.poisoned ∧ l ∉ t.soft)) ∧
      (home l = d → (t.entry l).st = .s ∧ (t.entry l).sharers = kept) ∧
      (home l ≠ d → counted s t d l ∧ l ∈ (t.die d).l2 ∧
        (s.wantsSealed d l = false → (t.entry l).st = .s ∧ (t.entry l).sharers = kept ||| bit d) ∧
        (s.wantsSealed d l = true → (t.entry l).st = (if owned e then .s else e.st) ∧
          ((t.entry l).st ≠ .i → (t.entry l).sharers = kept))))) ∧
  (∀ (s : State) (d l : Nat) (i : Instr), let e := s.entry l
    let goes := open_ s d l ∧ s.served l true = true ∧ wants s d l .store ∧ home l ≠ d ∧
      (i = .readOwn d l ∧ ¬ copy s d l false ∧ s.l2Room d l = true ∨ i = .upgrade d l ∧ copy s d l false ∧ (e.st = .s ∨ e.st = .o))
    let other := fun (k : Nat) => k ≠ d ∧ has e k
    ((i = .readOwn d l ∨ i = .upgrade d l) → ¬ goes → exec i s = .next s) ∧
    (goes → ∃ t, exec i s = .next t ∧ counted s t d l ∧ cleared s t (home l) l ∧
      ((∀ k, k < 8 → ¬ other k) → apart s t [d, home l] l ∧ given s t d l) ∧
      ((∃ k, k < 8 ∧ other k) → (∀ c, c / 256 ≠ home l → t.core c = s.core c) ∧ asks s t l (some d) other))) ∧
  (∀ (s : State) (d l : Nat) (i : Instr), let e := s.entry l
    let mine := owned e ∧ e.owner = d ∧ ¬ fenced s d ∧ ¬ fenced s (home l) ∧ (∀ v ∈ s.coh.invals, v.line ≠ l) ∧
      s.reach d (home l) = true
    let goes := i = .writeBack d l ∧ mine ∧ (e.st ≠ .e ∨ e.written = true) ∨ i = .cleanEvict d l ∧ mine ∧ e.st = .e ∧ e.written = false
    ((i = .writeBack d l ∨ i = .cleanEvict d l) → ¬ goes → exec i s = .next s) ∧
    (goes → ∃ t, exec i s = .next t ∧ apart s t [d] l ∧ t.fly = s.fly ∧ (∀ k, k ≠ l → t.entry k = s.entry k) ∧ l ∉ (t.die d).l2 ∧
      (t.entry l).st = (if e.sharers = 0 then .i else .s) ∧ (t.entry l).sharers = e.sharers ∧ cleared s t d l)) ∧
  (∀ (s : State) (l : Nat), let e := s.entry l
    let recalls := (∃ k, k < 8 ∧ has e k) ∧ (∀ v ∈ s.coh.invals, v.line ≠ l) ∧ ¬ fenced s (home l)
    (¬ recalls → exec (.remoteWriteAtHome l) s = .next s) ∧
    (recalls → ∃ t, exec (.remoteWriteAtHome l) s = .next t ∧ asks s t l none (has e) ∧ t.coh.claimed = s.coh.claimed ++ [l] ∧
      t.cores = s.cores)) ∧
  (∀ (s : State) (l d : Nat), let found := s.coh.invals.find? fun v => v.line == l && v.die == d
    let h := home l
    let e := s.entry l
    let left := e.sharers &&& ~~~bit d
    let update := fun (f : Inval → Inval) => s.coh.invals.map fun v => if v.line = l ∧ v.die = d then f v else v
    let rest := s.coh.invals.filter (fun v => ¬ (v.line = l ∧ v.die = d))
    (found = none → exec (.invalidation l d) s = .next s ∧ exec (.invalidationAck l d) s = .next s ∧
      exec (.ackTimeoutResend l d) s = .next s) ∧
    ∀ v, found = some v →
      (s.canTravel v.route h d = false ∨ fenced s d → exec (.invalidation l d) s = .next s) ∧
      (s.canTravel v.route h d = true → ¬ fenced s d → ∃ t, exec (.invalidation l d) s = .next t ∧ t.coh.dir = s.coh.dir ∧
        t.mem = s.mem ∧ t.coh.invals = update (fun v => { v with received := true }) ∧ l ∉ (t.die d).l2 ∧
        (∀ core, core / 256 ≠ d → t.core core = s.core core) ∧ cleared s t d l) ∧
      (v.received = false → exec (.invalidationAck l d) s = .next s) ∧
      (v.received = true → ∃ t, exec (.invalidationAck l d) s = .next t ∧ t.coh.invals = rest ∧ t.mem = s.mem ∧
        let passes := ∃ x, v.forDie = some x ∧ (∀ w ∈ rest, w.line ≠ l) ∧ ¬ fenced s x ∧ s.l2Room x l = true
        (¬ passes → (∀ k, k ≠ l → t.entry k = s.entry k) ∧ t.cores = s.cores ∧ (t.entry l).sharers = left ∧
          (t.entry l).st = if owned e ∧ e.owner ≠ d then e.st else if left = 0 then .i else .s) ∧
        ∀ x, v.forDie = some x → (∀ w ∈ rest, w.line ≠ l) → ¬ fenced s x → s.l2Room x l = true → apart s t [x] l ∧ (t.entry l).st = .m ∧
          (t.entry l).owner = x ∧
          (t.entry l).sharers = 0 ∧ l ∈ (t.die x).l2) ∧
      let stays := (v.received = true ∨ s.canTravel v.route h d = true) ∧ s.clk.clock < v.sent + 8192
      (stays → exec (.ackTimeoutResend l d) s = .next s) ∧
      (¬ stays → ∃ t, exec (.ackTimeoutResend l d) s = .next t ∧ t.cores = s.cores ∧ t.coh.dir = s.coh.dir ∧
        t.coh.invals = update (fun v => { v with route := Nat.min 2 (v.route + 1), sent := s.clk.clock }) ∧
        (s.reach h d = true → t.coh.marked = s.coh.marked))) ∧
  (∀ (s : State) (a b : Nat), let edge := (Nat.min a b, Nat.max a b)
    let fails := a < 8 ∧ b < 8 ∧ (a / 4 = b / 4 ∧ (a + 1 = b ∨ b + 1 = a) ∨ a % 4 = b % 4 ∧ a ≠ b) ∧ edge ∉ s.coh.down
    (¬ fails → exec (.boundaryDown a b) s = .next s) ∧
    (fails → ∃ t, exec (.boundaryDown a b) s = .next t ∧ t.coh.down = edge :: s.coh.down ∧ t.cores = s.cores ∧ t.mem = s.mem ∧
      (∀ d, d < 8 → (t.die d).lost = if [0, 3, 4, 7].any (partOf t.coh.down d).contains = true then (s.die d).lost else
        some ((s.die d).lost.getD s.clk.time)) ∧
      ∀ c, c < 8 → (∀ k, k < 8 → (partOf t.coh.down k).length ≤ (partOf t.coh.down c).length) →
        (∀ k, k < c → (partOf t.coh.down k).length < (partOf t.coh.down c).length) → ∀ d, d < 8 →
          (d ∈ t.coh.marked ↔ d ∈ s.coh.marked ∨ d ∉ partOf t.coh.down c ∧ s.coh.quar.getLsbD d = false))) ∧
  (∀ (s : State) (d : Nat), let x := s.die d
    let due := d < 8 ∧ match x.lost with | some t => t + 2000 ≤ s.clk.time | none => d ∈ s.coh.marked
    (¬ due → exec (.dieSelfFence d) s = .next s) ∧
    (due → ∃ t, exec (.dieSelfFence d) s = .next t ∧ t = { s with coh := { s.coh with dies := t.coh.dies } } ∧
      t.die d = { x with fenced := true, l2 := x.l2.filter fun l => home l = d } ∧ ∀ k, k ≠ d → t.die k = s.die k)) ∧
  (∀ (s : State) (d : Nat), let due := d ∈ s.coh.marked ∧
      match (s.die d).lost with | some t => t + 5000 ≤ s.clk.time | none => fenced s d
    (¬ due → exec (.quarantineRecord d) s = .next s) ∧
    (due → d < 8 → (s.coh.dir.map (·.1)).Nodup → ∃ t u, exec (.quarantineRecord d) s = .next t ∧
        t = State.post u 0x0D 0 0 0xFF d 0 0 ∧ fenced t d ∧ (∀ k, k < 32 → t.coh.quar.getLsbD k = (s.coh.quar.getLsbD k || k == d)) ∧
        t.coh.quarCnt = (if s.coh.quarCnt = 0xFFFFFFFF then s.coh.quarCnt else s.coh.quarCnt + 1) ∧
        (∀ m ∈ t.coh.marked, m ≠ d) ∧ (∀ v ∈ t.coh.invals, v.die ≠ d) ∧
        (∀ core gid g, core / 256 = d → s.group core gid = some g → g.ctx ∈ t.killing) ∧
        (∀ r ∈ s.fly.reqs, r.core / 256 = d → (∃ a ∈ r.accs, a.performed = false) → r.ctx ∈ t.killing) ∧
        (∀ x ∈ s.fly.copies, x.core / 256 = d → x.ctx ∈ t.killing) ∧ (∀ x ∈ s.fly.pmmas, x.core / 256 = d → x.ctx ∈ t.killing) ∧
        (∀ y ∈ s.q.waiting, y.die = d → ∀ x, s.launch y.launch = some x → x.lr.ctx ∈ t.killing) ∧
        ((∀ v ∈ s.coh.invals, v.die = d → v.forDie = none) → ∀ l, let e := s.entry l
          (owned e → e.owner = d → (t.entry l).st = .i ∧ (t.entry l).poison = true) ∧ (¬ has e d → (t.entry l).st = e.st ∧
            (t.entry l).poison = e.poison)))) ∧
  (∀ (s : State) (d : Nat), let x := s.die d
    let due := d < 8 ∧ x.migEpoch ≠ 0 ∧ x.epochAt + 1000 * x.migEpoch.toNat ≤ s.clk.time
    (¬ due → exec (.accessCounterHalving d) s = .next s) ∧
    (due → (x.access.map (·.1)).Nodup → (x.disarmed.map (·.1)).Nodup → ∃ t, exec (.accessCounterHalving d) s = .next t ∧
      t = { s with coh := { s.coh with dies := t.coh.dies } } ∧ (∀ k, k ≠ d → t.die k = s.die k) ∧
      ∀ key, FMap.get 0 (t.die d).access key = FMap.get 0 x.access key / 2 ∧ FMap.get false (t.die d).disarmed key =
        (FMap.get false x.disarmed key && decide (x.migThr.toNat / 256 % 256 < FMap.get 0 x.access key / 2)))) ∧
  (∀ (s : State) (r : PeerReq) (dev a n : Nat) (op : Option (Nat → Nat)), (r = .read dev a n ∧ op = none) ∨
      (∃ bs, r = .write dev a bs ∧ bs.length = n ∧ op = some fun _ => ofBytes bs) ∨
      (∃ k v, r = .atomic dev a k n v ∧ op = some fun x => atomOp k (8 * n) x v) ∨
      (∃ cmp new, r = .cas dev a n cmp new ∧ op = some fun x => if x = cmp then new else x) ∨
      (∃ z v, r = .redx dev a z v ∧ a % 64 = 0 ∧ n = 64 ∧ op = some fun x => redxLine (redxFmt z) x v.toNat) →
    dev < 64 → dev ≠ s.dev → 0 < n → a % 64 + n ≤ 64 →
    let answered := fun (t : State) (y : Reply) => t.coh.replies = y :: s.coh.replies
    let old := s.read a n
    let back : Reply := match r with | .write _ _ _ => .written a | _ => .data a old
    let alone := ∀ q ∈ s.coh.peerReqs, (peerSpan q).1 / 64 ≠ a / 64
    let forwards := a / 2 ^ 48 = 2 ∧ s.hasHost = true
    let present := a < 2 ^ 40 ∧ inTagArea (a / 4096) = false ∧ s.mappings a ≠ []
    let answers := (∀ bs, r ≠ .write dev a bs) ∧ s.badLine (a / 64) = true
    let waits := ∃ t, exec (.peerRequest r) s = .next t ∧ t = { s with coh := { s.coh with peerReqs := s.coh.peerReqs ++ [r] } }
    (¬ alone → waits) ∧
    (alone → forwards → ∃ t, exec (.peerRequest r) s = .next t ∧ answered t back ∧ (op = none → t.mem = s.mem) ∧
      ∀ f, op = some f → holds t a n (f (ofBytes old)) ∧ ∀ k, (k < a ∨ a + n ≤ k) → t.byte k = s.byte k) ∧
    (alone → ¬ forwards → ¬ present → ∃ t, exec (.peerRequest r) s = .next t ∧ t.mem = s.mem ∧ answered t (.refused a .notPresent)) ∧
    (alone → present →
      (op.isSome = true → s.sealedPa a = true → ∃ t u, exec (.peerRequest r) s = .next t ∧ answered t (.refused a .sealed) ∧
        u = s.post 0x0A 0x09 0 0xFF 0xFFFF (dword a) 0 ∧ t.mem = u.mem ∧ t.fq = u.fq ∧ t.fly = u.fly) ∧
      (op = none ∨ s.sealedPa a = false → let line := a / 64
        let ready := s.lostStack a = true ∨
          (if op = none then s.lineCurrent line = true else s.lineFree line = true ∧ s.earlyFree line = true)
        (¬ ready → waits) ∧
        (ready → answers → ∃ t, exec (.peerRequest r) s = .next t ∧ answered t (.poison a) ∧ t.mem = s.mem ∧ line ∉ t.latent) ∧
        (ready → ¬ answers → op = none → ∃ t, exec (.peerRequest r) s = .next t ∧ t.mem = s.mem ∧ answered t (.data a old)) ∧
        ∀ f, ready → ¬ answers → op = some f → s.lostStack a = false → s.gen.late = [] → let v := s.detect line
          let page := a / 4096
          v.dirtyMaps a = .done v →
          (v.needsCopy v.gen.cur page false = true → v.recallable page = false → waits) ∧
          ((v.needsCopy v.gen.cur page false = true → v.recallable page = true) →
            (v.cowAt v.gen.cur page false = none → ∃ t, exec (.peerRequest r) s = .next t ∧ t.mem = s.mem ∧
              t.coh.peerReqs = s.coh.peerReqs ++ [r]) ∧
            ∀ u, v.cowAt v.gen.cur page false = some u → ∃ t, exec (.peerRequest r) s = .next t ∧ answered t back ∧
              holds t a n (f (ofBytes old)) ∧ (∀ k, (k < a ∨ a + n ≤ k) → t.byte k = u.byte k) ∧ (t.entry line).st = .i)))) ∧
  (∀ (s : State) (addr : Nat) (w : Option (List Byte)), let page := addr / 4096
    let line := addr / 64
    let n := match w with | some bs => bs.length | none => 64
    let formed := s.hasHost = true ∧ 0 < n ∧ (w.isSome = true → addr % 64 + n ≤ 64)
    let managed := s.biasManaged addr = true
    let flipping := ∃ f ∈ s.coh.flips, f.page = page
    let waits := fun (t : State) => t.mem = s.mem ∧ t.coh.hostReqs = s.coh.hostReqs ++ [{ addr := addr, write := w }]
    let behind := ∃ q ∈ s.coh.hostReqs, q.back = false ∧ q.addr / 64 = line
    (¬ formed → exec (.hostRequest addr w) s = .next s) ∧
    (formed → ¬ managed → ∃ t, exec (.hostRequest addr w) s = .next t ∧ t.coh.replies = .poison addr :: s.coh.replies ∧
      t.mem = s.mem ∧ t.fq = (s.post 0x0A 0 0 0xFF 0xFFFF (dword addr) 0).fq ∧ t.fly = (s.post 0x0A 0 0 0xFF 0xFFFF (dword addr) 0).fly) ∧
    (formed → managed → flipping ∨ ¬ bias s page → ∃ t, exec (.hostRequest addr w) s = .next t ∧ waits t ∧
      ∃ f ∈ t.coh.flips, f.page = page ∧ f.toHost = true) ∧
    (formed → managed → ¬ flipping → bias s page →
      (behind → ∃ t, exec (.hostRequest addr w) s = .next t ∧ waits t) ∧
      (¬ behind → w = none →
        let ready := s.lostStack addr = true ∨
          ¬ fenced s (home line) ∧ (∀ v ∈ s.coh.invals, v.line ≠ line) ∧ ¬ owned (s.entry line) ∧ s.earlyFree line = true
        ∃ t, exec (.hostRequest addr w) s = .next t ∧ t.mem = s.mem ∧ (¬ ready → waits t) ∧
          (ready → (s.badLine line = true → t.coh.replies = .poison addr :: s.coh.replies) ∧
            (s.badLine line = false → t.coh.replies = .data (64 * line) (s.read (64 * line) 64) :: s.coh.replies))) ∧
      ∀ bs, ¬ behind → w = some bs →
        (s.sealedPa addr = true → ∃ t, exec (.hostRequest addr w) s = .next t ∧ t.mem = s.mem ∧
          t.coh.replies = .refused addr .sealed :: s.coh.replies) ∧
        (s.sealedPa addr = false → s.lostStack addr = false → let ready := s.hostFree line = true ∧ s.earlyFree line = true
          let kept := s.needsCopy s.gen.cur page false = true ∧ s.recallable page = false
          (¬ ready ∨ s.gen.late = [] ∧ kept → ∃ t, exec (.hostRequest addr w) s = .next t ∧ waits t) ∧
          (ready → ¬ kept → s.gen.late = [] → ∀ u, s.cowAt s.gen.cur page false = some u →
            ∃ t, exec (.hostRequest addr w) s = .next t ∧ t.coh.replies = .written addr :: s.coh.replies ∧
              (∀ (k : Nat) (b : Byte), bs[k]? = some b → t.byte (addr + k) = b) ∧
              ∀ k, (k < addr ∨ addr + bs.length ≤ k) → t.byte k = u.byte k)))) ∧
  (∀ (s : State) (page : Nat), let found := s.coh.flips.find? fun f => f.page == page
    let at_ := s.xl.biasBase.toNat + page / 8
    let written := s.xl.biasBase ≠ 0 ∧ s.lostStack at_ = false ∧ s.lineFree (at_ / 64) = true ∧ s.earlyFree (at_ / 64) = true ∧
      s.gen.keeps = []
    (found = none → exec (.biasFlipToHost page) s = .next s ∧ exec (.biasFlipToDevice page) s = .next s) ∧
    ∀ f, found = some f → (f.toHost = false ∨ (∃ l, l / 64 = page ∧ s.mayFlush l = false) → exec (.biasFlipToHost page) s = .next s) ∧
      (f.toHost = true ∨ f.waitingLines ≠ [] → exec (.biasFlipToDevice page) s = .next s) ∧
      (f.toHost = true → (∀ l, l / 64 = page → s.mayFlush l = true) → ∃ t, exec (.biasFlipToHost page) s = .next t ∧
        (∀ l, l / 64 = page → (t.entry l).st = .i ∧ (∀ v ∈ t.coh.invals, v.line ≠ l) ∧
          (∀ core, core < 2048 → ((t.core core).sig (sliceOf l)).getLsbD (bucketOf l) = false) ∧ ∀ d, d < 8 → l ∉ (t.die d).l2) ∧
        (written → bias t page ∧ t.coh.flips = s.coh.flips.erase f ∧ ∀ a, a ≠ at_ → t.byte a = s.byte a)) ∧
      (f.toHost = false → f.waitingLines = [] → written → ∃ t, exec (.biasFlipToDevice page) s = .next t ∧ ¬ bias t page ∧
        t.coh.flips = s.coh.flips.erase f ∧ t.coh.dir = s.coh.dir ∧ t.cores = s.cores ∧ ∀ a, a ≠ at_ → t.byte a = s.byte a) ∧
      (f.toHost = false → f.waitingLines = [] → s.xl.biasBase ≠ 0 → s.lostStack at_ = false →
        s.lineFree (at_ / 64) = false ∨ s.earlyFree (at_ / 64) = false → exec (.biasFlipToDevice page) s = .next s)) ∧
  (∀ (s : State) (line : Nat) (data : Option (List Byte)), let found := s.coh.flips.find? fun f => f.page == line / 64
    let inv := s.snoopInv line
    let owes := s.hasHost = true ∧ (∀ q ∈ s.coh.hostReqs, q.back = true → q.addr / 64 ≠ line) ∧
      match found with
      | some f => f.toHost = false ∧ line ∈ f.waitingLines
      | none => bias s (line / 64) ∧ s.served line inv = false ∧ s.snoopWaits line = true
    let goesOn := fun (t : State) => match found with
      | some f => t.coh.flips = s.coh.flips.map fun g => if g = f then { g with waitingLines := g.waitingLines.erase line } else g
      | none => t.coh.snooped = (line, inv) :: s.coh.snooped.filter (·.1 ≠ line)
    (¬ owes → exec (.bisnpResponse line data) s = .next s) ∧
    (owes → data = none → ∃ t, exec (.bisnpResponse line data) s = .next t ∧ goesOn t ∧ t.mem = s.mem) ∧
    ∀ bs, owes → data = some bs → bs.length = 64 →
      (s.sealedPa (64 * line) = true → ∃ t, exec (.bisnpResponse line data) s = .next t ∧ goesOn t ∧ t.mem = s.mem) ∧
      (s.sealedPa (64 * line) = false → s.lostStack (64 * line) = false →
        let ready := s.hostFree line = true ∧ s.earlyFree line = true
        let kept := s.needsCopy s.gen.cur (line / 64) false = true ∧ s.recallable (line / 64) = false
        (¬ ready ∨ s.gen.late = [] ∧ kept → exec (.bisnpResponse line data) s = .next { s with coh := { s.coh with
          hostReqs := s.coh.hostReqs ++ [{ addr := 64 * line, write := data, back := true }] } }) ∧
        (ready → ¬ kept → s.gen.late = [] → ∀ u, s.cowAt s.gen.cur (line / 64) false = some u →
          ∃ t, exec (.bisnpResponse line data) s = .next t ∧ goesOn t ∧
            (∀ (k : Nat) (b : Byte), bs[k]? = some b → t.byte (64 * line + k) = b) ∧
            ∀ k, (k < 64 * line ∨ 64 * line + 64 ≤ k) → t.byte k = u.byte k))) ∧
  (∀ (s : State) (id : Nat) (data : List Byte) (why : Option Refused), id < 2 ^ 48 →
    let named := fun (f : Refused) => match f with
      | .sealed => some (0x09, 0)
      | .notPresent => some (0x08, 2)
      | .reduction d => some (0x0A, d)
      | .poisoned => none
    let outside := fun (r : Req) => r.accs.filter fun a => !a.performed && !s.isDevice a.pa && s.inOrder r a
    let late := fun (sent : Option Nat) => ∃ t, sent = some t ∧ t + 10 ^ 6 ≤ s.clk.time
    let abandons := fun (sent : Option Nat) (ctx : Nat) => (¬ late sent → exec (.adxelAbandon id) s = .next s) ∧
      (late sent → ∃ t, exec (.adxelAbandon id) s = .next t ∧ ctx ∈ t.killing)
    (s.req id = none → s.copyOf id = none → s.pmmaOf id = none → exec (.peerResponse id data why) s = .next s ∧
      exec (.adxelAbandon id) s = .next s) ∧
    (∀ r, s.req id = some r → abandons r.sent r.ctx) ∧
    (∀ x, s.req id = none → s.copyOf id = some x → (x.outside = none → abandons x.sent x.ctx) ∧
      (x.outside ≠ none → exec (.adxelAbandon id) s = .next s)) ∧
    (∀ x, s.req id = none → s.copyOf id = none → s.pmmaOf id = some x → abandons x.sent x.ctx) ∧
    (∀ r, s.req id = some r → outside r = [] → exec (.peerResponse id data why) s = .next s) ∧
    (∀ r a, s.req id = some r → outside r = [a] →
      (∀ bad, (why = none ∧ bad = false ∨ why = some .poisoned ∧ bad = true) → r.kind ≠ .rdx → r.dst ≠ [] → (r.accs.map (·.lane)).Nodup →
        ∃ t q, exec (.peerResponse id data why) s = .next t ∧ t.cores = s.cores ∧ (bad = true → t.mem = s.mem) ∧ t.req id = some q ∧
          q.dst = r.dst ∧ q.accs = r.accs.map fun b => if b.lane = a.lane then
            { a with performed := true, result := ofBytes (data.take a.n), poison := bad } else b) ∧
      (∀ f g y, why = some f → named f = some y → s.group r.core r.gid = some g → ∃ t h, exec (.peerResponse id data why) s = .next t ∧
        t.mem = s.mem ∧ t.req id = none ∧ t.group r.core r.gid = some h ∧
        h.held = g.held ++ [{ tok := 8, code := y.1, detail := y.2, info := a.va }] ∧
        (fenced s (r.core / 256) → h.lanes = g.lanes) ∧
        (¬ fenced s (r.core / 256) → ∀ d ∈ r.dst, ∀ k ∈ d.2.1, k < 128 → (h.thread d.1).isEmpty k = false))) ∧
    (∀ x, s.req id = none → s.copyOf id = some x → (x.sent = none → exec (.peerResponse id data why) s = .next s) ∧
      (x.sent ≠ none → (why = none → ∃ t, exec (.peerResponse id data why) s = .next t ∧ t.mem = s.mem ∧
          t.copyOf id = some { x with outside := some data }) ∧
        ∀ f g y, why = some f → named f = some y → s.group x.core x.gid = some g → ∃ t h z, exec (.peerResponse id data why) s = .next t ∧
          t.copyOf id = none ∧ t.group x.core x.gid = some h ∧ FMap.get 0 h.tok x.tok = FMap.get 0 g.tok x.tok - 1 ∧
          h.held = g.held ++ [z] ∧ z.tok = x.tok ∧ z.code = y.1 ∧ z.detail = y.2 ||| 0x40 ∧
          (x.dir ≠ 0 → z.info = BitVec.ofInt 64 (x.dstAddr x.moved)) ∧
          (x.dir = 0 → x.tr ≠ 2 → z.info = BitVec.ofInt 64 (x.srcAddr x.moved 0)))) ∧
    ∀ x b, s.req id = none → s.copyOf id = none → s.pmmaOf id = some x → s.outsideBlock x = some b → why = none → data.length = 64 →
      ∃ t, exec (.peerResponse id data why) s = .next t ∧ t.mem = s.mem ∧ ∃ y ∈ (t.core x.core).scale, y.block = b ∧ y.ctx = x.ctx ∧
        y.data = data)

/-- R406 to R409, R420, R421, R425 to R432, R14, R357: only the owner's writes reach a register, and each takes the bits its
table gives it; the owner's replies and timers end or resume what waits for a page, and the service of a clean page sets D;
the election, the handover and package reset leave the custody registers as R428 and R429 say; images, reports, alarms, scrub
and errors that are consumed act as R426 and R430 to R432 say. These are the model's own, not the spec's words: that the owner
withdraws an offer by writing PEND 0 (notes/assumptions/11.md), that a configuration block says by its bytes whether the device
bridges and that a device which does not has its CXL hosts detached (6), the functions of images, keys and reports that the spec
names and does not give (8), and that the rate to which the clock is set is the throttle event's (17), one for the package (44). -/
def Obligations.RegistersCustodyAndReplies : Prop :=
  let holds := fun (s : State) (a n v : Nat) => ∀ k, k < n → s.byte (a + k) = BitVec.ofNat 8 (v / 256 ^ k)
  let wr := fun (off : Nat) (v : DWord) (post : State → State → Prop) => OwnersWrite (fun m => .systemRegisterWrite m off v) off post
  let sat := fun (w : Word) => if w = 0xFFFFFFFF then w else w + 1
  let killed := fun (s t : State) (ctx code core : Nat) => (ctx ∈ s.killing → t = s) ∧ (ctx ∉ s.killing →
    (∃ u : State, t = u.post 0x02 code 0 ctx core 0 0 ∧ u.mem = s.mem ∧ u.fq = s.fq ∧ u.clk = s.clk) ∧ t.killing = ctx :: s.killing ∧
      ∀ k gid g, t.group k gid = some g → g.ctx ≠ ctx)
  let elected := fun (c : Custody) (att : BitVec 5) (o : Nat) =>
    let rank := fun (p : Nat) => (FMap.find c.ranks p).getD 0
    (att = 0 → o = c.owner) ∧ (att ≠ 0 → o < 5 ∧ att.getLsbD o = true ∧ ∀ p, p < 5 → att.getLsbD p = true →
      rank o < rank p ∨ rank o = rank p ∧ o ≤ p)
  let clear := fun (s : State) => s.cust.handoverReg &&& 0x7FFFFFFF
  (∀ v : DWord, let w : Word := v.setWidth 32
    wr 0x210 v (fun s t => if s.gen.retained = [] ∧ w.toNat % 16 = 0 ∧ w.toNat ≤ 512 then
      t = { s with gen := { s.gen with poolGib := w.toNat } } else t = s) ∧
    wr 0x218 v (fun s t => t = { s with gen := { s.gen with snapCtx := v } }) ∧
    wr 0x600 v (fun s t => t = { s with xl := { s.xl with ctxBase := v } }) ∧
    wr 0x608 v (fun s t => t = { s with xl := { s.xl with pfBase := v } }) ∧
    wr 0x610 v (fun s t => t = { s with xl := { s.xl with pfSize := w } }) ∧
    wr 0x620 v (fun s t => t = { s with xl := { s.xl with fxTime := w } }) ∧
    wr 0x628 v (fun s t => t = { s with xl := { s.xl with splBase := v } }) ∧
    wr 0x630 v (fun s t => t = if s.xl.splStat.getLsbD 31 = true then s else { s with xl := { s.xl with splCnt := w } }) ∧
    wr 0x640 v (fun s t => t = { s with xl := { s.xl with splCtx := w &&& 0x3F } }) ∧
    wr 0x648 v (fun s t => t = { s with xl := { s.xl with biasBase := v } }) ∧
    wr 0x680 v (fun s t => t = { s with fq := { s.fq with base := v } }) ∧
    wr 0x688 v (fun s t => t = { s with fq := { s.fq with size := w } }) ∧
    wr 0x690 v (fun s t => t = { s with fq := { s.fq with tail := w } }) ∧
    wr 0x704 v (fun s t => t = { s with coh := { s.coh with quarCnt := 0 } }) ∧
    (∀ c, c < 8 → let ring := fun (off : Nat) (free : Ring → Prop) (f : Ring → Ring) => wr (0x400 + 0x40 * c + off) v fun s t =>
        (¬ free (s.ring c) → t = s) ∧ (free (s.ring c) → t = { s with q := { s.q with rings := t.q.rings } } ∧
          t.ring c = f (s.ring c) ∧ ∀ k, k ≠ c → t.ring k = s.ring k)
      ring 0x00 (fun r => r.owptr = r.orptr) (fun r => { r with obase := v }) ∧
      ring 0x08 (fun r => r.owptr = r.orptr) (fun r => { r with osize := w }) ∧
      ring 0x18 (fun r => r.dwptr = r.drptr) (fun r => { r with dbase := v }) ∧
      ring 0x20 (fun r => r.dwptr = r.drptr) (fun r => { r with dsize := w })) ∧
    (∀ d, d < 8 → let die := fun (off : Nat) (f : Die → Die) => wr (0x100000 + 0x10000 * d + off) v fun s t =>
        t = { s with coh := { s.coh with dies := t.coh.dies } } ∧ t.die d = f (s.die d) ∧ ∀ k, k ≠ d → t.die k = s.die k
      die 0x100 (fun x => { x with migBase := v }) ∧ die 0x108 (fun x => { x with migSize := w }) ∧
      die 0x114 (fun x => if w.toNat % 256 ≤ w.toNat / 256 % 256 then x else { x with migThr := w &&& 0xFFFF }) ∧
      die 0x118 (fun x => { x with migEpoch := w }) ∧ die 0x180 (fun x => { x with eccCor := 0 }) ∧
      die 0x184 (fun x => { x with eccUnc := 0 }) ∧ die 0x188 (fun x => { x with mirRetry := 0 }) ∧
      die 0x18C (fun x => { x with deadLane := 0 }) ∧ die 0x190 (fun x => { x with mCheck := 0 })) ∧
    ∀ n, n < 2048 → let core := fun (off : Nat) (post : CoreSt → CoreSt → Prop) => wr (0x1000000 + 0x1000 * n + off) v fun s t =>
        t = { s with cores := t.cores } ∧ post (s.core n) (t.core n) ∧ ∀ k, k ≠ n → t.core k = s.core k
      core 0x048 (fun k l => l = if k.yreqV = true then k else { k with saveBase := v }) ∧
      core 0x0E0 (fun k l => l = { k with pmcCtx := v }) ∧
      ∀ i, i < 8 → core (0x080 + 4 * i) (fun k l => l = { k with pmcSel := l.pmcSel, pmcOwner := i :: k.pmcOwner } ∧
          ∀ j, FMap.get 0 l.pmcSel j = if j = i then w &&& 0x7FFF else FMap.get 0 k.pmcSel j) ∧
        core (0x0A0 + 8 * i) (fun k l => l = { k with pmcCnt := l.pmcCnt, pmcOwner := (8 + i) :: k.pmcOwner } ∧
          ∀ j, FMap.get 0 l.pmcCnt j = if j = i then v else FMap.get 0 k.pmcCnt j)) ∧
  (let own := fun (off : Nat) => off ∈ [0x618, 0x61C, 0x638, 0x804] ∨ (∃ c, c < 8 ∧ off = 0x400 + 0x40 * c + 0x0C) ∨
      ∃ n, n < 2048 ∧ (off = 0x1000000 + 0x1000 * n + 0x040 ∨ off = 0x1000000 + 0x1000 * n + 0x044)
    let listed := fun (off : Nat) =>
      off ∈ [0x210, 0x218, 0x600, 0x608, 0x610, 0x620, 0x628, 0x630, 0x640, 0x648, 0x680, 0x688, 0x690, 0x704] ∨
      (∃ c, c < 8 ∧ ∃ o ∈ [0x00, 0x08, 0x18, 0x20], off = 0x400 + 0x40 * c + o) ∨
      (∃ d, d < 8 ∧ ∃ o ∈ [0x100, 0x108, 0x114, 0x118, 0x180, 0x184, 0x188, 0x18C, 0x190], off = 0x100000 + 0x10000 * d + o) ∨
      ∃ n, n < 2048 ∧ ∃ o, off = 0x1000000 + 0x1000 * n + o ∧
        (o = 0x048 ∨ o = 0x0E0 ∨ ∃ i, i < 8 ∧ (o = 0x080 + 4 * i ∨ o = 0x0A0 + 8 * i))
    ∀ (off : Nat) (v : DWord), (own off → ∀ m s, exec (.systemRegisterWrite m off v) s = .next s) ∧
      (¬ own off → ¬ listed off → wr off v fun s t => t = { s with cores := t.cores, coh := { s.coh with dies := t.coh.dies } } ∧
        (∀ k, t.core k = s.core k) ∧ ∀ d, t.die d = s.die d)) ∧
  (∀ v : BitVec 32, OwnersWrite (fun m => .pftailWrite m v) 0x618 fun s t =>
    let s' : State := { s with xl := { s.xl with pfTail := v } }
    let size := s.xl.pfSize.toNat
    let enabled := s.xl.pfBase ≠ 0 ∧ 16 ≤ size ∧ size ≤ 4096 ∧ s.xl.pfSize &&& (s.xl.pfSize - 1) = 0
    let inFlight := (s.fly.writes.filter fun w => w.chan == .pageFaults).length
    let full := s.xl.pfHead + BitVec.ofNat 32 inFlight - v = s.xl.pfSize
    (s.xl.unposted = [] ∨ enabled ∧ full → t = s') ∧
    ∀ u, s.xl.unposted = [u] →
      (¬ enabled → u.ctx ∉ s.killing → u.ctx ∈ t.killing ∧ ∃ x : State, t = x.post 0x02 0x07 1 u.ctx u.core u.va 0 ∧ x.fq = s.fq ∧
        x.mem = s.mem) ∧
      (enabled → ¬ full → let r : FaultRec := { seq := s.xl.pfSeq, ctx := u.ctx, va := u.va, core := u.core }
        let next := (s.xl.pfSeq + 1) % 2 ^ 16
        t.xl = { s'.xl with unposted := [], pfSeq := next, faults := s.xl.faults ++ [r] } ∧ t.cores = s.cores ∧ t.mem = s.mem ∧
        ∃ w, t.fly = { s.fly with writes := s.fly.writes ++ [w] } ∧ w.chan = .pageFaults ∧ w.add = false ∧ w.follow = .pfHead ∧
          w.pa = s.xl.pfBase.toNat + 32 * ((s.xl.pfHead.toNat + inFlight) % size) ∧ w.bytes.length = 32 ∧
          let field := fun (o n v : Nat) => ∀ k, k < n → w.bytes[o + k]? = some (BitVec.ofNat 8 (v / 256 ^ k))
          field 0 8 u.va.toNat ∧ field 8 1 u.ctx ∧ field 9 1 u.kind ∧ field 10 2 s.xl.pfSeq ∧ field 12 2 u.core ∧ field 14 2 0 ∧
            field 16 8 s.clk.time ∧ field 24 8 0)) ∧
  (∀ v : BitVec 32, let code := v.toNat / 2 ^ 16 % 4
    let rec_ := fun (s : State) => s.xl.faults.find? fun f => f.seq == v.toNat % 2 ^ 16
    let answered := fun (s : State) => ({ s with xl := { s.xl with pfReply := v &&& 0x3FFFF } } : State)
    (∀ s m, (code ≠ 0 → exec (.pfreplyRetry m v) s = .next s) ∧ (code ≠ 1 → exec (.pfreplyNoFrame m v) s = .next s) ∧
      (code ≠ 2 → exec (.pfreplyFail m v) s = .next s) ∧
      (code ≠ 3 → rec_ s ≠ none → exec (.pfreplyIgnored m v) s = .next s) ∧
      (code = 3 ∨ rec_ s = none → (s.cust.attach.getLsbD m = false → exec (.pfreplyIgnored m v) s = .next s) ∧
        (s.cust.attach.getLsbD m = true → exec (.pfreplyIgnored m v) s =
          .next (if m = s.cust.owner then answered s else s.post 0x0C 0 0 0xFF 0xFFFF 0x61C 0)))) ∧
    (code = 0 → OwnersWrite (fun m => .pfreplyRetry m v) 0x61C fun s t => (rec_ s = none → t = answered s) ∧
      ∀ f, rec_ s = some f → t.xl = { (answered s).xl with faults := t.xl.faults } ∧ t.fly = { s.fly with parks := t.fly.parks } ∧
        t = { s with xl := t.xl, fly := t.fly } ∧ t.xl.faults = s.xl.faults.filter (fun g => g.seq ≠ f.seq) ∧ t.fly.parks = s.fly.parks.map fun p =>
          let left := p.pages.filter fun x => ¬ (p.ctx = f.ctx ∧ x.1 = f.va ∧ x.2.2 = false)
          { p with pages := left, due := p.due || decide (left.length < p.pages.length) }) ∧
    (code = 1 → OwnersWrite (fun m => .pfreplyNoFrame m v) 0x61C fun s t => (rec_ s = none → t = answered s) ∧
      ∀ f, rec_ s = some f → (f.timer.isSome = true → t = answered s) ∧
        (f.timer = none → let at_ := s.clk.time + 1000 * s.xl.fxTime.toNat
          let faults := s.xl.faults.map fun (g : FaultRec) => if g.seq = f.seq then { g with timer := some at_ } else g
          t = State.post { answered s with xl := { (answered s).xl with faults := faults } } 0x05 0x15 0 f.ctx f.core f.va 0)) ∧
    (code = 2 → OwnersWrite (fun m => .pfreplyFail m v) 0x61C fun s t => (rec_ s = none → t = answered s) ∧
      ∀ f, rec_ s = some f → killed (answered s) t f.ctx 0x15 f.core)) ∧
  (∀ (s : State) (n : Nat), let found := s.xl.faults.find? fun f => f.seq == n
    ((∀ f, found = some f → ∀ a, f.timer = some a → s.clk.time < a) → exec (.fxtimeExpiry n) s = .next s) ∧
    ∀ f a, found = some f → f.timer = some a → a ≤ s.clk.time → ∃ t, exec (.fxtimeExpiry n) s = .next t ∧ killed s t f.ctx 0x15 f.core) ∧
  (∀ (s : State) (n : Nat), let found := s.fly.parks.find? fun p => p.id == n
    (found = none → exec (.lightFaultService n) s = .next s) ∧
    ∀ p, found = some p → let light := p.pages.filter fun x => x.2.2
      (light = [] → exec (.lightFaultService n) s = .next s) ∧
      ∀ x, light = [x] → let again := s.fly.parks.map fun q =>
          let left := q.pages.filter fun y => ¬ (q.ctx = p.ctx ∧ y.2.2 = true ∧ y.1 = x.1)
          ({ q with pages := left, due := q.due || decide (left.length < q.pages.length) } : Park)
        (s.xl.ctxBase ≠ 0 → (s.context p.ctx).2 % 2 = 1 → (∃ l, s.leaf p.ctx x.1 = .busy l) → exec (.lightFaultService n) s = .next s) ∧
        (s.xl.ctxBase = 0 ∨ (s.context p.ctx).2 % 2 = 0 ∨ (∀ l, s.leaf p.ctx x.1 ≠ .busy l) ∧
            (∀ e a level, s.leaf p.ctx x.1 = .found e a level → e.getLsbD 1 = false ∨ e.getLsbD 6 = true) →
          exec (.lightFaultService n) s = .next { s with fly := { s.fly with parks := again } }) ∧
        ∀ e a level, s.xl.ctxBase ≠ 0 → (s.context p.ctx).2 % 2 = 1 → s.leaf p.ctx x.1 = .found e a level → e.getLsbD 1 = true →
          e.getLsbD 6 = false → s.lostStack a = false →
          ((∃ l ∈ linesIn a 8, s.lineFree l = false ∨ s.earlyFree l = false) → exec (.lightFaultService n) s = .next s) ∧
          ((∀ l ∈ linesIn a 8, s.lineFree l = true ∧ s.earlyFree l = true) → s.gen.keeps = [] → ∃ t, exec (.lightFaultService n) s = .next t ∧
            t.cores = s.cores ∧ t.fly = { s.fly with parks := again } ∧ holds t a 8 (e ||| 0x40).toNat ∧
            (∀ k, (k < a ∨ a + 8 ≤ k) → t.byte k = s.byte k) ∧ t.xl = { s.xl with tlb := t.xl.tlb } ∧
            let pages := leafSize level / 4096
            let first := x.1.toNat % 2 ^ 57 / 4096 / pages * pages
            ∀ y, y ∈ t.xl.tlb ↔ y ∈ s.xl.tlb ∧ (y.ctx = p.ctx → first + pages ≤ y.vpn ∨ y.vpn + y.pages ≤ first))) ∧
  (let offer := fun (s : State) (h : Option (Nat × Nat)) (r : Word) =>
      ({ s with cust := { s.cust with handover := h, handoverReg := r } } : State)
    let handed := fun (s : State) (o : Nat) => ({ s with cust := { s.cust with owner := o } } : State)
    let attached := fun (s : State) (att : BitVec 5) => ({ s with cust := { s.cust with attach := att } } : State)
    let electedIn := fun (s t : State) (att : BitVec 5) => elected s.cust att t.cust.owner ∧
      t = offer (handed (attached s att) t.cust.owner) none (clear s)
    let without := fun (s : State) (p : Nat) => s.cust.attach &&& ~~~((1#5) <<< p)
    let link := fun (s : State) (m : FMap Nat) => ({ s with cust := { s.cust with portDown := m } } : State)
    (∀ s, let gone := ∃ since, FMap.find s.cust.portDown s.cust.owner = some since ∧ since + 10 ^ 8 ≤ s.clk.time
      (¬ gone → exec .ownerPortDownTimeout s = .next s) ∧
      (gone → ∃ t, exec .ownerPortDownTimeout s = .next t ∧ electedIn s t (without s s.cust.owner))) ∧
    (∀ (s : State) (p : Nat), let change := Instr.masterAttachDetach p
      let now := FMap.find s.cust.portDown p
      let up := link s (FMap.erase s.cust.portDown p)
      (4 < p → ∀ b, exec (change b) s = .next s) ∧
      (p ≤ 4 → let trains := p = 4 ∨ s.cust.bridging = true
        (¬ trains → exec (change .attach) s = .next s) ∧
        (trains → exec (change .attach) s = .next (attached up (s.cust.attach ||| (1#5) <<< p))) ∧
        (p ≠ s.cust.owner → exec (change .detach) s = .next (attached up (without s p))) ∧
        (p = s.cust.owner → ∃ t, exec (change .detach) s = .next t ∧ electedIn up t (without s p)) ∧
        (now ≠ none → exec (change .down) s = .next s) ∧
        (now = none → exec (change .down) s = .next (link s (FMap.put s.cust.portDown p s.clk.time))) ∧
        exec (change .up) s = .next up)) ∧
    (∀ (s : State) (m : Nat) (v : BitVec 32) (i : Instr), i = .handoverOffer m v ∨ i = .handoverAccept m v →
      let port := v.toNat % 8
      let pend := v.getLsbD 31 = true
      let there := fun (k : Nat) => s.cust.attach.getLsbD k = true
      let accepts := pend ∧ port = m ∧ ∃ since, s.cust.handover = some (m, since) ∧ s.clk.time < since + 10 ^ 9
      (¬ there m → exec i s = .next s) ∧
      (there m → m = s.cust.owner → (¬ pend → exec i s = .next (offer s none (word port))) ∧
        (pend → ¬ there port → exec i s = .next s) ∧
        (pend → there port → exec i s = .next (offer s (some (port, s.clk.time)) (word (2 ^ 31 + port))))) ∧
      (there m → m ≠ s.cust.owner → (accepts → exec i s = .next (offer (handed s m) none (word port))) ∧
        (¬ accepts → exec i s = .next (s.post 0x0C 0 0 0xFF 0xFFFF 0x804 0)))) ∧
    (∀ s : State, let lapsed := ∃ p since, s.cust.handover = some (p, since) ∧ since + 10 ^ 9 ≤ s.clk.time
      (¬ lapsed → exec .handoverLapse s = .next s) ∧ (lapsed → exec .handoverLapse s = .next (offer s none (clear s)))) ∧
    ∀ s, ∃ t, exec .packageReset s = .next t ∧ elected s.cust s.cust.attach t.cust.owner ∧
      let keys := if s.cust.keysErased = true then s.cust.keys else State.reset.cust.keys
      t.cust = { s.cust with owner := t.cust.owner, handover := none, handoverReg := 0, keys := keys,
                             portDown := s.cust.portDown.map fun e => (e.1, 0) } ∧
      let kept : State := { State.reset with mem := s.mem, poisoned := s.poisoned, latent := s.latent, soft := s.soft }
      t = { kept with dev := s.dev, agenda := s.agenda, turns := s.turns, fresh := s.fresh, cust := t.cust }) ∧
  (∀ (s : State) (image : List Byte), let version := Config.imageVersion image
    let accepted := s.cust.keysErased = false ∧ Config.rsaVerifies image = true ∧ Config.slhVerifies image = true ∧
      s.cust.fuseVersion ≤ version
    (¬ accepted → ∀ b, exec (.firmwareImage b image) s = .next s) ∧
    (accepted → exec (.firmwareImage false image) s = .next { s with cust := { s.cust with fuseVersion := version, firmware := image } } ∧
      ∃ t, exec (.firmwareImage true image) s = .next t ∧ t = { s with cust := t.cust } ∧ (let erases := Config.configErases image
        let att := if Config.configBridging image = true then s.cust.attach else s.cust.attach &&& 0b10000
        let c : Custody := { t.cust with fuseVersion := version, config := image, eraseOnAlarm := erases, attach := att }
        t.cust = { c with bridging := Config.configBridging image } ∧ t.cust.keys = s.cust.keys ∧
        t.cust.keysErased = s.cust.keysErased ∧ t.cust.firmware = s.cust.firmware ∧ t.cust.reports = s.cust.reports ∧
        (att.getLsbD s.cust.owner = true → t.cust.owner = s.cust.owner ∧ t.cust.handover = s.cust.handover ∧
          t.cust.handoverReg = s.cust.handoverReg) ∧
        (att.getLsbD s.cust.owner = false → elected { s.cust with ranks := t.cust.ranks } att t.cust.owner ∧
          t.cust.handover = none ∧ t.cust.handoverReg = clear s)) ∧
        ∀ p, p < 5 → FMap.find t.cust.ranks p = some (Config.configRank image p % 256))) ∧
  (∀ (s : State) (port : Nat) (nonce : BitVec 256), (s.cust.keysErased = true → exec (.attestationReport port nonce) s = .next s) ∧
    (s.cust.keysErased = false → ∃ r, exec (.attestationReport port nonce) s =
        .next { s with cust := { s.cust with reports := r :: s.cust.reports } } ∧ r.rom = sha384 Config.bootRom ∧
      r.firmware = sha384 s.cust.firmware ∧ r.config = sha384 s.cust.config ∧ r.owner = s.cust.owner ∧ r.nonce = nonce ∧
      r.sigs.length = s.cust.keys.length ∧
      ∀ (scheme : Nat) (k : BitVec 384), s.cust.keys[scheme]? = some k → r.sigs[scheme]? = some (Config.sign scheme k r.body))) ∧
  (∀ (s : State) (cause : Alarm),
    let erased : State := { s with cust := { s.cust with keys := s.cust.keys.map (fun _ => 0), keysErased := true } }
    let u := if s.cust.eraseOnAlarm = true then erased else s
    (cause ≠ .reprovisioned → exec (.securityAlarm cause) s = .next (u.post 0x0F 0 0 0xFF 0xFFFF 0 0)) ∧
    exec (.securityAlarm .reprovisioned) s =
      .next { s with cust := { s.cust with keys := State.reset.cust.keys, keysErased := false } }) ∧
  (∀ (s : State) (l : Nat), let d := l / 2 ^ 31 % 8
    let tag := 2 ^ 30 - 2 ^ 16 ≤ l % 2 ^ 30
    let same := fun (t : State) => (∀ k, k ≠ d → t.die k = s.die k) ∧ t.cores = s.cores
    let lost := fun (t : State) => t.soft = s.soft ∧ (t.die d).eccCor = (s.die d).eccCor
    (2 ^ 34 ≤ l → exec (.patrolScrub l) s = .next s) ∧
    (l < 2 ^ 34 → l ∉ s.latent → ∃ t, exec (.patrolScrub l) s = .next t ∧ same t ∧ (t.die d).eccUnc = (s.die d).eccUnc ∧
      t.poisoned = s.poisoned ∧ t.mem = s.mem ∧ t.fq = s.fq ∧ t.soft = s.soft.filter (fun k => k ≠ l) ∧
      (t.die d).eccCor = if l ∈ s.soft then sat (s.die d).eccCor else (s.die d).eccCor) ∧
    (l < 2 ^ 34 → l ∈ s.latent → tag → s.gen.retained = [] → ∃ t, exec (.patrolScrub l) s = .next t ∧ same t ∧ lost t ∧
      ∀ page, page / 256 = l / 2 ^ 30 * 2 ^ 16 + (l % 2 ^ 30 - (2 ^ 30 - 2 ^ 16)) → s.gen.cur ≤ t.gen.tagOf page) ∧
    (l < 2 ^ 34 → l ∈ s.latent → ¬ tag → ∃ t u : State, exec (.patrolScrub l) s = .next t ∧ same t ∧ lost t ∧
      (t.die d).eccUnc = sat (s.die d).eccUnc ∧ t = u.post 0x0E 0 0 0xFF d (dword (64 * l)) 0 ∧ u.mem = s.mem ∧ u.fq = s.fq ∧
      u.poisoned = l :: s.poisoned ∧ u.latent = s.latent.filter (fun k => k ≠ l))) ∧
  (∀ s : State, let unc := fun (t : State) (core : Nat) => (t.die (core / 256)).eccUnc = sat (s.die (core / 256)).eccUnc
    let eats := Instr.uncorrectableErrorConsumed
    (∀ core gid lane, (32 ≤ lane → exec (eats (.thread core gid lane)) s = .next s) ∧
      ∀ g, lane < 32 → s.group core gid = some g → g.dead.getLsbD lane = false → g.dead ||| (1#32) <<< lane ≠ 0xFFFFFFFF →
        ∃ t h, exec (eats (.thread core gid lane)) s = .next t ∧ unc t core ∧ t.group core gid = some h ∧
          h.dead = g.dead ||| (1#32) <<< lane ∧ (t.die (core / 256)).deadLane = sat (s.die (core / 256)).deadLane ∧
          h.lanes = g.lanes ∧ t.mem = s.mem ∧ ∀ k, k ≠ gid → t.group core k = s.group core k) ∧
    (∀ core gid g, s.group core gid = some g → ∃ t, exec (eats (.group core gid)) s = .next t ∧ unc t core ∧
      t.group core gid = none ∧ ∃ (u : State) (pc : DWord), t = u.post 0x01 0x14 0 g.ctx core pc 0 ∧ u.fq = s.fq ∧ u.mem = s.mem) ∧
    (∀ wk, (s.wg wk = none → exec (eats (.panRow wk)) s = .next s) ∧ ∀ w, s.wg wk = some w → ∃ t,
      exec (eats (.panRow wk)) s = .next t ∧ unc t w.core ∧ ∀ gid g, s.group w.core gid = some g →
        (∃ e ∈ g.lanes, e.2.wg = wk ∧ g.dead.getLsbD e.1 = false) → t.group w.core gid = none) ∧
    (∀ ctx l i, i = eats (.pageTable ctx l) ∨ i = eats (.imageHeader ctx l) → let h := l / 2 ^ 31 % 8
      (64 ≤ ctx ∨ 2 ^ 34 ≤ l → exec i s = .next s) ∧
      (ctx < 64 → l < 2 ^ 34 → ∃ t u, exec i s = .next t ∧ killed u t ctx 0x14 0xFFFF ∧ (u.die h).eccUnc = sat (s.die h).eccUnc ∧
        l ∈ u.poisoned ∧ u.mem = s.mem ∧ u.fq = s.fq ∧ u.cores = s.cores ∧ u.killing = s.killing)) ∧
    (∀ l, (2 ^ 34 ≤ l → ∀ b, exec (eats (.line l b)) s = .next s) ∧
      (l < 2 ^ 34 → exec (eats (.line l true)) s = .next { s with soft := l :: s.soft.filter (fun k => k ≠ l) } ∧
        exec (eats (.line l false)) s = .next { s with latent := l :: s.latent.filter (fun k => k ≠ l) })) ∧
    (∀ d, (8 ≤ d → exec (eats (.corrected d)) s = .next s) ∧ (d < 8 → ∃ t, exec (eats (.corrected d)) s = .next t ∧
      t = { s with coh := { s.coh with dies := t.coh.dies } } ∧ t.die d = { s.die d with eccCor := sat (s.die d).eccCor } ∧
      ∀ k, k ≠ d → t.die k = s.die k)) ∧
    ∀ c p b, let mode := (s.core c).pslu.toNat / 4 ^ p % 4
      let flips := c < 2048 ∧ p < 32 ∧ b < 131072 ∧ (mode = 1 ∨ mode = 3)
      let at_ := 131072 * p + b
      (¬ flips → exec (eats (.cell c p b)) s = .next s) ∧
      (flips → ∃ t, exec (eats (.cell c p b)) s = .next t ∧ t = { s with cores := t.cores } ∧ (∀ k, k ≠ c → t.core k = s.core k) ∧
        t.core c = { s.core c with pans := (t.core c).pans, flipped := (t.core c).flipped } ∧
        (∀ k, FMap.get 0#8 (t.core c).pans k = if k = at_ / 8 then FMap.get 0#8 (s.core c).pans k ^^^ (1#8) <<< (b % 8)
          else FMap.get 0#8 (s.core c).pans k) ∧ ∀ k, k ≠ at_ → (k ∈ (t.core c).flipped ↔ k ∈ (s.core c).flipped))) ∧
  ∀ (s : State) (n : Nat), exec (.powerCapThrottle n) s =
    .next (if 1 ≤ n ∧ n ≤ 1900 then { s with clk := { s.clk with mhz := n } } else s)

/-- R341, R347, R356, R364, R372, R407, R427: a write that the device itself makes is performed at its home once no earlier one
of its channel or of its lines is left, no copy of its lines stands in its way and its page is prepared: its bytes, or the sum
with the word that is there, are stored, nothing else is, and the head of its ring goes forward. Until then it waits, and for a
shadow frame it is noted; one to a lost stack is discarded, and an add to a word in error is lost with an event that holds its
virtual address. That such writes go in an order of their own for each ring, word and line is the model's choice
(notes/assumptions/35.md), and so is that what lies outside the device takes them at once (22). -/
def Obligations.QueuedWritesArePerformedAtTheirHome : Prop :=
  ∀ (s : State) (w : DevWrite), w ∈ s.fly.writes → let a := s.memKey w.pa
    let bs := if w.add = true then toBytes 8 ((s.readN a 8 + ofBytes w.bytes) % 2 ^ 64) else w.bytes
    let ls := linesIn a bs.length
    let t := s.tryWrite w
    let quiet := (∀ ctx va, w.follow ≠ .signal ctx va) ∧ ∀ core gid k v, w.follow ≠ .snapDone core gid k v
    let stores := fun (u : State) => (∀ (k : Nat) (b : Byte), bs[k]? = some b → t.byte (a + k) = b) ∧
      ∀ k, (k < a ∨ a + bs.length ≤ k) → t.byte k = u.byte k
    let follows := t.fly.writes = s.fly.writes.filter (·.id ≠ w.id) ∧
      t.fq.head = (if w.follow = .fqHead then s.fq.head + 1 else s.fq.head) ∧
      t.xl.pfHead = (if w.follow = .pfHead then s.xl.pfHead + 1 else s.xl.pfHead) ∧
      ∀ d, (t.die d).migHead = if w.follow = .migHead d then (s.die d).migHead + 1 else (s.die d).migHead
    (s.behind w = true → t = s) ∧
    (s.behind w = false → s.isDevice w.pa = false → quiet → stores s ∧ follows) ∧
    (s.behind w = false → s.isDevice w.pa = true →
      (s.lostStack a = true ∨ w.add = true ∧ s.badLine (a / 64) = true → quiet → t.mem = s.mem ∧ ∀ x ∈ t.fly.writes, x.id ≠ w.id ∨
        x.chan = .faultQueue) ∧
      (let event := fun (u : State) => quiet → w.chan ≠ .faultQueue → w.follow ≠ .fqHead →
          t.fq = u.fq ∧ t.fly.writes = u.fly.writes.filter (·.id ≠ w.id)
        let ctx := w.ctx.getD 0xFF
        (w.add = true → s.badLine (a / 64) = true → event ((s.detect (a / 64)).post 0x10 0x14 0 ctx 0xFFFF w.va 0)) ∧
        (s.lostStack a = true → (w.add = true → s.badLine (a / 64) = false) → event (s.post 0x0A 0 0 ctx 0xFFFF (BitVec.ofNat 64 a) 0))) ∧
      (s.lostStack a = false → (w.add = true → s.badLine (a / 64) = false) → let page := a / 4096
        let ready := ∀ l ∈ ls, s.lineFree l = true ∧ s.earlyFree l = true
        let kept := s.needsCopy s.gen.cur page w.sx = true ∧ s.recallable page = false
        (¬ ready ∨ s.gen.late = [] ∧ kept → t = s) ∧
        (ready → ¬ kept → s.gen.late = [] →
          (s.cowAt s.gen.cur page w.sx = none → ∃ x, t = s.noteFrame x ∧ x.who = .device w.id ∧ x.page = page) ∧
          ∀ u, s.cowAt s.gen.cur page w.sx = some u → (quiet → stores u ∧ follows) ∧
            let written := fun (x : State) => x.fly.writes = s.fly.writes.filter (·.id ≠ w.id) ∧
              ∀ (k : Nat) (b : Byte), bs[k]? = some b → x.byte (a + k) = b
            (∀ ctx va, w.follow = .signal ctx va → ∃ x : State, t = x.signalEvent ctx va ∧ written x) ∧
            ∀ core gid k v, w.follow = .snapDone core gid k v → ∃ x : State, t = x.snapDone core gid k v ∧ written x)))

/-- R97, R99, R417, R420, R421 and Tables 4.7, 9.4, 15.7, 16.2, 17.1, 18.1, 19.3, 19.5, 19.7, 19.10: what a master reads at the
offsets of the register space; a reserved offset reads 0. -/
def Obligations.RegistersReadAsTheirTablesSay : Prop :=
  ∀ s : State, let r := s.readRegister
    (∀ n, n < 2048 → let k := s.core n
      let at_ := fun (o : Nat) => r (0x1000000 + 0x1000 * n + o)
      at_ 0x000 = k.pmode.toNat ∧ at_ 0x008 = k.pslu.toNat ∧ at_ 0x010 = k.pl1.toNat ∧
      (∀ i j, i < 8 → j < 4 → at_ (0x020 + 4 * i) / 256 ^ j % 256 = k.owner (4 * i + j) % 256) ∧
      at_ 0x040 = (if k.yreqV = true then 2 ^ 31 + k.yreqCtx else k.yreqCtx) ∧ at_ 0x044 = k.deadline ∧ at_ 0x048 = k.saveBase.toNat ∧
      at_ 0x050 = k.saveStat.toNat ∧ at_ 0x0E0 = k.pmcCtx.toNat ∧ ∀ i, i < 8 →
        at_ (0x080 + 4 * i) = (FMap.get 0#32 k.pmcSel i).toNat ∧ at_ (0x0A0 + 8 * i) = (FMap.get 0#64 k.pmcCnt i).toNat) ∧
    (∀ n, n < 8 → let d := s.die n
      let at_ := fun (o : Nat) => r (0x100000 + 0x10000 * n + o)
      at_ 0x100 = d.migBase.toNat ∧ at_ 0x108 = d.migSize.toNat ∧ at_ 0x10C = d.migHead.toNat ∧ at_ 0x110 = d.migTail.toNat ∧
      at_ 0x114 = d.migThr.toNat ∧ at_ 0x118 = d.migEpoch.toNat ∧ at_ 0x11C = d.migDrop.toNat ∧ at_ 0x180 = d.eccCor.toNat ∧
      at_ 0x184 = d.eccUnc.toNat ∧ at_ 0x188 = d.mirRetry.toNat ∧ at_ 0x18C = d.deadLane.toNat ∧ at_ 0x190 = d.mCheck.toNat) ∧
    (∀ c, c < 8 → let x := s.ring c
      let at_ := fun (o : Nat) => r (0x400 + 0x40 * c + o)
      at_ 0x00 = x.obase.toNat ∧ at_ 0x08 = x.osize.toNat ∧ at_ 0x0C = x.owptr.toNat ∧ at_ 0x10 = x.orptr.toNat ∧
      at_ 0x18 = x.dbase.toNat ∧ at_ 0x20 = x.dsize.toNat ∧ at_ 0x24 = x.dwptr.toNat ∧ at_ 0x28 = x.drptr.toNat) ∧
    (r 0x200 = s.gen.cur ∧ r 0x204 = s.gen.base ∧ ((s.gen.retained.map (·.gen % 4)).Nodup → ∀ k, k < 4 →
        ((r 0x208).testBit k = true ↔ ∃ y ∈ s.gen.retained, y.gen % 4 = k)) ∧
      r 0x210 = s.gen.poolGib ∧ r 0x214 = s.gen.poolGib * 2 ^ 18 - s.gen.shadows.length ∧ r 0x218 = s.gen.snapCtx.toNat) ∧
    (r 0x600 = s.xl.ctxBase.toNat ∧ r 0x608 = s.xl.pfBase.toNat ∧ r 0x610 = s.xl.pfSize.toNat ∧ r 0x614 = s.xl.pfHead.toNat ∧
      r 0x618 = s.xl.pfTail.toNat ∧ r 0x61C = s.xl.pfReply.toNat ∧ r 0x620 = s.xl.fxTime.toNat ∧ r 0x628 = s.xl.splBase.toNat ∧
      r 0x630 = s.xl.splCnt.toNat ∧ r 0x638 = s.xl.splReq.toNat ∧ r 0x640 = s.xl.splCtx.toNat ∧ r 0x644 = s.xl.splStat.toNat ∧
      r 0x648 = s.xl.biasBase.toNat) ∧
    (r 0x680 = s.fq.base.toNat ∧ r 0x688 = s.fq.size.toNat ∧ r 0x68C = s.fq.head.toNat ∧ r 0x690 = s.fq.tail.toNat ∧
      r 0x694 = s.fq.drop.toNat ∧ r 0x700 = s.coh.quar.toNat ∧ r 0x704 = s.coh.quarCnt.toNat ∧ r 0x800 = s.cust.owner ∧
      r 0x804 = s.cust.handoverReg.toNat ∧ r 0x808 = s.cust.attach.toNat) ∧
    (∀ i, i < 256 → let at_ := fun (o : Nat) => r (0x1000 + 16 * i + o)
      match FMap.find s.xl.seals i with
      | some e => at_ 0 = e.start.toNat ∧ at_ 8 = e.granules ∧ at_ 12 = e.ctx ∧ at_ 13 = 1
      | none => at_ 0 = 0 ∧ at_ 8 = 0 ∧ at_ 12 = 0 ∧ at_ 13 = 0) ∧
    (let in_ := fun (o lo hi : Nat) => lo ≤ o ∧ o < hi;
      (∀ o, o < 0x200 ∨ in_ o 0x20C 0x210 ∨ in_ o 0x220 0x400 ∨ in_ o 0x624 0x628 ∨ in_ o 0x634 0x638 ∨ in_ o 0x650 0x680 ∨
        in_ o 0x698 0x700 ∨ in_ o 0x708 0x800 ∨ in_ o 0x80C 0x1000 ∨ in_ o 0x2000 0x100000 ∨ in_ o 0x180000 0x1000000 ∨
        0x1800000 ≤ o → r o = 0) ∧
      (∀ c o, c < 8 → in_ o 0x14 0x18 ∨ in_ o 0x2C 0x40 → r (0x400 + 0x40 * c + o) = 0) ∧
      (∀ i o, i < 256 → in_ o 14 16 → r (0x1000 + 16 * i + o) = 0) ∧
      (∀ d o, d < 8 → o < 0x100 ∨ in_ o 0x120 0x180 ∨ in_ o 0x194 0x10000 → r (0x100000 + 0x10000 * d + o) = 0) ∧
      ∀ n o, n < 2048 → in_ o 0x004 0x008 ∨ in_ o 0x014 0x020 ∨ in_ o 0x054 0x080 ∨ in_ o 0x0E8 0x1000 →
        r (0x1000000 + 0x1000 * n + o) = 0)

/-! ## The whole machine -/

/-- R33, R42 to R46: every well-formed instruction of code is read back from its words, with every operand; and words that
decode are the words of the instruction that they decode to, which is well-formed: each word has one meaning. -/
def Obligations.DecodingInvertsEncoding : Prop :=
  (∀ i : Instr, i.isCode = true → i.wf = true → decodeList (encode i) = .ok i) ∧
  ∀ (ws : List Word) (i : Instr), decodeList ws = .ok i → i.isCode = true ∧ i.wf = true ∧ encode i = ws

/-- Words that the chapters work out, and what they decode to: `nop`, `iaddc`, `isetp`, `brc`, `regroup`, `lfold.add`,
`ld.b32`, `bcopy.wg`, `pmma`, `snap`, `tlbinv.range` and `pmc.rd`. -/
def Obligations.WorkedEncodingsDecode : Prop :=
  let f := fun (n : Nat) => ({ mode := .direct, trap := false, f := BitVec.ofNat 8 n } : Fld)
  let n := fun (n : Nat) => ({ mode := .small, trap := false, f := BitVec.ofNat 8 n } : Fld)
  let e := fun (d : Nat) (a b c : Fld) (m : Nat) =>
    ({ u := false, g := 7, md := .direct, xd := BitVec.ofNat 8 d, a := a, b := b, c := c, mod := BitVec.ofNat 7 m } : FormE)
  let one := fun (d a b : Nat) => ({ u := false, g := 7, d := BitVec.ofNat 6 d, a := BitVec.ofNat 6 a, b := BitVec.ofNat 6 b } : Form1)
  decodeList [0x001C0000] = .ok (.nop (one 0 0 0)) ∧
  decodeList [0x451C001E, 0x08000400] = .ok (.iaddc (e 8 (f 0) (f 4) (f 0) 0x1E)) ∧
  decodeList [0x497C0024, 0x02080901] = .ok (.isetp (e 2 (f 8) (f 9) (f 1) 0x24)) ∧
  decodeList [0x405C2002, 0x00000180] = .ok (.brc { u := false, g := 7, d := 2, a := 0, mod := 2, imm := 0x180 }) ∧
  decodeList [0x427C2000, 0x00141000] = .ok (.regroup (e 0 (f 20) (n 16) (f 0) 0)) ∧
  decodeList [0x507C0000, 0x08090000] = .ok (.lfold (e 8 (f 9) (f 0) (f 0) 0)) ∧
  decodeList [0x121C6100] = .ok (.ld (one 6 4 0)) ∧
  decodeList [0x541C0011, 0x00060000] = .ok (.bcopy (e 0 (f 6) (f 0) (f 0) 0x11)) ∧
  decodeList [0x589C200A, 0x28040100] = .ok (.pmma (e 40 (f 4) (n 1) (f 0) 0x0A)) ∧
  decodeList [0x1B1C8100] = .ok (.snap (one 8 4 0)) ∧
  decodeList [0x5C1C2050, 0x00040106] = .ok (.tlbinvRange (e 0 (f 4) (n 1) (f 6) 0x50)) ∧
  decodeList [0x5C7C8000, 0x02050000] = .ok (.pmcRd (e 2 (n 5) (f 0) (f 0) 0))

/-- R33, R34, R48 to R50: when a track's turn comes, inside a clause, the word at PC, the two words there, or the dictionary's
words for the code there are decoded, and the step is what that instruction does, with `cur` naming its split, its words and
the address behind it; then waits that are over end (`settle`). Before the instruction nothing changes but the TLBs; where a
block comes into the instruction cache, memory, the groups, the workgroups and the queues stay as they are. What a block that the
cache holds gives of bytes written since is the model's choice (notes/assumptions/33.md), and so is that a page outside the device
gives the bytes which are listed there, at once (22). -/
def Obligations.AStepRunsTheDecodedInstruction : Prop :=
  ∀ (s : State) (core gid k : Nat) (g : Group) (p : Split) (cl : Clause) (w : Word),
    s.agenda = [] → s.turns = [] → s.issueTurns.head? = some (.issue core gid k) →
    s.group core gid = some g → g.split k = some p → p.clause = some cl →
    let base := p.pc &&& ~~~3#64
    let inLine := fun (a : DWord) => a.toNat / 128 = cl.header.toNat / 128
    let held := fun (x : State) (pa : Nat) => x.isDevice pa = false ∨ pa / 128 ∈ (x.core core).icache
    let read := fun (x : State) (va : DWord) (w : Word) (y : State) => ∃ pa e, (x.translate core g.ctx va .fetch).1 = .ok pa e ∧
      w = word (x.readN pa 4) ∧ let t := x.fillTlb core (x.translate core g.ctx va .fetch).2
      (held x pa ∧ y = t ∨ ¬ held x pa ∧ x.badLine (pa / 64) = false ∧ x.homeReads core (pa / 64) = true ∧
        y = (t.homeRead core (some g.ctx) (pa / 64)).updCore core (·.fetchBlock (pa / 128)))
    let runs := fun (x : State) (i : Instr) (w0 w1 : Word) (next : DWord) (dict second : Bool) =>
      x.mem = s.mem ∧ (∀ j n, x.group j n = s.group j n) ∧ x.wgs = s.wgs ∧ x.q = s.q ∧
      let c : Cur := { core := core, gid := gid, split := k, base := base, pc := p.pc, next := next, w0 := w0, w1 := w1,
                       dict := dict, secondFollows := second }
      (∀ t, exec i { x with cur := some c } = .next t → step s = .next (State.settle { t with cur := none })) ∧
      (∀ r, exec i { x with cur := some c } = .fault r → step s = .fault r) ∧
      ∀ r, exec i { x with cur := some c } = .refused r → step s = .refused r
    ∀ u : State, inLine base → read s base w u →
    (∀ i, p.pc = base → w.extractLsb' 30 2 = 0 → decodeWords w 0 = .ok i → runs u i w 0 (base + 4) false false) ∧
    (∀ i w1 v, p.pc = base → w.extractLsb' 30 2 = 1 → inLine (base + 4) → read u (base + 4) w1 v → decodeWords w w1 = .ok i →
      runs v i w w1 (base + 8) false false) ∧
    (∀ (i : Instr) (x : Launch) (e : Word × Word), w.extractLsb' 30 2 = 2 → s.launch g.launch = some x →
      let code := fun (n : Nat) => w.extractLsb' (15 * n) 15
      let n := if p.pc = base then 0 else 1
      let more := n = 0 ∧ (code 1).getLsbD 14 = true
      (p.pc = base ∨ p.pc = base + 2) → (code n).getLsbD 14 = true → (code n).getLsbD 0 = false →
      (n = 0 → (code 1).getLsbD 14 = true ∨ code 1 = 0) → x.dict[((code n).extractLsb' 4 10).toNat]? = some e →
      let go := (code n).extractLsb' 1 3
      let w0 := if go = 7 then e.1 else (e.1 &&& ~~~0x001C0000#32) ||| (go.setWidth 32 <<< 18)
      decodeWords w0 e.2 = .ok i → runs u i w0 e.2 (if more then base + 2 else base + 4) true (decide more))

/-- An invariant of every step: memory keeps its canonical form, in which addresses rise strictly and no entry holds what an
unlisted address reads as. -/
def Obligations.EveryStepKeepsMemoryCanonical : Prop :=
  ∀ s t : State, s.wf → step s = .next t → t.wf

/-- R357 and the Reset columns of Tables 4.7, 9.4, 15.7, 16.2, 17.1, 18.1, 19.3, 19.5, 19.7 and 19.10: what package reset
leaves; the state is well-formed, nothing is resident, accepted or in flight. The values that no rule gives (memory's
contents, which masters are attached, the identity) are the model's own (notes/assumptions/1.md, 6.md) and not stated here. -/
def Obligations.ResetLeavesTheTablesValues : Prop :=
  let s := State.reset
  s.wf ∧ s.wgs = [] ∧ s.q.launches = [] ∧ s.fly = {} ∧ s.killing = [] ∧
  (∀ c, let k := s.core c
    k.groups = [] ∧ k.pmode = 0 ∧ k.pslu = 0 ∧ k.pl1 = 0 ∧ (∀ p, k.owner p = 0xFF) ∧ k.yreqV = false ∧ k.yreqCtx = 0 ∧
    k.deadline = 50000 ∧ k.saveBase = 0 ∧ k.saveStat = 0 ∧ k.pmcCtx = 0 ∧
    ∀ i, FMap.get 0 k.pmcSel i = 0 ∧ FMap.get 0 k.pmcCnt i = 0) ∧
  (∀ d, let x := s.die d
    x.migBase = 0 ∧ x.migSize = 0 ∧ x.migHead = 0 ∧ x.migTail = 0 ∧ x.migThr = 0x000040C0 ∧ x.migEpoch = 1000 ∧ x.migDrop = 0 ∧
    x.eccCor = 0 ∧ x.eccUnc = 0 ∧ x.mirRetry = 0 ∧ x.deadLane = 0 ∧ x.mCheck = 0) ∧
  (∀ c, s.ring c = { obase := 0, osize := 0, owptr := 0, orptr := 0, dbase := 0, dsize := 0, dwptr := 0, drptr := 0 }) ∧
  (s.gen.cur = 1 ∧ s.gen.base = 1 ∧ s.gen.retained = [] ∧ (∀ p, s.gen.tagOf p = 1) ∧ s.gen.poolGib = 64 ∧ s.gen.snapCtx = 0) ∧
  (s.xl.ctxBase = 0 ∧ s.xl.pfBase = 0 ∧ s.xl.pfSize = 0 ∧ s.xl.pfHead = 0 ∧ s.xl.pfTail = 0 ∧ s.xl.pfReply = 0 ∧
    s.xl.fxTime = 1000000 ∧ s.xl.splBase = 0 ∧ s.xl.splCnt = 0 ∧ s.xl.splReq = 0 ∧ s.xl.splCtx = 0 ∧ s.xl.splStat = 0 ∧
    s.xl.biasBase = 0) ∧
  (s.fq.base = 0 ∧ s.fq.size = 0 ∧ s.fq.head = 0 ∧ s.fq.tail = 0 ∧ s.fq.drop = 0) ∧
  s.coh.quar = 0 ∧ s.coh.quarCnt = 0 ∧ s.cust.handoverReg = 0
end

