-- ==== Sys2Proof/Laws/Map.lean ====
section
/-! SUPPORT. Laws of finite maps and of bytes: reading after writing, and that every operation keeps the canonical form
of memory. No later proof unfolds `FMap`. -/

namespace Sys2Proof.Machine

variable {α : Type}

/-! ## Reading after writing -/

@[simp] theorem FMap.find_put_self (m : FMap α) (k : Nat) (v : α) : FMap.find (FMap.put m k v) k = some v := by
  induction m with
  | nil => simp [FMap.put, FMap.find]
  | cons e m ih =>
    obtain ⟨j, w⟩ := e
    simp only [FMap.put]
    split
    · simp [FMap.find]
    · split
      · simp [FMap.find]
      · simp_all [FMap.find]

theorem FMap.find_put_ne (m : FMap α) {k n : Nat} (v : α) (h : n ≠ k) : FMap.find (FMap.put m k v) n = FMap.find m n := by
  induction m with
  | nil => simp [FMap.put, FMap.find, h.symm]
  | cons e m ih =>
    obtain ⟨j, w⟩ := e
    simp only [FMap.put]
    split
    · simp [FMap.find, h.symm]
    · split
      · subst_vars
        simp [FMap.find, h.symm]
      · simp_all [FMap.find]

theorem FMap.find_put (m : FMap α) (k n : Nat) (v : α) :
    FMap.find (FMap.put m k v) n = if n = k then some v else FMap.find m n := by
  split
  · simp_all
  · exact FMap.find_put_ne m v ‹_›

@[simp] theorem FMap.find_erase_self (m : FMap α) (k : Nat) : FMap.find (FMap.erase m k) k = none := by
  induction m with
  | nil => simp [FMap.erase, FMap.find]
  | cons e m ih =>
    obtain ⟨j, w⟩ := e
    by_cases hj : j = k <;> simp_all [FMap.erase, FMap.find]

theorem FMap.find_erase_ne (m : FMap α) {k n : Nat} (h : n ≠ k) : FMap.find (FMap.erase m k) n = FMap.find m n := by
  induction m with
  | nil => simp [FMap.erase, FMap.find]
  | cons e m ih =>
    obtain ⟨j, w⟩ := e
    by_cases hj : j = k
    · simp_all [FMap.erase, FMap.find, h.symm]
    · by_cases hn : j = n <;> simp_all [FMap.erase, FMap.find]

theorem FMap.get_eq_find (d : α) (m : FMap α) (k : Nat) : FMap.get d m k = (FMap.find m k).getD d := by
  induction m with
  | nil => simp [FMap.get, FMap.find]
  | cons e m ih =>
    obtain ⟨j, w⟩ := e
    by_cases h : j = k <;> simp_all [FMap.get, FMap.find]

@[simp] theorem FMap.get_nil (d : α) (k : Nat) : FMap.get d [] k = d := rfl

@[simp] theorem FMap.get_set_self [DecidableEq α] (d : α) (m : FMap α) (k : Nat) (v : α) :
    FMap.get d (FMap.set d m k v) k = v := by
  rw [FMap.get_eq_find, FMap.set]
  split <;> simp_all

theorem FMap.get_set_ne [DecidableEq α] (d : α) (m : FMap α) {k n : Nat} (v : α) (h : n ≠ k) :
    FMap.get d (FMap.set d m k v) n = FMap.get d m n := by
  rw [FMap.get_eq_find, FMap.get_eq_find, FMap.set]
  split
  · rw [FMap.find_erase_ne m h]
  · rw [FMap.find_put_ne m v h]

theorem FMap.get_set [DecidableEq α] (d : α) (m : FMap α) (k n : Nat) (v : α) :
    FMap.get d (FMap.set d m k v) n = if n = k then v else FMap.get d m n := by
  split
  · simp_all
  · exact FMap.get_set_ne d m v ‹_›

/-! ## The canonical form -/

theorem FMap.risingFrom_mono {n n' : Nat} {m : FMap α} (h : n' ≤ n) (hm : FMap.risingFrom n m = true) :
    FMap.risingFrom n' m = true := by
  cases m with
  | nil => rfl
  | cons e m =>
    simp only [FMap.risingFrom, Bool.and_eq_true, decide_eq_true_eq] at *
    exact ⟨by omega, hm.2⟩

theorem FMap.risingFrom_put {n k : Nat} {m : FMap α} (v : α) (hk : n ≤ k) (hm : FMap.risingFrom n m = true) :
    FMap.risingFrom n (FMap.put m k v) = true := by
  induction m generalizing n with
  | nil => simp [FMap.put, FMap.risingFrom, hk]
  | cons e m ih =>
    obtain ⟨j, w⟩ := e
    simp only [FMap.risingFrom, Bool.and_eq_true, decide_eq_true_eq] at hm
    simp only [FMap.put]
    split
    · simp only [FMap.risingFrom, Bool.and_eq_true, decide_eq_true_eq]
      exact ⟨hk, by omega, hm.2⟩
    · split
      · subst_vars
        simpa [FMap.risingFrom] using hm
      · simp only [FMap.risingFrom, Bool.and_eq_true, decide_eq_true_eq]
        exact ⟨hm.1, ih (by omega) hm.2⟩

theorem FMap.risingFrom_erase {n : Nat} {m : FMap α} (k : Nat) (hm : FMap.risingFrom n m = true) :
    FMap.risingFrom n (FMap.erase m k) = true := by
  induction m generalizing n with
  | nil => exact hm
  | cons e m ih =>
    obtain ⟨j, w⟩ := e
    simp only [FMap.risingFrom, Bool.and_eq_true, decide_eq_true_eq] at hm
    have ih' := ih hm.2
    by_cases hj : j = k
    · have : FMap.erase ((j, w) :: m) k = FMap.erase m k := by simp [FMap.erase, hj]
      rw [this]
      exact FMap.risingFrom_mono (by omega) ih'
    · have : FMap.erase ((j, w) :: m) k = (j, w) :: FMap.erase m k := by simp [FMap.erase, hj]
      rw [this]
      simp only [FMap.risingFrom, Bool.and_eq_true, decide_eq_true_eq]
      exact ⟨hm.1, ih'⟩

theorem FMap.mem_put {m : FMap α} {k : Nat} {v : α} {e : Nat × α} (h : e ∈ FMap.put m k v) : e = (k, v) ∨ e ∈ m := by
  induction m with
  | nil => simpa [FMap.put] using h
  | cons x m ih =>
    obtain ⟨j, w⟩ := x
    simp only [FMap.put] at h
    split at h
    · simpa using h
    · split at h
      · simp only [List.mem_cons] at h ⊢
        exact h.imp id .inr
      · simp only [List.mem_cons] at h ⊢
        rcases h with h | h
        · exact .inr (.inl h)
        · rcases ih h with h | h
          · exact .inl h
          · exact .inr (.inr h)

theorem FMap.wf_set [DecidableEq α] (d : α) {m : FMap α} (k : Nat) (v : α) (h : FMap.wf d m = true) :
    FMap.wf d (FMap.set d m k v) = true := by
  simp only [FMap.wf, Bool.and_eq_true, List.all_eq_true, decide_eq_true_eq] at h ⊢
  rw [FMap.set]
  split
  · exact ⟨FMap.risingFrom_erase k h.1, fun e he => h.2 e (List.mem_filter.mp he).1⟩
  · refine ⟨FMap.risingFrom_put v (Nat.zero_le k) h.1, fun e he => ?_⟩
    rcases FMap.mem_put he with rfl | he
    · assumption
    · exact h.2 e he

/-- A part of a map in canonical form is in canonical form. -/
theorem FMap.risingFrom_filter {n : Nat} {m : FMap α} (p : Nat × α → Bool) (hm : FMap.risingFrom n m = true) :
    FMap.risingFrom n (m.filter p) = true := by
  induction m generalizing n with
  | nil => exact hm
  | cons e m ih =>
    simp only [FMap.risingFrom, Bool.and_eq_true, decide_eq_true_eq] at hm
    by_cases hp : p e = true
    · simpa [List.filter_cons, hp, FMap.risingFrom] using ⟨hm.1, ih hm.2⟩
    · simpa [List.filter_cons, hp] using FMap.risingFrom_mono (by omega) (ih hm.2)

theorem FMap.wf_filter [DecidableEq α] (d : α) {m : FMap α} (p : Nat × α → Bool) (h : FMap.wf d m = true) :
    FMap.wf d (m.filter p) = true := by
  simp only [FMap.wf, Bool.and_eq_true, List.all_eq_true, decide_eq_true_eq] at h ⊢
  exact ⟨FMap.risingFrom_filter p h.1, fun e he => h.2 e (List.mem_filter.mp he).1⟩

theorem FMap.wf_put [DecidableEq α] (d : α) {m : FMap α} (k : Nat) {v : α} (hv : v ≠ d) (h : FMap.wf d m = true) :
    FMap.wf d (FMap.put m k v) = true := by
  have := FMap.wf_set d k v h
  rwa [FMap.set, if_neg hv] at this

/-! ## Bytes -/

theorem Memory.wf_putBytes {m : FMap Byte} (a : Nat) (bs : List Byte) (h : Memory.wf m = true) :
    Memory.wf (putBytes m a bs) = true := by
  induction bs generalizing m a with
  | nil => exact h
  | cons b bs ih => exact ih (a + 1) (FMap.wf_set 0#8 a b h)

/-- A byte outside the stored ones keeps its value. -/
theorem get_putBytes_of_lt {m : FMap Byte} {a n : Nat} (bs : List Byte) (h : n < a) :
    FMap.get 0#8 (putBytes m a bs) n = FMap.get 0#8 m n := by
  induction bs generalizing m a with
  | nil => rfl
  | cons b bs ih => rw [putBytes, ih (by omega), FMap.get_set_ne _ _ _ (by omega)]

/-- A byte outside the stored ones keeps its value. -/
theorem get_putBytes_of_le {m : FMap Byte} {a n : Nat} (bs : List Byte) (h : a + bs.length ≤ n) :
    FMap.get 0#8 (putBytes m a bs) n = FMap.get 0#8 m n := by
  induction bs generalizing m a with
  | nil => rfl
  | cons b bs ih =>
    simp only [List.length_cons] at h
    rw [putBytes, ih (by omega), FMap.get_set_ne _ _ _ (by omega)]

/-- A stored byte reads back. -/
theorem get_putBytes {m : FMap Byte} {a i : Nat} (bs : List Byte) (h : i < bs.length) :
    FMap.get 0#8 (putBytes m a bs) (a + i) = bs[i] := by
  induction bs generalizing m a i with
  | nil => simp at h
  | cons b bs ih =>
    cases i with
    | zero => simp [putBytes, get_putBytes_of_lt]
    | succ i =>
      simp only [List.length_cons] at h
      have := ih (m := FMap.set 0#8 m a b) (a := a + 1) (i := i) (by omega)
      rw [Nat.add_assoc, Nat.add_comm 1 i] at this
      simpa [putBytes] using this

/-- What is stored reads back. -/
theorem bytesAt_putBytes (m : FMap Byte) (a : Nat) (bs : List Byte) : bytesAt (putBytes m a bs) a bs.length = bs := by
  apply List.ext_getElem
  · simp [bytesAt]
  · intro i h1 h2
    simp [bytesAt, get_putBytes bs h2]

end Sys2Proof.Machine
end

