-- ==== Sys2Proof/Laws/Ops.lean ====
section
/-! SUPPORT. Laws of the named operations: what each of them reads back as, and what it leaves unchanged. -/

namespace Sys2Proof.Machine

/-! ## Cores and groups -/

@[simp] theorem State.core_setCore (s : State) (c : Nat) (k : CoreSt) : (s.setCore c k).core c = k := by
  simp [State.core, State.setCore]

theorem State.core_setCore_ne (s : State) {c n : Nat} (k : CoreSt) (h : n ≠ c) : (s.setCore c k).core n = s.core n := by
  simp [State.core, State.setCore, FMap.find_put_ne _ _ h]

@[simp] theorem State.core_updCore (s : State) (c : Nat) (f : CoreSt → CoreSt) : (s.updCore c f).core c = f (s.core c) := by
  simp [State.updCore]

theorem State.core_updCore_ne (s : State) {c n : Nat} (f : CoreSt → CoreSt) (h : n ≠ c) :
    (s.updCore c f).core n = s.core n := by
  simp [State.updCore, State.core_setCore_ne _ _ h]

theorem State.updCore_package (s : State) (c : Nat) (f : CoreSt → CoreSt) :
    s.updCore c f = { s with cores := (s.updCore c f).cores } := rfl

@[simp] theorem State.group_setGroup (s : State) (c g : Nat) (x : Group) : (s.setGroup c g x).group c g = some x := by
  simp [State.group, State.setGroup]

theorem State.group_setGroup_ne (s : State) {c g n : Nat} (x : Group) (h : n ≠ g) :
    (s.setGroup c g x).group c n = s.group c n := by
  simp [State.group, State.setGroup, FMap.find_put_ne _ _ h]

theorem State.group_updGroup (s : State) (c g : Nat) (f : Group → Group) :
    (s.updGroup c g f).group c g = (s.group c g).map f := by
  unfold State.updGroup
  cases h : s.group c g <;> simp [h]

@[simp] theorem Group.split_updSplit (g : Group) (k : Nat) (f : Split → Split) :
    (g.updSplit k f).split k = (g.split k).map f := by
  unfold Group.updSplit
  cases h : g.split k
  · simp [h]
  · simp [Group.split]

theorem Group.split_updSplit_ne (g : Group) {k n : Nat} (f : Split → Split) (h : n ≠ k) :
    (g.updSplit k f).split n = g.split n := by
  unfold Group.updSplit
  cases g.split k
  · rfl
  · simp [Group.split, FMap.find_put_ne _ _ h]

theorem Group.updSplit_eq (g : Group) (k : Nat) (f : Split → Split) :
    g.updSplit k f = { g with splits := (g.updSplit k f).splits } := by
  unfold Group.updSplit
  cases g.split k <;> rfl

@[simp] theorem Group.thread_updThread (g : Group) (l : Nat) (f : Thread → Thread) :
    (g.updThread l f).thread l = f (g.thread l) := by
  simp [Group.thread, Group.updThread]

theorem Group.thread_updThread_ne (g : Group) {l n : Nat} (f : Thread → Thread) (h : n ≠ l) :
    (g.updThread l f).thread n = g.thread n := by
  simp [Group.thread, Group.updThread, FMap.find_put_ne _ _ h]

/-! ## What leaves everything else unchanged -/

theorem OnlyGroup.refl (s : State) (core gid : Nat) : OnlyGroup s s core gid :=
  ⟨rfl, fun _ _ => rfl, rfl, fun _ _ => rfl, fun _ _ => rfl⟩

theorem OnlyGroup.trans {s t u : State} {core gid : Nat} (h : OnlyGroup s t core gid) (k : OnlyGroup t u core gid) :
    OnlyGroup s u core gid where
  package := by rw [k.package, h.package]
  otherCores n hn := by rw [k.otherCores n hn, h.otherCores n hn]
  restOfCore := by rw [k.restOfCore, h.restOfCore]
  otherGroups n hn := by rw [k.otherGroups n hn, h.otherGroups n hn]
  otherTracks n hn := by rw [k.otherTracks n hn, h.otherTracks n hn]

/-- Counting events changes nothing of a core but the list of the events that it has still to count. -/
theorem CoreSt.count_rest (k : CoreSt) (ev n : Nat) (ctx : Option Nat) :
    k.count ev n ctx = { k with pmcNow := (k.count ev n ctx).pmcNow } := by
  unfold CoreSt.count
  split <;> rfl

@[simp] theorem CoreSt.count_groups (k : CoreSt) (ev n : Nat) (ctx : Option Nat) : (k.count ev n ctx).groups = k.groups := by
  rw [CoreSt.count_rest]

@[simp] theorem CoreSt.count_tracks (k : CoreSt) (ev n : Nat) (ctx : Option Nat) : (k.count ev n ctx).tracks = k.tracks := by
  rw [CoreSt.count_rest]

/-- An update of a core that changes only a group, its track and the events to be counted. -/
theorem OnlyGroup.updCore (s : State) (core gid : Nat) (f : CoreSt → CoreSt)
    (rest : ∀ k, f k = { k with groups := (f k).groups, tracks := (f k).tracks, pmcNow := (f k).pmcNow })
    (groups : ∀ k n, n ≠ gid → FMap.find (f k).groups n = FMap.find k.groups n)
    (tracks : ∀ k n, n ≠ trackOf gid → FMap.find (f k).tracks n = FMap.find k.tracks n) :
    OnlyGroup s (s.updCore core f) core gid where
  package := rfl
  otherCores n hn := State.core_updCore_ne s f hn
  restOfCore := by simpa using rest (s.core core)
  otherGroups n hn := by simpa [State.group] using groups (s.core core) n hn
  otherTracks n hn := by simp [State.track, tracks (s.core core) n hn]

theorem OnlyGroup.setGroup (s : State) (core gid : Nat) (x : Group) : OnlyGroup s (s.setGroup core gid x) core gid :=
  OnlyGroup.updCore s core gid _ (fun _ => rfl) (fun _ _ h => FMap.find_put_ne _ _ h) (fun _ _ _ => rfl)

theorem OnlyGroup.updGroup (s : State) (core gid : Nat) (f : Group → Group) : OnlyGroup s (s.updGroup core gid f) core gid := by
  unfold State.updGroup
  split
  · exact OnlyGroup.setGroup s core gid _
  · exact OnlyGroup.refl s core gid

theorem OnlyGroup.updSplit (s : State) (core gid k : Nat) (f : Split → Split) :
    OnlyGroup s (s.updSplit core gid k f) core gid := OnlyGroup.updGroup s core gid _

theorem OnlyGroup.count (s : State) (core gid ev n : Nat) (ctx : Option Nat) :
    OnlyGroup s (s.count core ev n ctx) core gid :=
  OnlyGroup.updCore s core gid _ (fun k => by rw [CoreSt.count_groups, CoreSt.count_tracks]; exact CoreSt.count_rest k ev n ctx)
    (fun _ _ _ => by rw [CoreSt.count_groups]) (fun _ _ _ => by rw [CoreSt.count_tracks])

theorem OnlyGroup.updTrack (s : State) (core gid : Nat) (f : Track → Track) :
    OnlyGroup s (s.updTrack core (trackOf gid) f) core gid :=
  OnlyGroup.updCore s core gid _ (fun _ => rfl) (fun _ _ _ => rfl) (fun _ _ h => FMap.find_put_ne _ _ h)

theorem OnlyGroup.freeTrack (s : State) (core gid : Nat) : OnlyGroup s (s.freeTrack core gid) core gid :=
  OnlyGroup.updTrack s core gid _

theorem OnlyGroup.occupy (s : State) (core gid n : Nat) : OnlyGroup s (s.occupy core gid n) core gid :=
  OnlyGroup.updTrack s core gid _

/-! ## The group that each operation leaves -/

@[simp] theorem State.group_count (s : State) (core ev n : Nat) (ctx : Option Nat) (c g : Nat) :
    (s.count core ev n ctx).group c g = s.group c g := by
  by_cases h : c = core
  · subst h
    simp [State.group, State.count]
  · simp [State.group, State.count, State.core_updCore_ne _ _ h]

@[simp] theorem State.group_updTrack (s : State) (core n : Nat) (f : Track → Track) (c g : Nat) :
    (s.updTrack core n f).group c g = s.group c g := by
  by_cases h : c = core
  · subst h
    simp [State.group, State.updTrack]
  · simp [State.group, State.updTrack, State.core_updCore_ne _ _ h]

@[simp] theorem State.group_freeTrack (s : State) (core n c g : Nat) : (s.freeTrack core n).group c g = s.group c g := by
  simp [State.freeTrack]

@[simp] theorem State.group_occupy (s : State) (core gid n c g : Nat) : (s.occupy core gid n).group c g = s.group c g := by
  simp [State.occupy]

theorem State.group_updSplit (s : State) (c g k : Nat) (f : Split → Split) :
    (s.updSplit c g k f).group c g = (s.group c g).map (·.updSplit k f) := State.group_updGroup s c g _

/-! ## Issue, advance, jump, stall -/

theorem OnlyGroup.countIf (s : State) (b : Bool) (core gid ev n : Nat) (ctx : Option Nat) :
    OnlyGroup s (s.countIf b core ev n ctx) core gid := by
  unfold State.countIf
  split
  · exact OnlyGroup.count s core gid ev n ctx
  · exact OnlyGroup.refl s core gid

@[simp] theorem State.group_countIf (s : State) (b : Bool) (core ev n : Nat) (ctx : Option Nat) (c g : Nat) :
    (s.countIf b core ev n ctx).group c g = s.group c g := by
  unfold State.countIf
  split <;> simp

theorem OnlyGroup.noteIssue (s : State) (c : Cur) (g : Group) (p : Split) (i : Instr) :
    OnlyGroup s (s.noteIssue c g p i) c.core c.gid := by
  unfold State.noteIssue
  split
  · exact OnlyGroup.refl s c.core c.gid
  · exact ((OnlyGroup.updSplit _ _ _ _ _).trans (OnlyGroup.count _ _ _ _ _ _)).trans (OnlyGroup.countIf _ _ _ _ _ _ _)

theorem OnlyGroup.issue (s : State) (c : Cur) (g : Group) (p : Split) (i : Instr) (n : Nat) :
    OnlyGroup s (s.issue c g p i n) c.core c.gid :=
  ((OnlyGroup.noteIssue s c g p i).trans (OnlyGroup.countIf _ _ _ _ _ _ _)).trans (OnlyGroup.occupy _ _ _ _)

/-- The issuing split has folded its words into SIG (R213). -/
theorem State.group_issue (s : State) (c : Cur) (g : Group) (p : Split) (i : Instr) (n : Nat) :
    (s.issue c g p i n).group c.core c.gid = (s.group c.core c.gid).map fun x =>
      if p.issued then x else x.updSplit c.split fun q => { q with sig := foldSig (s.hdr g) g c i q.sig } := by
  unfold State.issue State.noteIssue
  cases p.issued <;> simp [State.group_updSplit]

theorem OnlyGroup.advance (s : State) (c : Cur) : OnlyGroup s (s.advance c) c.core c.gid := by
  unfold State.advance
  dsimp only
  refine (OnlyGroup.updSplit s c.core c.gid c.split (·.goPast c.next (s.freeAt c.core c.gid))).trans ?_
  split
  · split
    · split
      · exact OnlyGroup.freeTrack _ c.core c.gid
      · exact OnlyGroup.refl _ c.core c.gid
    · exact OnlyGroup.freeTrack _ c.core c.gid
  · exact OnlyGroup.refl _ c.core c.gid

theorem State.group_advance (s : State) (c : Cur) :
    (s.advance c).group c.core c.gid =
      (s.group c.core c.gid).map (·.updSplit c.split (·.goPast c.next (s.freeAt c.core c.gid))) := by
  unfold State.advance
  simp only [← State.group_updSplit]
  split
  · split
    · split <;> simp
    · simp
  · rfl

theorem OnlyGroup.jump (s : State) (c : Cur) (target : DWord) : OnlyGroup s (s.jump c target) c.core c.gid := by
  unfold State.jump
  exact (OnlyGroup.updSplit s c.core c.gid c.split _).trans (OnlyGroup.freeTrack _ c.core c.gid)

theorem State.group_jump (s : State) (c : Cur) (target : DWord) :
    (s.jump c target).group c.core c.gid = (s.group c.core c.gid).map (·.updSplit c.split fun p =>
      { p with pc := target, clause := none, clauseEnd := s.freeAt c.core c.gid, issued := false, replay := none, seen := none,
               only := none, wait := .held, resume := none, rt := s.freeAt c.core c.gid, pass := 0 }) := by
  unfold State.jump
  simp [State.group_updSplit]

theorem OnlyGroup.stall (s : State) (c : Cur) (w : Wait) (resume : Option DWord) :
    OnlyGroup s (s.stall c w resume) c.core c.gid := by
  unfold State.stall
  exact (OnlyGroup.updSplit s c.core c.gid c.split _).trans (OnlyGroup.freeTrack _ c.core c.gid)

theorem State.group_stall (s : State) (c : Cur) (w : Wait) (resume : Option DWord) :
    (s.stall c w resume).group c.core c.gid = (s.group c.core c.gid).map (·.updSplit c.split fun p =>
      { p with wait := w, resume := resume, pass := 0 }) := by
  unfold State.stall
  simp [State.group_updSplit]

/-- Going past an instruction changes neither the lanes nor the chain of joins, and sets the PC. -/
theorem Split.goPast_keeps (p : Split) (pc : DWord) (now : Nat) :
    (p.goPast pc now).pc = pc ∧ (p.goPast pc now).active = p.active ∧ (p.goPast pc now).stack = p.stack ∧
      (p.goPast pc now).chain = p.chain ∧ (p.goPast pc now).fmt = p.fmt ∧ (p.goPast pc now).sig = p.sig := by
  unfold Split.goPast Split.countDown
  split
  · split <;> simp
  · simp

/-! ## The gate -/

/-- Stages 2 to 4 let an admitted instruction through. -/
theorem gate_go {s : State} {i : Instr} {c : Cur} {g : Group} {p : Split} (h : Admitted s i c g p) :
    gate (s.hdr g) c (g.asIssued p) p i (fun _ => []) = .go (lanesOf i g p) := by
  unfold gate gateWith Group.asIssued
  have hn := h.numbers
  have hf := h.full
  unfold lanesOf at hn hf
  simp [h.first, h.legal, h.cls, hn, hf, numberFault, fullCheck, lanesOf]

/-- Running an admitted instruction is running its own part on the lanes that execute. -/
theorem gated_of_admitted {s : State} {i : Instr} {c : Cur} {g : Group} {p : Split} (h : Admitted s i c g p)
    (k : Cur → Group → Split → List Nat → Out) : gated i s k = k c g p (lanesOf i g p) := by
  unfold gated gatedWith withCur State.pass
  simp only [h.cur, h.group, h.split]
  rw [gate_go h]

end Sys2Proof.Machine
end

