-- ==== Sys2Proof/Laws/Operands.lean ====
section
/-! SUPPORT. Laws of operands and of the shapes that instructions share: what a thread's registers read after a write,
and what an instruction that works on each thread's own registers does. -/

namespace Sys2Proof.Machine

/-! ## Registers of a thread -/

@[simp] theorem Thread.reg_setReg (t : Thread) (r : Nat) (w : Word) : (t.setReg r w).reg r = w := by
  simp [Thread.reg, Thread.setReg]

theorem Thread.reg_setReg_ne (t : Thread) {r n : Nat} (w : Word) (h : n ≠ r) : (t.setReg r w).reg n = t.reg n := by
  simp [Thread.reg, Thread.setReg, FMap.get_set_ne _ _ _ h]

/-- A write of registers changes the registers alone. -/
theorem Thread.setRegs_eq (t : Thread) (rs : List Nat) (v : Nat) : t.setRegs rs v = { t with v := (t.setRegs rs v).v } := by
  induction rs generalizing t v with
  | nil => rfl
  | cons r rs ih =>
    rw [Thread.setRegs, ih]
    rfl

theorem Thread.reg_setRegs_of_not_mem (t : Thread) {rs : List Nat} {n : Nat} (v : Nat) (h : n ∉ rs) :
    (t.setRegs rs v).reg n = t.reg n := by
  induction rs generalizing t v with
  | nil => rfl
  | cons r rs ih =>
    simp only [List.mem_cons, not_or] at h
    rw [Thread.setRegs, ih _ _ h.2, Thread.reg_setReg_ne _ _ h.1]

/-- A single destination register holds the low 32 bits of the value. -/
@[simp] theorem Thread.reg_setRegs_one (t : Thread) (r v : Nat) : (t.setRegs [r] v).reg r = BitVec.ofNat 32 v := by
  simp [Thread.setRegs]

/-- Of a run of distinct registers, register `k` holds bits [32k+31:32k] of the value (R3). -/
theorem Thread.reg_setRegs (t : Thread) {rs : List Nat} (hd : rs.Nodup) (v k : Nat) (hk : k < rs.length) :
    (t.setRegs rs v).reg rs[k] = BitVec.ofNat 32 (v / 2 ^ (32 * k)) := by
  induction rs generalizing t v k with
  | nil => simp at hk
  | cons r rs ih =>
    rw [List.nodup_cons] at hd
    cases k with
    | zero => simp [Thread.setRegs, Thread.reg_setRegs_of_not_mem _ _ hd.1]
    | succ k =>
      simp only [List.length_cons] at hk
      have := ih (t.setReg r (BitVec.ofNat 32 v)) hd.2 (v / 2 ^ 32) k (by omega)
      rw [Thread.setRegs, List.getElem_cons_succ, this, Nat.div_div_eq_div_mul, ← Nat.pow_add, Nat.mul_add, Nat.mul_one,
        Nat.add_comm]

/-! ## Lanes -/

theorem lanes32_nodup : lanes32.Nodup := List.nodup_range

theorem lanesOf_nodup (i : Instr) (g : Group) (p : Split) : (lanesOf i g p).Nodup :=
  (lanes32_nodup.filter _).filter _

theorem lanesOf_lt {i : Instr} {g : Group} {p : Split} {l : Nat} (h : l ∈ lanesOf i g p) : l < 32 := by
  have := List.mem_filter.mp (List.mem_filter.mp h).1
  simpa [lanes32] using this.1

/-! ## Results of threads -/

/-- Writing predicates changes no register. -/
theorem Thread.setPred_eq (t : Thread) (k : Nat) (b : Bool) : t.setPred k b = { t with p := (t.setPred k b).p } := by
  unfold Thread.setPred
  split <;> rfl

theorem Thread.setPreds_eq (t : Thread) (ps : List (Nat × Bool)) :
    ps.foldl (fun t p => t.setPred p.1 p.2) t = { t with p := (ps.foldl (fun t p => t.setPred p.1 p.2) t).p } := by
  induction ps generalizing t with
  | nil => rfl
  | cons q ps ih =>
    rw [List.foldl_cons, ih, Thread.setPred_eq t q.1 q.2]

/-- A thread's results change its registers, predicates and index registers alone. -/
theorem LaneOut.commit_eq (o : LaneOut) (rs : List Nat) (t : Thread) :
    o.commit rs t = { t with v := (o.commit rs t).v, p := (o.commit rs t).p, x := (o.commit rs t).x } := by
  unfold LaneOut.commit
  dsimp only
  rw [Thread.setPreds_eq]
  cases o.d <;> cases o.x
  · rfl
  · rfl
  · dsimp only
    rw [Thread.setRegs_eq]
  · dsimp only
    rw [Thread.setRegs_eq]
    rfl

/-- The registers after a thread's results. -/
theorem LaneOut.reg_commit (o : LaneOut) (rs : List Nat) (t : Thread) (n : Nat) :
    (o.commit rs t).reg n = (match o.d with | some v => t.setRegs rs v | none => t).reg n := by
  unfold LaneOut.commit
  dsimp only
  rw [Thread.setPreds_eq]
  cases o.d <;> cases o.x <;> rfl

theorem LaneOut.reg_commit_of_not_mem (o : LaneOut) {rs : List Nat} (t : Thread) {n : Nat} (h : n ∉ rs) :
    (o.commit rs t).reg n = t.reg n := by
  rw [LaneOut.reg_commit]
  cases o.d
  · rfl
  · exact Thread.reg_setRegs_of_not_mem t _ h

/-- Updates of distinct lanes, each once. -/
theorem Group.thread_foldl_updThread (g : Group) {ls : List Nat} (hd : ls.Nodup) (f : Nat → Thread → Thread) (l : Nat) :
    (ls.foldl (fun (a : Group) l => a.updThread l (f l)) g).thread l = if l ∈ ls then f l (g.thread l) else g.thread l := by
  induction ls generalizing g with
  | nil => simp
  | cons k ls ih =>
    rw [List.nodup_cons] at hd
    rw [List.foldl_cons, ih _ hd.2]
    by_cases hk : l = k
    · subst hk
      simp [hd.1]
    · by_cases hl : l ∈ ls <;> simp [hk, hl, Group.thread_updThread_ne _ _ hk]

theorem Group.foldl_updThread_eq (g : Group) (ls : List Nat) (f : Nat → Thread → Thread) :
    ls.foldl (fun (a : Group) l => a.updThread l (f l)) g =
      { g with lanes := (ls.foldl (fun (a : Group) l => a.updThread l (f l)) g).lanes } := by
  induction ls generalizing g with
  | nil => rfl
  | cons k ls ih =>
    rw [List.foldl_cons, ih]
    rfl

/-- The threads after the results of all executing lanes. -/
theorem thread_commitLanes (h : Header) (g : Group) (i : Instr) {ls : List Nat} (hd : ls.Nodup) (out : Nat → LaneOut)
    (l : Nat) : (commitLanes h g i ls out).thread l =
      if l ∈ ls then (out (sourceLane i ls l)).commit (fieldRegs h g.rrb (g.thread l) i.info.d i.view.d) (g.thread l)
      else g.thread l := by
  unfold commitLanes
  exact Group.thread_foldl_updThread g hd
    (fun l => (out (sourceLane i ls l)).commit (fieldRegs h g.rrb (g.thread l) i.info.d i.view.d)) l

/-- The results change threads and flags alone. -/
theorem commitLanes_eq (h : Header) (g : Group) (i : Instr) (ls : List Nat) (out : Nat → LaneOut) :
    commitLanes h g i ls out =
      { g with lanes := (commitLanes h g i ls out).lanes,
               flags := g.flags ||| BitVec.ofNat 32 ((computeLanes i ls).foldl (fun f l => f ||| (out l).flags) 0),
               recent := g.recent ||| BitVec.ofNat 32 ((computeLanes i ls).foldl (fun f l => f ||| (out l).flags) 0),
               sync := g.sync ||| BitVec.ofNat 32 ((computeLanes i ls).foldl (fun f l => f ||| (out l).flags) 0) } := by
  unfold commitLanes Group.setFlags
  rw [Group.foldl_updThread_eq]

/-! ## The rest of a group -/

theorem RestOfGroup.refl (g : Group) : RestOfGroup g g := rfl

theorem RestOfGroup.trans {g h k : Group} (a : RestOfGroup g h) (b : RestOfGroup h k) : RestOfGroup g k := by
  unfold RestOfGroup at *
  rw [b, a]

theorem RestOfGroup.of_splits (g : Group) (m : FMap Split) : RestOfGroup g { g with splits := m } := rfl

theorem RestOfGroup.updSplit (g : Group) (k : Nat) (f : Split → Split) : RestOfGroup g (g.updSplit k f) := by
  rw [Group.updSplit_eq]
  rfl

theorem RestOfGroup.updThread (g : Group) (l : Nat) (f : Thread → Thread) : RestOfGroup g (g.updThread l f) := rfl

theorem RestOfGroup.setFlags (g : Group) (f : Nat) : RestOfGroup g (g.setFlags f) := rfl

theorem RestOfGroup.updThreads (g : Group) (ls : List Nat) (f : Nat → Thread → Thread) :
    RestOfGroup g (ls.foldl (fun (a : Group) l => a.updThread l (f l)) g) := by
  rw [Group.foldl_updThread_eq]
  rfl

theorem RestOfGroup.commitLanes (h : Header) (g : Group) (i : Instr) (ls : List Nat) (out : Nat → LaneOut) :
    RestOfGroup g (commitLanes h g i ls out) := by
  rw [commitLanes_eq]
  rfl

/-! ## Instructions that work on each thread's own registers -/

/-- The split that issues, its words folded into SIG (R213). -/
def foldedSplit (s : State) (i : Instr) (c : Cur) (g : Group) (p : Split) : Split :=
  { p with sig := if p.issued then p.sig else foldSig (s.hdr g) g c i p.sig }

/-- The results that `laneOpAt` writes. -/
def laneResults (i : Instr) (im : Imms) (f : State → Cur → Group → Split → LaneIn → LaneOut) (s : State) (c : Cur)
    (g : Group) (p : Split) (l : Nat) : LaneOut :=
  f s c g (foldedSplit s i c g p) (laneIn (s.hdr g) g i im l)

/-- What an admitted instruction of this shape does: it answers a next state that differs in the group alone; every
executing lane's thread has its results, read from the lane that U selects; the flags gain those of the lanes that
compute and UV; the split goes on. -/
theorem laneOpAt_next {s : State} {i : Instr} {c : Cur} {g : Group} {p : Split} (h : Admitted s i c g p) (im : Imms)
    (f : State → Cur → Group → Split → LaneIn → LaneOut) :
    ∃ t g', laneOpAt i im f s = .next t ∧ OnlyGroup s t c.core c.gid ∧ t.group c.core c.gid = some g' ∧
      RestOfGroup g g' ∧
      (∀ l, g'.thread l =
        if l ∈ lanesOf i g p then
          (laneResults i im f s c g p (sourceLane i (lanesOf i g p) l)).commit (destRegs s i g l) (g.thread l)
        else g.thread l) ∧
      g'.flags = (g.flags ||| BitVec.ofNat 32 ((computeLanes i (lanesOf i g p)).foldl
        (fun x l => x ||| (laneResults i im f s c g p l).flags) 0)) |||
        BitVec.ofNat 32 (uvFlag (s.hdr g) g i im (lanesOf i g p)) ∧
      OnlySplit g g' c.split p ∧ WentOn g' c := by
  unfold laneOpAt
  rw [gated_of_admitted h]
  let ls := lanesOf i g p
  let g1 : Group := if p.issued then g else g.updSplit c.split fun q => { q with sig := foldSig (s.hdr g) g c i q.sig }
  let out := fun l => laneResults i im f s c g p l
  let now := (((s.issue c g p i ls.length).updGroup c.core c.gid fun g' =>
      (commitLanes (s.hdr g) { g with splits := g'.splits } i ls out).setFlags (uvFlag (s.hdr g) g i im ls))).freeAt c.core c.gid
  let g2 := (commitLanes (s.hdr g) { g with splits := g1.splits } i ls out).setFlags (uvFlag (s.hdr g) g i im ls)
  have hs2 : g2.splits = g1.splits := by
    show (commitLanes (s.hdr g) { g with splits := g1.splits } i ls out).splits = _
    rw [commitLanes_eq]
  have hsplit : ∃ q, g1.split c.split = some q ∧ q.active = p.active ∧ q.stack = p.stack ∧ q.chain = p.chain ∧
      q.fmt = p.fmt := by
    show ∃ q, (if p.issued then g else _).split c.split = some q ∧ _
    split
    · exact ⟨p, h.split, rfl, rfl, rfl, rfl⟩
    · refine ⟨{ p with sig := foldSig (s.hdr g) g c i p.sig }, ?_, rfl, rfl, rfl, rfl⟩
      simp only [Group.split_updSplit, h.split, Option.map_some]
  have hother : ∀ n, n ≠ c.split → g1.split n = g.split n := by
    intro n hn
    show (if p.issued then g else _).split n = _
    split
    · rfl
    · exact Group.split_updSplit_ne g _ hn
  have hg2 : ∀ n, g2.split n = g1.split n := fun n => by rw [Group.split, hs2]; rfl
  refine ⟨_, g2.updSplit c.split (·.goPast c.next now), rfl, ?_, ?_, ?_, ?_, ?_, ?_, ?_⟩
  · exact ((OnlyGroup.issue s c g p i _).trans (OnlyGroup.updGroup _ _ _ _)).trans (OnlyGroup.advance _ c)
  · rw [State.group_advance, State.group_updGroup, State.group_issue, h.group]
    rfl
  · refine RestOfGroup.trans (RestOfGroup.trans (RestOfGroup.of_splits g g1.splits) ?_) (RestOfGroup.updSplit g2 _ _)
    exact (RestOfGroup.commitLanes _ _ _ _ _).trans (RestOfGroup.setFlags _ _)
  · intro l
    have : (g2.updSplit c.split (·.goPast c.next now)).thread l = g2.thread l := by
      rw [Group.updSplit_eq]
      rfl
    rw [this]
    exact thread_commitLanes (s.hdr g) { g with splits := g1.splits } i (lanesOf_nodup i g p) out l
  · rw [Group.updSplit_eq]
    show (commitLanes (s.hdr g) { g with splits := g1.splits } i ls out).flags ||| _ = _
    rw [commitLanes_eq]
  · obtain ⟨q, hq, ha, hst, hc, hf⟩ := hsplit
    refine ⟨fun n hn => ?_, ⟨q.goPast c.next now, ?_, ?_⟩⟩
    · rw [Group.split_updSplit_ne _ _ hn, hg2, hother n hn]
    · simp [hg2, hq]
    · have := q.goPast_keeps c.next now
      exact ⟨by rw [this.2.1, ha], by rw [this.2.2.1, hst], by rw [this.2.2.2.1, hc], by rw [this.2.2.2.2.1, hf]⟩
  · obtain ⟨q, hq, -⟩ := hsplit
    exact ⟨q.goPast c.next now, by simp [hg2, hq], (q.goPast_keeps c.next now).1⟩

end Sys2Proof.Machine
end

