-- ==== Sys2Proof/Laws/Results.lean ====
section
/-! SUPPORT. Laws of results: the exact integers of the arithmetic as words, the destination of a one-register and of a
pair result, and how an instruction of the shared shape meets `Writes32` and `Writes64`. -/

namespace Sys2Proof.Machine

/-! ## Integers as words -/

/-- Wrapping an exact integer is reading it as a word. -/
@[simp] theorem ofNat_wrapI (z : Int) (w : Nat) : BitVec.ofNat w (wrapI z w) = BitVec.ofInt w z := by
  have hp : (0 : Int) < ((2 ^ w : Nat) : Int) := by exact_mod_cast Nat.two_pow_pos w
  apply BitVec.eq_of_toInt_eq
  rw [← BitVec.ofInt_natCast, BitVec.toInt_ofInt, BitVec.toInt_ofInt, wrapI,
    Int.toNat_of_nonneg (Int.emod_nonneg _ (by omega)), Int.emod_bmod]

theorem wrapI_lt (z : Int) (w : Nat) : wrapI z w < 2 ^ w := by
  have hp : (0 : Int) < ((2 ^ w : Nat) : Int) := by exact_mod_cast Nat.two_pow_pos w
  have h := Int.emod_lt_of_pos z hp
  have h0 := Int.emod_nonneg z (by omega : ((2 ^ w : Nat) : Int) ≠ 0)
  unfold wrapI
  omega

/-- The signed value of the low bits (Table 0.2). -/
theorem sextN_eq_toInt (n w : Nat) : sextN n w = (BitVec.ofNat w n).toInt := by
  unfold sextN
  rw [BitVec.toInt_eq_toNat_cond, BitVec.toNat_ofNat]

theorem ofInt_sextN (n w : Nat) : BitVec.ofInt w (sextN n w) = BitVec.ofNat w n := by
  rw [sextN_eq_toInt, BitVec.ofInt_toInt]

/-! ## Destinations -/

/-- Direct registers of one run differ under rotation (R80). -/
theorem rotated_ne (h : Header) (rrb n : Nat) {i j : Nat} (hij : i < j) : rotated h rrb (n + i) ≠ rotated h rrb (n + j) := by
  unfold rotated
  intro he
  by_cases h1 : h.rotSize ≠ 0 ∧ h.rotBase ≤ n + i ∧ n + i < h.rotBase + h.rotSize
  · rw [if_pos h1] at he
    by_cases h2 : h.rotSize ≠ 0 ∧ h.rotBase ≤ n + j ∧ n + j < h.rotBase + h.rotSize
    · rw [if_pos h2] at he
      have e : (n + j - h.rotBase + rrb) % h.rotSize = (n + i - h.rotBase + rrb) % h.rotSize := by omega
      have z := Nat.sub_mod_eq_zero_of_mod_eq e
      rw [Nat.mod_eq_of_lt (by omega)] at z
      omega
    · rw [if_neg h2] at he
      have := Nat.mod_lt (n + i - h.rotBase + rrb) (Nat.pos_of_ne_zero h1.1)
      omega
  · rw [if_neg h1] at he
    by_cases h2 : h.rotSize ≠ 0 ∧ h.rotBase ≤ n + j ∧ n + j < h.rotBase + h.rotSize
    · rw [if_pos h2] at he
      have := Nat.mod_lt (n + j - h.rotBase + rrb) (Nat.pos_of_ne_zero h2.1)
      omega
    · rw [if_neg h2] at he
      omega

/-- A run built from distinct numbers has no repeats. -/
theorem nodup_map_range {f : Nat → Nat} (hf : ∀ i j, i < j → f i ≠ f j) (w : Nat) : ((List.range w).map f).Nodup := by
  refine List.Pairwise.map f (R := fun a b => a < b) (fun a b hab => hf a b hab) List.pairwise_lt_range

/-- The registers that an operand names differ from one another. -/
theorem nameRegs_nodup {h : Header} {rrb : Nat} {t : Thread} {x : Fld} {w al : Nat} {rot : Bool} {rs : List Nat}
    (e : nameRegs h rrb t x w al rot = .regs rs) : rs.Nodup := by
  unfold nameRegs at e
  cases hm : x.mode <;> rw [hm] at e <;> dsimp only at e
  · split at e
    · cases e
    · cases e
      refine nodup_map_range (fun i j hij => ?_) w
      cases rot
      · simp; omega
      · simpa using rotated_ne h rrb x.f.toNat hij
  · split at e
    · cases e
    · cases e
      exact nodup_map_range (fun i j hij => by omega) w
  · cases e

theorem nameRegs_length {h : Header} {rrb : Nat} {t : Thread} {x : Fld} {w al : Nat} {rot : Bool} {rs : List Nat}
    (e : nameRegs h rrb t x w al rot = .regs rs) : rs.length = w := by
  unfold nameRegs at e
  cases hm : x.mode <;> rw [hm] at e <;> dsimp only at e
  · split at e
    · cases e
    · cases e; simp
  · split at e
    · cases e
    · cases e; simp
  · cases e

theorem slotOf_fld {k : Opnd} {x : Fld} {sl : Slot} (h : slotOf k x = some sl) : sl.fld = x := by
  cases k <;> simp [slotOf] at h <;> rw [← h]

/-- Destination registers differ from one another. -/
theorem destRegs_nodup (s : State) (i : Instr) (g : Group) (l : Nat) : (destRegs s i g l).Nodup := by
  unfold destRegs fieldRegs
  split
  · exact List.nodup_nil
  · split
    · exact nameRegs_nodup ‹_›
    · exact List.nodup_nil

/-- A destination of one register names at most one. -/
theorem destRegs_one {s : State} {i : Instr} {g : Group} {l r : Nat}
    (hd : ∀ sl, slotOf i.info.d i.view.d = some sl → sl.w = 1) (hr : r ∈ destRegs s i g l) : destRegs s i g l = [r] := by
  have hlen : (destRegs s i g l).length ≤ 1 := by
    unfold destRegs fieldRegs
    split
    · simp
    · split
      · rename_i sl hs _ _ hn
        exact Nat.le_of_eq ((nameRegs_length hn).trans (hd _ hs))
      · simp
  match hq : destRegs s i g l with
  | [] => rw [hq] at hr; cases hr
  | [a] => rw [hq] at hr; rw [List.mem_singleton] at hr; rw [hr]
  | a :: b :: l => rw [hq] at hlen; simp at hlen

/-! ## Meeting the claims -/

/-- What an instruction of the shared shape leaves in a destination register of a lane. -/
theorem laneOpAt_writes {i : Instr} {im : Imms} {f : State → Cur → Group → Split → LaneIn → LaneOut}
    (he : ∀ s, exec i s = laneOpAt i im f s) :
    Completes i fun s c g p t h => OnlyGroup s t c.core c.gid ∧ RestOfGroup g h ∧ OnlySplit g h c.split p ∧ WentOn h c ∧
      (∀ l, h.thread l = if l ∈ lanesOf i g p then
          (laneResults i im f s c g p (sourceLane i (lanesOf i g p) l)).commit (destRegs s i g l) (g.thread l)
        else g.thread l) ∧
      h.flags = (g.flags ||| BitVec.ofNat 32 ((computeLanes i (lanesOf i g p)).foldl
        (fun x l => x ||| (laneResults i im f s c g p l).flags) 0)) |||
        BitVec.ofNat 32 (uvFlag (s.hdr g) g i im (lanesOf i g p)) := by
  intro s c g p ha
  obtain ⟨t, h, h1, h2, h3, h4, h5, h6, h7, h8⟩ := laneOpAt_next ha im f
  exact ⟨t, h, by rw [he]; exact h1, h3, h2, h4, h7, h8, h5, h6⟩

theorem Completes.imp {i : Instr} {P Q : State → Cur → Group → Split → State → Group → Prop} (h : Completes i P)
    (hpq : ∀ s c g p t x, Admitted s i c g p → P s c g p t x → Q s c g p t x) : Completes i Q := by
  intro s c g p ha
  obtain ⟨t, x, h1, h2, h3⟩ := h s c g p ha
  exact ⟨t, x, h1, h2, hpq s c g p t x ha h3⟩

/-- An instruction of the shared shape with a destination of one register writes the result's low word. -/
theorem writes32_of {i : Instr} {im : Imms} {f : State → Cur → Group → Split → LaneIn → LaneOut}
    {val : State → Cur → Group → Split → LaneIn → Word} (he : ∀ s, exec i s = laneOpAt i im f s)
    (hd : ∀ sl, slotOf i.info.d i.view.d = some sl → sl.w = 1)
    (hv : ∀ s c g p x, ∃ v, (f s c g (foldedSplit s i c g p) x).d = some v ∧ BitVec.ofNat 32 v = val s c g p x) :
    Writes32 i im val := by
  refine Completes.imp (laneOpAt_writes he) ?_
  rintro s c g p t h - ⟨-, -, -, -, ht, -⟩ l hl r hr
  obtain ⟨v, h1, h2⟩ := hv s c g p (sources s i im g p l)
  rw [ht, if_pos hl, LaneOut.reg_commit, destRegs_one hd hr]
  have : (laneResults i im f s c g p (sourceLane i (lanesOf i g p) l)).d = some v := h1
  rw [this]
  simpa using h2

/-- An instruction of the shared shape writes each register of its run the word of the result that is its own. -/
theorem writes64_of {i : Instr} {im : Imms} {f : State → Cur → Group → Split → LaneIn → LaneOut}
    {val : State → Cur → Group → Split → LaneIn → DWord} (he : ∀ s, exec i s = laneOpAt i im f s)
    (hd : ∀ sl, slotOf i.info.d i.view.d = some sl → sl.w ≤ 2)
    (hv : ∀ s c g p x, ∃ v, (f s c g (foldedSplit s i c g p) x).d = some v ∧ BitVec.ofNat 64 v = val s c g p x) :
    Writes64 i im val := by
  refine Completes.imp (laneOpAt_writes he) ?_
  rintro s c g p t h - ⟨-, -, -, -, ht, -⟩ l hl k r hr
  obtain ⟨v, h1, h2⟩ := hv s c g p (sources s i im g p l)
  rw [ht, if_pos hl, LaneOut.reg_commit]
  have : (laneResults i im f s c g p (sourceLane i (lanesOf i g p) l)).d = some v := h1
  rw [this]
  obtain ⟨hk, rfl⟩ := List.getElem?_eq_some_iff.mp hr
  have hlen : (destRegs s i g l).length ≤ 2 := by
    unfold destRegs fieldRegs
    split
    · simp
    · split
      · rename_i sl hs _ _ hn
        rw [nameRegs_length hn]
        exact hd _ hs
      · simp
  dsimp only
  rw [Thread.reg_setRegs _ (destRegs_nodup s i g l), ← h2]
  apply BitVec.eq_of_toNat_eq
  rw [BitVec.extractLsb'_toNat, BitVec.toNat_ofNat, BitVec.toNat_ofNat, Nat.shiftRight_eq_div_pow]
  have hk2 : k < 2 := by omega
  have : k = 0 ∨ k = 1 := by omega
  rcases this with rfl | rfl
  · omega
  · omega

end Sys2Proof.Machine
end

