-- ==== Sys2Proof/Laws/State.lean ====
section
/-! SUPPORT. One lemma per field per update of State, true by rfl: what an update leaves unchanged, and for the plain setters
what the changed field becomes. -/

namespace Sys2Proof.Machine

/-! ## `State.setCore` -/

@[simp] theorem State.clk_setCore (s : State) (c : Nat) (k : CoreSt) : (s.setCore c k).clk = s.clk := rfl
@[simp] theorem State.dev_setCore (s : State) (c : Nat) (k : CoreSt) : (s.setCore c k).dev = s.dev := rfl
@[simp] theorem State.agenda_setCore (s : State) (c : Nat) (k : CoreSt) : (s.setCore c k).agenda = s.agenda := rfl
@[simp] theorem State.turns_setCore (s : State) (c : Nat) (k : CoreSt) : (s.setCore c k).turns = s.turns := rfl
@[simp] theorem State.cur_setCore (s : State) (c : Nat) (k : CoreSt) : (s.setCore c k).cur = s.cur := rfl
@[simp] theorem State.fresh_setCore (s : State) (c : Nat) (k : CoreSt) : (s.setCore c k).fresh = s.fresh := rfl
@[simp] theorem State.mem_setCore (s : State) (c : Nat) (k : CoreSt) : (s.setCore c k).mem = s.mem := rfl
@[simp] theorem State.poisoned_setCore (s : State) (c : Nat) (k : CoreSt) : (s.setCore c k).poisoned = s.poisoned := rfl
@[simp] theorem State.latent_setCore (s : State) (c : Nat) (k : CoreSt) : (s.setCore c k).latent = s.latent := rfl
@[simp] theorem State.soft_setCore (s : State) (c : Nat) (k : CoreSt) : (s.setCore c k).soft = s.soft := rfl
@[simp] theorem State.wgs_setCore (s : State) (c : Nat) (k : CoreSt) : (s.setCore c k).wgs = s.wgs := rfl
@[simp] theorem State.q_setCore (s : State) (c : Nat) (k : CoreSt) : (s.setCore c k).q = s.q := rfl
@[simp] theorem State.fly_setCore (s : State) (c : Nat) (k : CoreSt) : (s.setCore c k).fly = s.fly := rfl
@[simp] theorem State.gen_setCore (s : State) (c : Nat) (k : CoreSt) : (s.setCore c k).gen = s.gen := rfl
@[simp] theorem State.xl_setCore (s : State) (c : Nat) (k : CoreSt) : (s.setCore c k).xl = s.xl := rfl
@[simp] theorem State.coh_setCore (s : State) (c : Nat) (k : CoreSt) : (s.setCore c k).coh = s.coh := rfl
@[simp] theorem State.fq_setCore (s : State) (c : Nat) (k : CoreSt) : (s.setCore c k).fq = s.fq := rfl
@[simp] theorem State.cust_setCore (s : State) (c : Nat) (k : CoreSt) : (s.setCore c k).cust = s.cust := rfl
@[simp] theorem State.killing_setCore (s : State) (c : Nat) (k : CoreSt) : (s.setCore c k).killing = s.killing := rfl
@[simp] theorem State.kept_setCore (s : State) (c : Nat) (k : CoreSt) : (s.setCore c k).kept = s.kept := rfl

/-! ## `State.updCore` -/

@[simp] theorem State.clk_updCore (s : State) (c : Nat) (f : CoreSt → CoreSt) : (s.updCore c f).clk = s.clk := rfl
@[simp] theorem State.dev_updCore (s : State) (c : Nat) (f : CoreSt → CoreSt) : (s.updCore c f).dev = s.dev := rfl
@[simp] theorem State.agenda_updCore (s : State) (c : Nat) (f : CoreSt → CoreSt) : (s.updCore c f).agenda = s.agenda := rfl
@[simp] theorem State.turns_updCore (s : State) (c : Nat) (f : CoreSt → CoreSt) : (s.updCore c f).turns = s.turns := rfl
@[simp] theorem State.cur_updCore (s : State) (c : Nat) (f : CoreSt → CoreSt) : (s.updCore c f).cur = s.cur := rfl
@[simp] theorem State.fresh_updCore (s : State) (c : Nat) (f : CoreSt → CoreSt) : (s.updCore c f).fresh = s.fresh := rfl
@[simp] theorem State.mem_updCore (s : State) (c : Nat) (f : CoreSt → CoreSt) : (s.updCore c f).mem = s.mem := rfl
@[simp] theorem State.poisoned_updCore (s : State) (c : Nat) (f : CoreSt → CoreSt) : (s.updCore c f).poisoned = s.poisoned := rfl
@[simp] theorem State.latent_updCore (s : State) (c : Nat) (f : CoreSt → CoreSt) : (s.updCore c f).latent = s.latent := rfl
@[simp] theorem State.soft_updCore (s : State) (c : Nat) (f : CoreSt → CoreSt) : (s.updCore c f).soft = s.soft := rfl
@[simp] theorem State.wgs_updCore (s : State) (c : Nat) (f : CoreSt → CoreSt) : (s.updCore c f).wgs = s.wgs := rfl
@[simp] theorem State.q_updCore (s : State) (c : Nat) (f : CoreSt → CoreSt) : (s.updCore c f).q = s.q := rfl
@[simp] theorem State.fly_updCore (s : State) (c : Nat) (f : CoreSt → CoreSt) : (s.updCore c f).fly = s.fly := rfl
@[simp] theorem State.gen_updCore (s : State) (c : Nat) (f : CoreSt → CoreSt) : (s.updCore c f).gen = s.gen := rfl
@[simp] theorem State.xl_updCore (s : State) (c : Nat) (f : CoreSt → CoreSt) : (s.updCore c f).xl = s.xl := rfl
@[simp] theorem State.coh_updCore (s : State) (c : Nat) (f : CoreSt → CoreSt) : (s.updCore c f).coh = s.coh := rfl
@[simp] theorem State.fq_updCore (s : State) (c : Nat) (f : CoreSt → CoreSt) : (s.updCore c f).fq = s.fq := rfl
@[simp] theorem State.cust_updCore (s : State) (c : Nat) (f : CoreSt → CoreSt) : (s.updCore c f).cust = s.cust := rfl
@[simp] theorem State.killing_updCore (s : State) (c : Nat) (f : CoreSt → CoreSt) : (s.updCore c f).killing = s.killing := rfl
@[simp] theorem State.kept_updCore (s : State) (c : Nat) (f : CoreSt → CoreSt) : (s.updCore c f).kept = s.kept := rfl

/-! ## `State.setGroup` -/

@[simp] theorem State.clk_setGroup (s : State) (c g : Nat) (x : Group) : (s.setGroup c g x).clk = s.clk := rfl
@[simp] theorem State.dev_setGroup (s : State) (c g : Nat) (x : Group) : (s.setGroup c g x).dev = s.dev := rfl
@[simp] theorem State.agenda_setGroup (s : State) (c g : Nat) (x : Group) : (s.setGroup c g x).agenda = s.agenda := rfl
@[simp] theorem State.turns_setGroup (s : State) (c g : Nat) (x : Group) : (s.setGroup c g x).turns = s.turns := rfl
@[simp] theorem State.cur_setGroup (s : State) (c g : Nat) (x : Group) : (s.setGroup c g x).cur = s.cur := rfl
@[simp] theorem State.fresh_setGroup (s : State) (c g : Nat) (x : Group) : (s.setGroup c g x).fresh = s.fresh := rfl
@[simp] theorem State.mem_setGroup (s : State) (c g : Nat) (x : Group) : (s.setGroup c g x).mem = s.mem := rfl
@[simp] theorem State.poisoned_setGroup (s : State) (c g : Nat) (x : Group) : (s.setGroup c g x).poisoned = s.poisoned := rfl
@[simp] theorem State.latent_setGroup (s : State) (c g : Nat) (x : Group) : (s.setGroup c g x).latent = s.latent := rfl
@[simp] theorem State.soft_setGroup (s : State) (c g : Nat) (x : Group) : (s.setGroup c g x).soft = s.soft := rfl
@[simp] theorem State.wgs_setGroup (s : State) (c g : Nat) (x : Group) : (s.setGroup c g x).wgs = s.wgs := rfl
@[simp] theorem State.q_setGroup (s : State) (c g : Nat) (x : Group) : (s.setGroup c g x).q = s.q := rfl
@[simp] theorem State.fly_setGroup (s : State) (c g : Nat) (x : Group) : (s.setGroup c g x).fly = s.fly := rfl
@[simp] theorem State.gen_setGroup (s : State) (c g : Nat) (x : Group) : (s.setGroup c g x).gen = s.gen := rfl
@[simp] theorem State.xl_setGroup (s : State) (c g : Nat) (x : Group) : (s.setGroup c g x).xl = s.xl := rfl
@[simp] theorem State.coh_setGroup (s : State) (c g : Nat) (x : Group) : (s.setGroup c g x).coh = s.coh := rfl
@[simp] theorem State.fq_setGroup (s : State) (c g : Nat) (x : Group) : (s.setGroup c g x).fq = s.fq := rfl
@[simp] theorem State.cust_setGroup (s : State) (c g : Nat) (x : Group) : (s.setGroup c g x).cust = s.cust := rfl
@[simp] theorem State.killing_setGroup (s : State) (c g : Nat) (x : Group) : (s.setGroup c g x).killing = s.killing := rfl
@[simp] theorem State.kept_setGroup (s : State) (c g : Nat) (x : Group) : (s.setGroup c g x).kept = s.kept := rfl

/-! ## `State.count` -/

@[simp] theorem State.clk_count (s : State) (c ev n : Nat) (ctx : Option Nat) : (s.count c ev n ctx).clk = s.clk := rfl
@[simp] theorem State.dev_count (s : State) (c ev n : Nat) (ctx : Option Nat) : (s.count c ev n ctx).dev = s.dev := rfl
@[simp] theorem State.agenda_count (s : State) (c ev n : Nat) (ctx : Option Nat) : (s.count c ev n ctx).agenda = s.agenda := rfl
@[simp] theorem State.turns_count (s : State) (c ev n : Nat) (ctx : Option Nat) : (s.count c ev n ctx).turns = s.turns := rfl
@[simp] theorem State.cur_count (s : State) (c ev n : Nat) (ctx : Option Nat) : (s.count c ev n ctx).cur = s.cur := rfl
@[simp] theorem State.fresh_count (s : State) (c ev n : Nat) (ctx : Option Nat) : (s.count c ev n ctx).fresh = s.fresh := rfl
@[simp] theorem State.mem_count (s : State) (c ev n : Nat) (ctx : Option Nat) : (s.count c ev n ctx).mem = s.mem := rfl
@[simp] theorem State.poisoned_count (s : State) (c ev n : Nat) (ctx : Option Nat) : (s.count c ev n ctx).poisoned = s.poisoned := rfl
@[simp] theorem State.latent_count (s : State) (c ev n : Nat) (ctx : Option Nat) : (s.count c ev n ctx).latent = s.latent := rfl
@[simp] theorem State.soft_count (s : State) (c ev n : Nat) (ctx : Option Nat) : (s.count c ev n ctx).soft = s.soft := rfl
@[simp] theorem State.wgs_count (s : State) (c ev n : Nat) (ctx : Option Nat) : (s.count c ev n ctx).wgs = s.wgs := rfl
@[simp] theorem State.q_count (s : State) (c ev n : Nat) (ctx : Option Nat) : (s.count c ev n ctx).q = s.q := rfl
@[simp] theorem State.fly_count (s : State) (c ev n : Nat) (ctx : Option Nat) : (s.count c ev n ctx).fly = s.fly := rfl
@[simp] theorem State.gen_count (s : State) (c ev n : Nat) (ctx : Option Nat) : (s.count c ev n ctx).gen = s.gen := rfl
@[simp] theorem State.xl_count (s : State) (c ev n : Nat) (ctx : Option Nat) : (s.count c ev n ctx).xl = s.xl := rfl
@[simp] theorem State.coh_count (s : State) (c ev n : Nat) (ctx : Option Nat) : (s.count c ev n ctx).coh = s.coh := rfl
@[simp] theorem State.fq_count (s : State) (c ev n : Nat) (ctx : Option Nat) : (s.count c ev n ctx).fq = s.fq := rfl
@[simp] theorem State.cust_count (s : State) (c ev n : Nat) (ctx : Option Nat) : (s.count c ev n ctx).cust = s.cust := rfl
@[simp] theorem State.killing_count (s : State) (c ev n : Nat) (ctx : Option Nat) : (s.count c ev n ctx).killing = s.killing := rfl
@[simp] theorem State.kept_count (s : State) (c ev n : Nat) (ctx : Option Nat) : (s.count c ev n ctx).kept = s.kept := rfl

/-! ## `State.updTrack` -/

@[simp] theorem State.clk_updTrack (s : State) (c t : Nat) (f : Track → Track) : (s.updTrack c t f).clk = s.clk := rfl
@[simp] theorem State.dev_updTrack (s : State) (c t : Nat) (f : Track → Track) : (s.updTrack c t f).dev = s.dev := rfl
@[simp] theorem State.agenda_updTrack (s : State) (c t : Nat) (f : Track → Track) : (s.updTrack c t f).agenda = s.agenda := rfl
@[simp] theorem State.turns_updTrack (s : State) (c t : Nat) (f : Track → Track) : (s.updTrack c t f).turns = s.turns := rfl
@[simp] theorem State.cur_updTrack (s : State) (c t : Nat) (f : Track → Track) : (s.updTrack c t f).cur = s.cur := rfl
@[simp] theorem State.fresh_updTrack (s : State) (c t : Nat) (f : Track → Track) : (s.updTrack c t f).fresh = s.fresh := rfl
@[simp] theorem State.mem_updTrack (s : State) (c t : Nat) (f : Track → Track) : (s.updTrack c t f).mem = s.mem := rfl
@[simp] theorem State.poisoned_updTrack (s : State) (c t : Nat) (f : Track → Track) : (s.updTrack c t f).poisoned = s.poisoned := rfl
@[simp] theorem State.latent_updTrack (s : State) (c t : Nat) (f : Track → Track) : (s.updTrack c t f).latent = s.latent := rfl
@[simp] theorem State.soft_updTrack (s : State) (c t : Nat) (f : Track → Track) : (s.updTrack c t f).soft = s.soft := rfl
@[simp] theorem State.wgs_updTrack (s : State) (c t : Nat) (f : Track → Track) : (s.updTrack c t f).wgs = s.wgs := rfl
@[simp] theorem State.q_updTrack (s : State) (c t : Nat) (f : Track → Track) : (s.updTrack c t f).q = s.q := rfl
@[simp] theorem State.fly_updTrack (s : State) (c t : Nat) (f : Track → Track) : (s.updTrack c t f).fly = s.fly := rfl
@[simp] theorem State.gen_updTrack (s : State) (c t : Nat) (f : Track → Track) : (s.updTrack c t f).gen = s.gen := rfl
@[simp] theorem State.xl_updTrack (s : State) (c t : Nat) (f : Track → Track) : (s.updTrack c t f).xl = s.xl := rfl
@[simp] theorem State.coh_updTrack (s : State) (c t : Nat) (f : Track → Track) : (s.updTrack c t f).coh = s.coh := rfl
@[simp] theorem State.fq_updTrack (s : State) (c t : Nat) (f : Track → Track) : (s.updTrack c t f).fq = s.fq := rfl
@[simp] theorem State.cust_updTrack (s : State) (c t : Nat) (f : Track → Track) : (s.updTrack c t f).cust = s.cust := rfl
@[simp] theorem State.killing_updTrack (s : State) (c t : Nat) (f : Track → Track) : (s.updTrack c t f).killing = s.killing := rfl
@[simp] theorem State.kept_updTrack (s : State) (c t : Nat) (f : Track → Track) : (s.updTrack c t f).kept = s.kept := rfl

/-! ## `State.updDie` -/

@[simp] theorem State.clk_updDie (s : State) (d : Nat) (f : Die → Die) : (s.updDie d f).clk = s.clk := rfl
@[simp] theorem State.dev_updDie (s : State) (d : Nat) (f : Die → Die) : (s.updDie d f).dev = s.dev := rfl
@[simp] theorem State.agenda_updDie (s : State) (d : Nat) (f : Die → Die) : (s.updDie d f).agenda = s.agenda := rfl
@[simp] theorem State.turns_updDie (s : State) (d : Nat) (f : Die → Die) : (s.updDie d f).turns = s.turns := rfl
@[simp] theorem State.cur_updDie (s : State) (d : Nat) (f : Die → Die) : (s.updDie d f).cur = s.cur := rfl
@[simp] theorem State.fresh_updDie (s : State) (d : Nat) (f : Die → Die) : (s.updDie d f).fresh = s.fresh := rfl
@[simp] theorem State.mem_updDie (s : State) (d : Nat) (f : Die → Die) : (s.updDie d f).mem = s.mem := rfl
@[simp] theorem State.poisoned_updDie (s : State) (d : Nat) (f : Die → Die) : (s.updDie d f).poisoned = s.poisoned := rfl
@[simp] theorem State.latent_updDie (s : State) (d : Nat) (f : Die → Die) : (s.updDie d f).latent = s.latent := rfl
@[simp] theorem State.soft_updDie (s : State) (d : Nat) (f : Die → Die) : (s.updDie d f).soft = s.soft := rfl
@[simp] theorem State.cores_updDie (s : State) (d : Nat) (f : Die → Die) : (s.updDie d f).cores = s.cores := rfl
@[simp] theorem State.wgs_updDie (s : State) (d : Nat) (f : Die → Die) : (s.updDie d f).wgs = s.wgs := rfl
@[simp] theorem State.q_updDie (s : State) (d : Nat) (f : Die → Die) : (s.updDie d f).q = s.q := rfl
@[simp] theorem State.fly_updDie (s : State) (d : Nat) (f : Die → Die) : (s.updDie d f).fly = s.fly := rfl
@[simp] theorem State.gen_updDie (s : State) (d : Nat) (f : Die → Die) : (s.updDie d f).gen = s.gen := rfl
@[simp] theorem State.xl_updDie (s : State) (d : Nat) (f : Die → Die) : (s.updDie d f).xl = s.xl := rfl
@[simp] theorem State.fq_updDie (s : State) (d : Nat) (f : Die → Die) : (s.updDie d f).fq = s.fq := rfl
@[simp] theorem State.cust_updDie (s : State) (d : Nat) (f : Die → Die) : (s.updDie d f).cust = s.cust := rfl
@[simp] theorem State.killing_updDie (s : State) (d : Nat) (f : Die → Die) : (s.updDie d f).killing = s.killing := rfl
@[simp] theorem State.kept_updDie (s : State) (d : Nat) (f : Die → Die) : (s.updDie d f).kept = s.kept := rfl

/-! ## `State.updRing` -/

@[simp] theorem State.clk_updRing (s : State) (c : Nat) (f : Ring → Ring) : (s.updRing c f).clk = s.clk := rfl
@[simp] theorem State.dev_updRing (s : State) (c : Nat) (f : Ring → Ring) : (s.updRing c f).dev = s.dev := rfl
@[simp] theorem State.agenda_updRing (s : State) (c : Nat) (f : Ring → Ring) : (s.updRing c f).agenda = s.agenda := rfl
@[simp] theorem State.turns_updRing (s : State) (c : Nat) (f : Ring → Ring) : (s.updRing c f).turns = s.turns := rfl
@[simp] theorem State.cur_updRing (s : State) (c : Nat) (f : Ring → Ring) : (s.updRing c f).cur = s.cur := rfl
@[simp] theorem State.fresh_updRing (s : State) (c : Nat) (f : Ring → Ring) : (s.updRing c f).fresh = s.fresh := rfl
@[simp] theorem State.mem_updRing (s : State) (c : Nat) (f : Ring → Ring) : (s.updRing c f).mem = s.mem := rfl
@[simp] theorem State.poisoned_updRing (s : State) (c : Nat) (f : Ring → Ring) : (s.updRing c f).poisoned = s.poisoned := rfl
@[simp] theorem State.latent_updRing (s : State) (c : Nat) (f : Ring → Ring) : (s.updRing c f).latent = s.latent := rfl
@[simp] theorem State.soft_updRing (s : State) (c : Nat) (f : Ring → Ring) : (s.updRing c f).soft = s.soft := rfl
@[simp] theorem State.cores_updRing (s : State) (c : Nat) (f : Ring → Ring) : (s.updRing c f).cores = s.cores := rfl
@[simp] theorem State.wgs_updRing (s : State) (c : Nat) (f : Ring → Ring) : (s.updRing c f).wgs = s.wgs := rfl
@[simp] theorem State.fly_updRing (s : State) (c : Nat) (f : Ring → Ring) : (s.updRing c f).fly = s.fly := rfl
@[simp] theorem State.gen_updRing (s : State) (c : Nat) (f : Ring → Ring) : (s.updRing c f).gen = s.gen := rfl
@[simp] theorem State.xl_updRing (s : State) (c : Nat) (f : Ring → Ring) : (s.updRing c f).xl = s.xl := rfl
@[simp] theorem State.coh_updRing (s : State) (c : Nat) (f : Ring → Ring) : (s.updRing c f).coh = s.coh := rfl
@[simp] theorem State.fq_updRing (s : State) (c : Nat) (f : Ring → Ring) : (s.updRing c f).fq = s.fq := rfl
@[simp] theorem State.cust_updRing (s : State) (c : Nat) (f : Ring → Ring) : (s.updRing c f).cust = s.cust := rfl
@[simp] theorem State.killing_updRing (s : State) (c : Nat) (f : Ring → Ring) : (s.updRing c f).killing = s.killing := rfl
@[simp] theorem State.kept_updRing (s : State) (c : Nat) (f : Ring → Ring) : (s.updRing c f).kept = s.kept := rfl

/-! ## `State.setEntry` -/

@[simp] theorem State.clk_setEntry (s : State) (l : Nat) (e : DirEntry) : (s.setEntry l e).clk = s.clk := rfl
@[simp] theorem State.dev_setEntry (s : State) (l : Nat) (e : DirEntry) : (s.setEntry l e).dev = s.dev := rfl
@[simp] theorem State.agenda_setEntry (s : State) (l : Nat) (e : DirEntry) : (s.setEntry l e).agenda = s.agenda := rfl
@[simp] theorem State.turns_setEntry (s : State) (l : Nat) (e : DirEntry) : (s.setEntry l e).turns = s.turns := rfl
@[simp] theorem State.cur_setEntry (s : State) (l : Nat) (e : DirEntry) : (s.setEntry l e).cur = s.cur := rfl
@[simp] theorem State.fresh_setEntry (s : State) (l : Nat) (e : DirEntry) : (s.setEntry l e).fresh = s.fresh := rfl
@[simp] theorem State.mem_setEntry (s : State) (l : Nat) (e : DirEntry) : (s.setEntry l e).mem = s.mem := rfl
@[simp] theorem State.poisoned_setEntry (s : State) (l : Nat) (e : DirEntry) : (s.setEntry l e).poisoned = s.poisoned := rfl
@[simp] theorem State.latent_setEntry (s : State) (l : Nat) (e : DirEntry) : (s.setEntry l e).latent = s.latent := rfl
@[simp] theorem State.soft_setEntry (s : State) (l : Nat) (e : DirEntry) : (s.setEntry l e).soft = s.soft := rfl
@[simp] theorem State.cores_setEntry (s : State) (l : Nat) (e : DirEntry) : (s.setEntry l e).cores = s.cores := rfl
@[simp] theorem State.wgs_setEntry (s : State) (l : Nat) (e : DirEntry) : (s.setEntry l e).wgs = s.wgs := rfl
@[simp] theorem State.q_setEntry (s : State) (l : Nat) (e : DirEntry) : (s.setEntry l e).q = s.q := rfl
@[simp] theorem State.fly_setEntry (s : State) (l : Nat) (e : DirEntry) : (s.setEntry l e).fly = s.fly := rfl
@[simp] theorem State.gen_setEntry (s : State) (l : Nat) (e : DirEntry) : (s.setEntry l e).gen = s.gen := rfl
@[simp] theorem State.xl_setEntry (s : State) (l : Nat) (e : DirEntry) : (s.setEntry l e).xl = s.xl := rfl
@[simp] theorem State.fq_setEntry (s : State) (l : Nat) (e : DirEntry) : (s.setEntry l e).fq = s.fq := rfl
@[simp] theorem State.cust_setEntry (s : State) (l : Nat) (e : DirEntry) : (s.setEntry l e).cust = s.cust := rfl
@[simp] theorem State.killing_setEntry (s : State) (l : Nat) (e : DirEntry) : (s.setEntry l e).killing = s.killing := rfl
@[simp] theorem State.kept_setEntry (s : State) (l : Nat) (e : DirEntry) : (s.setEntry l e).kept = s.kept := rfl

/-! ## `State.useSnoop` -/

@[simp] theorem State.clk_useSnoop (s : State) (l : Nat) : (s.useSnoop l).clk = s.clk := rfl
@[simp] theorem State.dev_useSnoop (s : State) (l : Nat) : (s.useSnoop l).dev = s.dev := rfl
@[simp] theorem State.agenda_useSnoop (s : State) (l : Nat) : (s.useSnoop l).agenda = s.agenda := rfl
@[simp] theorem State.turns_useSnoop (s : State) (l : Nat) : (s.useSnoop l).turns = s.turns := rfl
@[simp] theorem State.cur_useSnoop (s : State) (l : Nat) : (s.useSnoop l).cur = s.cur := rfl
@[simp] theorem State.fresh_useSnoop (s : State) (l : Nat) : (s.useSnoop l).fresh = s.fresh := rfl
@[simp] theorem State.mem_useSnoop (s : State) (l : Nat) : (s.useSnoop l).mem = s.mem := rfl
@[simp] theorem State.poisoned_useSnoop (s : State) (l : Nat) : (s.useSnoop l).poisoned = s.poisoned := rfl
@[simp] theorem State.latent_useSnoop (s : State) (l : Nat) : (s.useSnoop l).latent = s.latent := rfl
@[simp] theorem State.soft_useSnoop (s : State) (l : Nat) : (s.useSnoop l).soft = s.soft := rfl
@[simp] theorem State.cores_useSnoop (s : State) (l : Nat) : (s.useSnoop l).cores = s.cores := rfl
@[simp] theorem State.wgs_useSnoop (s : State) (l : Nat) : (s.useSnoop l).wgs = s.wgs := rfl
@[simp] theorem State.q_useSnoop (s : State) (l : Nat) : (s.useSnoop l).q = s.q := rfl
@[simp] theorem State.fly_useSnoop (s : State) (l : Nat) : (s.useSnoop l).fly = s.fly := rfl
@[simp] theorem State.gen_useSnoop (s : State) (l : Nat) : (s.useSnoop l).gen = s.gen := rfl
@[simp] theorem State.xl_useSnoop (s : State) (l : Nat) : (s.useSnoop l).xl = s.xl := rfl
@[simp] theorem State.fq_useSnoop (s : State) (l : Nat) : (s.useSnoop l).fq = s.fq := rfl
@[simp] theorem State.cust_useSnoop (s : State) (l : Nat) : (s.useSnoop l).cust = s.cust := rfl
@[simp] theorem State.killing_useSnoop (s : State) (l : Nat) : (s.useSnoop l).killing = s.killing := rfl
@[simp] theorem State.kept_useSnoop (s : State) (l : Nat) : (s.useSnoop l).kept = s.kept := rfl

/-! ## `State.answer` -/

@[simp] theorem State.clk_answer (s : State) (r : Reply) : (s.answer r).clk = s.clk := rfl
@[simp] theorem State.dev_answer (s : State) (r : Reply) : (s.answer r).dev = s.dev := rfl
@[simp] theorem State.agenda_answer (s : State) (r : Reply) : (s.answer r).agenda = s.agenda := rfl
@[simp] theorem State.turns_answer (s : State) (r : Reply) : (s.answer r).turns = s.turns := rfl
@[simp] theorem State.cur_answer (s : State) (r : Reply) : (s.answer r).cur = s.cur := rfl
@[simp] theorem State.fresh_answer (s : State) (r : Reply) : (s.answer r).fresh = s.fresh := rfl
@[simp] theorem State.mem_answer (s : State) (r : Reply) : (s.answer r).mem = s.mem := rfl
@[simp] theorem State.poisoned_answer (s : State) (r : Reply) : (s.answer r).poisoned = s.poisoned := rfl
@[simp] theorem State.latent_answer (s : State) (r : Reply) : (s.answer r).latent = s.latent := rfl
@[simp] theorem State.soft_answer (s : State) (r : Reply) : (s.answer r).soft = s.soft := rfl
@[simp] theorem State.cores_answer (s : State) (r : Reply) : (s.answer r).cores = s.cores := rfl
@[simp] theorem State.wgs_answer (s : State) (r : Reply) : (s.answer r).wgs = s.wgs := rfl
@[simp] theorem State.q_answer (s : State) (r : Reply) : (s.answer r).q = s.q := rfl
@[simp] theorem State.fly_answer (s : State) (r : Reply) : (s.answer r).fly = s.fly := rfl
@[simp] theorem State.gen_answer (s : State) (r : Reply) : (s.answer r).gen = s.gen := rfl
@[simp] theorem State.xl_answer (s : State) (r : Reply) : (s.answer r).xl = s.xl := rfl
@[simp] theorem State.fq_answer (s : State) (r : Reply) : (s.answer r).fq = s.fq := rfl
@[simp] theorem State.cust_answer (s : State) (r : Reply) : (s.answer r).cust = s.cust := rfl
@[simp] theorem State.killing_answer (s : State) (r : Reply) : (s.answer r).killing = s.killing := rfl
@[simp] theorem State.kept_answer (s : State) (r : Reply) : (s.answer r).kept = s.kept := rfl

/-! ## `State.store` -/

@[simp] theorem State.clk_store (s : State) (pa : Nat) (bs : List Byte) : (s.store pa bs).clk = s.clk := rfl
@[simp] theorem State.dev_store (s : State) (pa : Nat) (bs : List Byte) : (s.store pa bs).dev = s.dev := rfl
@[simp] theorem State.agenda_store (s : State) (pa : Nat) (bs : List Byte) : (s.store pa bs).agenda = s.agenda := rfl
@[simp] theorem State.turns_store (s : State) (pa : Nat) (bs : List Byte) : (s.store pa bs).turns = s.turns := rfl
@[simp] theorem State.cur_store (s : State) (pa : Nat) (bs : List Byte) : (s.store pa bs).cur = s.cur := rfl
@[simp] theorem State.fresh_store (s : State) (pa : Nat) (bs : List Byte) : (s.store pa bs).fresh = s.fresh := rfl
@[simp] theorem State.cores_store (s : State) (pa : Nat) (bs : List Byte) : (s.store pa bs).cores = s.cores := rfl
@[simp] theorem State.wgs_store (s : State) (pa : Nat) (bs : List Byte) : (s.store pa bs).wgs = s.wgs := rfl
@[simp] theorem State.q_store (s : State) (pa : Nat) (bs : List Byte) : (s.store pa bs).q = s.q := rfl
@[simp] theorem State.fly_store (s : State) (pa : Nat) (bs : List Byte) : (s.store pa bs).fly = s.fly := rfl
@[simp] theorem State.gen_store (s : State) (pa : Nat) (bs : List Byte) : (s.store pa bs).gen = s.gen := rfl
@[simp] theorem State.xl_store (s : State) (pa : Nat) (bs : List Byte) : (s.store pa bs).xl = s.xl := rfl
@[simp] theorem State.fq_store (s : State) (pa : Nat) (bs : List Byte) : (s.store pa bs).fq = s.fq := rfl
@[simp] theorem State.cust_store (s : State) (pa : Nat) (bs : List Byte) : (s.store pa bs).cust = s.cust := rfl
@[simp] theorem State.killing_store (s : State) (pa : Nat) (bs : List Byte) : (s.store pa bs).killing = s.killing := rfl
@[simp] theorem State.kept_store (s : State) (pa : Nat) (bs : List Byte) : (s.store pa bs).kept = s.kept := rfl

/-! ## `State.setReq` -/

@[simp] theorem State.clk_setReq (s : State) (r : Req) : (s.setReq r).clk = s.clk := rfl
@[simp] theorem State.dev_setReq (s : State) (r : Req) : (s.setReq r).dev = s.dev := rfl
@[simp] theorem State.agenda_setReq (s : State) (r : Req) : (s.setReq r).agenda = s.agenda := rfl
@[simp] theorem State.turns_setReq (s : State) (r : Req) : (s.setReq r).turns = s.turns := rfl
@[simp] theorem State.cur_setReq (s : State) (r : Req) : (s.setReq r).cur = s.cur := rfl
@[simp] theorem State.fresh_setReq (s : State) (r : Req) : (s.setReq r).fresh = s.fresh := rfl
@[simp] theorem State.mem_setReq (s : State) (r : Req) : (s.setReq r).mem = s.mem := rfl
@[simp] theorem State.poisoned_setReq (s : State) (r : Req) : (s.setReq r).poisoned = s.poisoned := rfl
@[simp] theorem State.latent_setReq (s : State) (r : Req) : (s.setReq r).latent = s.latent := rfl
@[simp] theorem State.soft_setReq (s : State) (r : Req) : (s.setReq r).soft = s.soft := rfl
@[simp] theorem State.cores_setReq (s : State) (r : Req) : (s.setReq r).cores = s.cores := rfl
@[simp] theorem State.wgs_setReq (s : State) (r : Req) : (s.setReq r).wgs = s.wgs := rfl
@[simp] theorem State.q_setReq (s : State) (r : Req) : (s.setReq r).q = s.q := rfl
@[simp] theorem State.gen_setReq (s : State) (r : Req) : (s.setReq r).gen = s.gen := rfl
@[simp] theorem State.xl_setReq (s : State) (r : Req) : (s.setReq r).xl = s.xl := rfl
@[simp] theorem State.coh_setReq (s : State) (r : Req) : (s.setReq r).coh = s.coh := rfl
@[simp] theorem State.fq_setReq (s : State) (r : Req) : (s.setReq r).fq = s.fq := rfl
@[simp] theorem State.cust_setReq (s : State) (r : Req) : (s.setReq r).cust = s.cust := rfl
@[simp] theorem State.killing_setReq (s : State) (r : Req) : (s.setReq r).killing = s.killing := rfl
@[simp] theorem State.kept_setReq (s : State) (r : Req) : (s.setReq r).kept = s.kept := rfl

/-! ## `State.setCopy` -/

@[simp] theorem State.clk_setCopy (s : State) (i : Nat) (c : Option Copy) : (s.setCopy i c).clk = s.clk := rfl
@[simp] theorem State.dev_setCopy (s : State) (i : Nat) (c : Option Copy) : (s.setCopy i c).dev = s.dev := rfl
@[simp] theorem State.agenda_setCopy (s : State) (i : Nat) (c : Option Copy) : (s.setCopy i c).agenda = s.agenda := rfl
@[simp] theorem State.turns_setCopy (s : State) (i : Nat) (c : Option Copy) : (s.setCopy i c).turns = s.turns := rfl
@[simp] theorem State.cur_setCopy (s : State) (i : Nat) (c : Option Copy) : (s.setCopy i c).cur = s.cur := rfl
@[simp] theorem State.fresh_setCopy (s : State) (i : Nat) (c : Option Copy) : (s.setCopy i c).fresh = s.fresh := rfl
@[simp] theorem State.mem_setCopy (s : State) (i : Nat) (c : Option Copy) : (s.setCopy i c).mem = s.mem := rfl
@[simp] theorem State.poisoned_setCopy (s : State) (i : Nat) (c : Option Copy) : (s.setCopy i c).poisoned = s.poisoned := rfl
@[simp] theorem State.latent_setCopy (s : State) (i : Nat) (c : Option Copy) : (s.setCopy i c).latent = s.latent := rfl
@[simp] theorem State.soft_setCopy (s : State) (i : Nat) (c : Option Copy) : (s.setCopy i c).soft = s.soft := rfl
@[simp] theorem State.cores_setCopy (s : State) (i : Nat) (c : Option Copy) : (s.setCopy i c).cores = s.cores := rfl
@[simp] theorem State.wgs_setCopy (s : State) (i : Nat) (c : Option Copy) : (s.setCopy i c).wgs = s.wgs := rfl
@[simp] theorem State.q_setCopy (s : State) (i : Nat) (c : Option Copy) : (s.setCopy i c).q = s.q := rfl
@[simp] theorem State.gen_setCopy (s : State) (i : Nat) (c : Option Copy) : (s.setCopy i c).gen = s.gen := rfl
@[simp] theorem State.xl_setCopy (s : State) (i : Nat) (c : Option Copy) : (s.setCopy i c).xl = s.xl := rfl
@[simp] theorem State.coh_setCopy (s : State) (i : Nat) (c : Option Copy) : (s.setCopy i c).coh = s.coh := rfl
@[simp] theorem State.fq_setCopy (s : State) (i : Nat) (c : Option Copy) : (s.setCopy i c).fq = s.fq := rfl
@[simp] theorem State.cust_setCopy (s : State) (i : Nat) (c : Option Copy) : (s.setCopy i c).cust = s.cust := rfl
@[simp] theorem State.killing_setCopy (s : State) (i : Nat) (c : Option Copy) : (s.setCopy i c).killing = s.killing := rfl
@[simp] theorem State.kept_setCopy (s : State) (i : Nat) (c : Option Copy) : (s.setCopy i c).kept = s.kept := rfl

/-! ## `State.deviceWrite` -/

@[simp] theorem State.clk_deviceWrite (s : State) (w : DevWrite) : (s.deviceWrite w).clk = s.clk := rfl
@[simp] theorem State.dev_deviceWrite (s : State) (w : DevWrite) : (s.deviceWrite w).dev = s.dev := rfl
@[simp] theorem State.agenda_deviceWrite (s : State) (w : DevWrite) : (s.deviceWrite w).agenda = s.agenda := rfl
@[simp] theorem State.turns_deviceWrite (s : State) (w : DevWrite) : (s.deviceWrite w).turns = s.turns := rfl
@[simp] theorem State.cur_deviceWrite (s : State) (w : DevWrite) : (s.deviceWrite w).cur = s.cur := rfl
@[simp] theorem State.mem_deviceWrite (s : State) (w : DevWrite) : (s.deviceWrite w).mem = s.mem := rfl
@[simp] theorem State.poisoned_deviceWrite (s : State) (w : DevWrite) : (s.deviceWrite w).poisoned = s.poisoned := rfl
@[simp] theorem State.latent_deviceWrite (s : State) (w : DevWrite) : (s.deviceWrite w).latent = s.latent := rfl
@[simp] theorem State.soft_deviceWrite (s : State) (w : DevWrite) : (s.deviceWrite w).soft = s.soft := rfl
@[simp] theorem State.cores_deviceWrite (s : State) (w : DevWrite) : (s.deviceWrite w).cores = s.cores := rfl
@[simp] theorem State.wgs_deviceWrite (s : State) (w : DevWrite) : (s.deviceWrite w).wgs = s.wgs := rfl
@[simp] theorem State.q_deviceWrite (s : State) (w : DevWrite) : (s.deviceWrite w).q = s.q := rfl
@[simp] theorem State.gen_deviceWrite (s : State) (w : DevWrite) : (s.deviceWrite w).gen = s.gen := rfl
@[simp] theorem State.xl_deviceWrite (s : State) (w : DevWrite) : (s.deviceWrite w).xl = s.xl := rfl
@[simp] theorem State.coh_deviceWrite (s : State) (w : DevWrite) : (s.deviceWrite w).coh = s.coh := rfl
@[simp] theorem State.fq_deviceWrite (s : State) (w : DevWrite) : (s.deviceWrite w).fq = s.fq := rfl
@[simp] theorem State.cust_deviceWrite (s : State) (w : DevWrite) : (s.deviceWrite w).cust = s.cust := rfl
@[simp] theorem State.killing_deviceWrite (s : State) (w : DevWrite) : (s.deviceWrite w).killing = s.killing := rfl
@[simp] theorem State.kept_deviceWrite (s : State) (w : DevWrite) : (s.deviceWrite w).kept = s.kept := rfl

/-! ## `State.exchange` -/

@[simp] theorem State.clk_exchange (s : State) (us : List Nat) : (s.exchange us).clk = s.clk := rfl
@[simp] theorem State.dev_exchange (s : State) (us : List Nat) : (s.exchange us).dev = s.dev := rfl
@[simp] theorem State.agenda_exchange (s : State) (us : List Nat) : (s.exchange us).agenda = s.agenda := rfl
@[simp] theorem State.turns_exchange (s : State) (us : List Nat) : (s.exchange us).turns = s.turns := rfl
@[simp] theorem State.cur_exchange (s : State) (us : List Nat) : (s.exchange us).cur = s.cur := rfl
@[simp] theorem State.fresh_exchange (s : State) (us : List Nat) : (s.exchange us).fresh = s.fresh := rfl
@[simp] theorem State.mem_exchange (s : State) (us : List Nat) : (s.exchange us).mem = s.mem := rfl
@[simp] theorem State.poisoned_exchange (s : State) (us : List Nat) : (s.exchange us).poisoned = s.poisoned := rfl
@[simp] theorem State.latent_exchange (s : State) (us : List Nat) : (s.exchange us).latent = s.latent := rfl
@[simp] theorem State.soft_exchange (s : State) (us : List Nat) : (s.exchange us).soft = s.soft := rfl
@[simp] theorem State.cores_exchange (s : State) (us : List Nat) : (s.exchange us).cores = s.cores := rfl
@[simp] theorem State.wgs_exchange (s : State) (us : List Nat) : (s.exchange us).wgs = s.wgs := rfl
@[simp] theorem State.q_exchange (s : State) (us : List Nat) : (s.exchange us).q = s.q := rfl
@[simp] theorem State.fly_exchange (s : State) (us : List Nat) : (s.exchange us).fly = s.fly := rfl
@[simp] theorem State.xl_exchange (s : State) (us : List Nat) : (s.exchange us).xl = s.xl := rfl
@[simp] theorem State.coh_exchange (s : State) (us : List Nat) : (s.exchange us).coh = s.coh := rfl
@[simp] theorem State.fq_exchange (s : State) (us : List Nat) : (s.exchange us).fq = s.fq := rfl
@[simp] theorem State.cust_exchange (s : State) (us : List Nat) : (s.exchange us).cust = s.cust := rfl
@[simp] theorem State.killing_exchange (s : State) (us : List Nat) : (s.exchange us).killing = s.killing := rfl
@[simp] theorem State.kept_exchange (s : State) (us : List Nat) : (s.exchange us).kept = s.kept := rfl

/-! ## `State.useTags` -/

@[simp] theorem State.clk_useTags (s : State) (ls : List Nat) : (s.useTags ls).clk = s.clk := rfl
@[simp] theorem State.dev_useTags (s : State) (ls : List Nat) : (s.useTags ls).dev = s.dev := rfl
@[simp] theorem State.agenda_useTags (s : State) (ls : List Nat) : (s.useTags ls).agenda = s.agenda := rfl
@[simp] theorem State.turns_useTags (s : State) (ls : List Nat) : (s.useTags ls).turns = s.turns := rfl
@[simp] theorem State.cur_useTags (s : State) (ls : List Nat) : (s.useTags ls).cur = s.cur := rfl
@[simp] theorem State.fresh_useTags (s : State) (ls : List Nat) : (s.useTags ls).fresh = s.fresh := rfl
@[simp] theorem State.mem_useTags (s : State) (ls : List Nat) : (s.useTags ls).mem = s.mem := rfl
@[simp] theorem State.poisoned_useTags (s : State) (ls : List Nat) : (s.useTags ls).poisoned = s.poisoned := rfl
@[simp] theorem State.latent_useTags (s : State) (ls : List Nat) : (s.useTags ls).latent = s.latent := rfl
@[simp] theorem State.soft_useTags (s : State) (ls : List Nat) : (s.useTags ls).soft = s.soft := rfl
@[simp] theorem State.cores_useTags (s : State) (ls : List Nat) : (s.useTags ls).cores = s.cores := rfl
@[simp] theorem State.wgs_useTags (s : State) (ls : List Nat) : (s.useTags ls).wgs = s.wgs := rfl
@[simp] theorem State.q_useTags (s : State) (ls : List Nat) : (s.useTags ls).q = s.q := rfl
@[simp] theorem State.fly_useTags (s : State) (ls : List Nat) : (s.useTags ls).fly = s.fly := rfl
@[simp] theorem State.xl_useTags (s : State) (ls : List Nat) : (s.useTags ls).xl = s.xl := rfl
@[simp] theorem State.coh_useTags (s : State) (ls : List Nat) : (s.useTags ls).coh = s.coh := rfl
@[simp] theorem State.fq_useTags (s : State) (ls : List Nat) : (s.useTags ls).fq = s.fq := rfl
@[simp] theorem State.cust_useTags (s : State) (ls : List Nat) : (s.useTags ls).cust = s.cust := rfl
@[simp] theorem State.killing_useTags (s : State) (ls : List Nat) : (s.useTags ls).killing = s.killing := rfl
@[simp] theorem State.kept_useTags (s : State) (ls : List Nat) : (s.useTags ls).kept = s.kept := rfl

/-! ## The fields that change -/

@[simp] theorem State.cores_setCore (s : State) (c : Nat) (k : CoreSt) : (s.setCore c k).cores = FMap.put s.cores c k := rfl
@[simp] theorem State.mem_store (s : State) (pa : Nat) (bs : List Byte) : (s.store pa bs).mem = putBytes s.mem pa bs := rfl
@[simp] theorem State.dir_updDie (s : State) (d : Nat) (f : Die → Die) : (s.updDie d f).coh.dir = s.coh.dir := rfl
@[simp] theorem State.dies_setEntry (s : State) (l : Nat) (e : DirEntry) : (s.setEntry l e).coh.dies = s.coh.dies := rfl
@[simp] theorem State.replies_answer (s : State) (r : Reply) : (s.answer r).coh.replies = r :: s.coh.replies := rfl
@[simp] theorem State.byte_store_of_lt (s : State) {pa a : Nat} (bs : List Byte) (h : a < pa) : (s.store pa bs).byte a = s.byte a :=
  get_putBytes_of_lt bs h
@[simp] theorem State.byte_store_of_le (s : State) {pa a : Nat} (bs : List Byte) (h : pa + bs.length ≤ a) :
    (s.store pa bs).byte a = s.byte a := get_putBytes_of_le bs h

/-! ## Stores keep memory canonical -/

theorem State.wf_store {s : State} (pa : Nat) (bs : List Byte) (h : s.wf) : (s.store pa bs).wf := Memory.wf_putBytes pa bs h

/-- An event for the owner waits for the write of its record, and changes no byte of memory yet. -/
@[simp] theorem State.mem_post (s : State) (kind code detail ctx core : Nat) (pc : DWord) (tid : Word) :
    (s.post kind code detail ctx core pc tid).mem = s.mem := by
  unfold State.post
  split
  · rfl
  split <;> rfl

/-- Recalling the copies of other dies changes no byte that memory lists. -/
@[simp] theorem State.mem_recallPage (s : State) (page : Nat) : (s.recallPage page).mem = s.mem := by
  unfold State.recallPage
  generalize s.ownedIn page = l
  induction l generalizing s with
  | nil => rfl
  | cons e l ih => exact (ih ((s.setEntry e.1 e.2.recalled).exchange _)).trans rfl

/-- The use of a line changes no byte that memory lists. -/
@[simp] theorem State.mem_detect (s : State) (line : Nat) : (s.detect line).mem = s.mem := by
  unfold State.detect
  split
  · rfl
  · split <;> rfl

@[simp] theorem State.mem_foldl_detect (s : State) (ls : List Nat) : (ls.foldl State.detect s).mem = s.mem := by
  induction ls generalizing s with
  | nil => rfl
  | cons l ls ih => exact (ih (s.detect l)).trans (s.mem_detect l)

@[simp] theorem State.mem_detectAt (s : State) (pa n : Nat) : (s.detectAt pa n).mem = s.mem := by
  unfold State.detectAt
  split
  · rfl
  · exact s.mem_foldl_detect _

/-- That lines are written whole changes no byte that memory lists. -/
@[simp] theorem State.mem_foldl_cleanLine (s : State) (ls : List Nat) : (ls.foldl State.cleanLine s).mem = s.mem := by
  induction ls generalizing s with
  | nil => rfl
  | cons l ls ih => exact (ih (s.cleanLine l)).trans rfl

theorem Memory.wf_copyPage {m : FMap Byte} (src dst : Nat) (h : Memory.wf m = true) :
    Memory.wf (copyPage m src dst) = true := by
  unfold copyPage
  have hs : ∀ e ∈ m.filter (fun e => decide (e.1 / 4096 = src)), e.2 ≠ 0#8 := by
    simp only [Memory.wf, FMap.wf, Bool.and_eq_true, List.all_eq_true, decide_eq_true_eq] at h
    exact fun e he => h.2 e (List.mem_filter.mp he).1
  have ht := FMap.wf_filter 0#8 (fun e => decide (e.1 / 4096 ≠ dst)) h
  generalize m.filter (fun e => decide (e.1 / 4096 = src)) = l at hs ⊢
  generalize m.filter (fun e => decide (e.1 / 4096 ≠ dst)) = t at ht ⊢
  induction l generalizing t with
  | nil => exact ht
  | cons e l ih =>
    exact ih (fun x hx => hs x (List.mem_cons_of_mem e hx)) _ (FMap.wf_put 0#8 _ (hs e List.mem_cons_self) ht)

/-- A copy of a page keeps memory canonical. -/
theorem State.wf_copyTo {s : State} (page frame lo hi : Nat) (h : s.wf) : (s.copyTo page frame lo hi).wf := by
  have e : (s.copyTo page frame lo hi).mem = copyPage s.mem page frame :=
    congrArg (fun m => copyPage m page frame)
      ((State.mem_foldl_cleanLine _ _).trans ((State.mem_detectAt _ _ _).trans (State.mem_recallPage s page)))
  exact (congrArg (fun m => Memory.wf m = true) e).mpr (Memory.wf_copyPage page frame h)

/-- What a write asks of its page keeps memory canonical. -/
theorem State.wf_cowAt {s t : State} {g page : Nat} {sx : Bool} (h : s.wf) (e : s.cowAt g page sx = some t) : t.wf := by
  rw [State.cowAt] at e
  generalize s.gen.tagOf page = tag at e
  by_cases h1 : (sx || !s.tagged page) = true
  · rw [if_pos h1] at e
    cases e
    exact h
  rw [if_neg h1] at e
  by_cases h2 : s.latent.contains (tagLineOf page) = true
  · rw [if_pos h2] at e
    cases e
    exact h
  rw [if_neg h2] at e
  by_cases h3 : decide (g ≤ tag) = true
  · rw [if_pos h3] at e
    cases e
    exact h
  rw [if_neg h3] at e
  by_cases h4 : (!s.gen.needs tag g) = true
  · rw [if_pos h4] at e
    cases e
    exact h
  rw [if_neg h4] at e
  cases hf : s.gen.freeFrame (page / 2 ^ 24) with
  | none =>
    rw [hf] at e
    cases e
  | some f =>
    have w := State.wf_copyTo page f tag (g - 1) h
    rw [hf] at e
    dsimp only at e
    generalize s.copyTo page f tag (g - 1) = u at e w
    cases e
    exact w

/-- A write at the home keeps memory canonical. -/
theorem State.wf_homeWrite {s t : State} {ctx core pa : Nat} {bs : List Byte} {sx : Bool} (h : s.wf)
    (e : s.homeWrite ctx core pa bs sx = .done t) : t.wf := by
  rw [State.homeWrite] at e
  by_cases h1 : s.lostStack pa = true
  · rw [if_pos h1] at e
    cases e
    exact (congrArg (fun m => Memory.wf m = true) (State.mem_post ..)).mpr h
  rw [if_neg h1] at e
  by_cases h2 : (!(linesIn pa bs.length).all fun l => s.lineFree l && s.earlyFree l) = true
  · rw [if_pos h2] at e
    cases e
  rw [if_neg h2, State.prepared] at e
  generalize (if core < 2048 then [core] else []) ++ (linesIn pa bs.length).flatMap homeUnits = us at e
  by_cases h3 : (s.needsCopy (s.gen.genAt us) (pa / 4096) sx && !s.recallable (pa / 4096)) = true
  · rw [if_pos h3] at e
    cases e
  rw [if_neg h3] at e
  cases hu : s.cowAt (s.gen.genAt us) (pa / 4096) sx with
  | none => simp [hu] at e
  | some u =>
    have hm : ∀ (ls : List Nat) (v : State), (ls.foldl State.useSnoop v).mem = v.mem := by
      intro ls
      induction ls with
      | nil => exact fun _ => rfl
      | cons l ls ih => exact fun v => (ih (v.useSnoop l)).trans rfl
    simp only [hu] at e
    cases e
    exact (congrArg (fun m => Memory.wf m = true) (hm _ _)).mpr
      (State.wf_store (s := u.exchange us) pa bs (show State.wf u from State.wf_cowAt h hu))

end Sys2Proof.Machine
end

