-- ==== Sys2Proof/Tests/Slice0.lean ====
section
/-! SUPPORT. Tests: an ill-formed term for each check of WellFormed, words of the manual for every family, and single steps
on a small state. Expected results are those of the manual's tables and worked examples, or worked by hand from its rules. -/

namespace Sys2Proof.Tests
open Sys2Proof Sys2Proof.Machine

-- Each test asks the kernel about everything before it: one after another, they need no thread each.
set_option Elab.async false

/-! ## Terms -/

/-- A field that names a register. -/
def fld (n : Nat) : Fld := { mode := .direct, trap := false, f := BitVec.ofNat 8 n }
/-- A small immediate. -/
def small (n : Nat) : Fld := { mode := .small, trap := false, f := BitVec.ofNat 8 n }
/-- An E form with guard 7 and a direct destination. -/
def eForm (d : Nat) (a b c : Fld) (m : Nat) : FormE :=
  { u := false, g := 7, md := .direct, xd := BitVec.ofNat 8 d, a := a, b := b, c := c, mod := BitVec.ofNat 7 m }
/-- A one-word form with guard 7. -/
def oneForm (d a b : Nat) : Form1 :=
  { u := false, g := 7, d := BitVec.ofNat 6 d, a := BitVec.ofNat 6 a, b := BitVec.ofNat 6 b }
/-- An I form with guard 7. -/
def immForm (d a m imm : Nat) : FormI :=
  { u := false, g := 7, d := BitVec.ofNat 6 d, a := BitVec.ofNat 6 a, mod := BitVec.ofNat 6 m, imm := BitVec.ofNat 32 imm }

/-! ## A small state: one group of two live threads inside a clause, at its first instruction -/

/-- Registers v4, v5 and v6 of a thread. -/
def demoThread (x y z : Nat) : Thread := { v := [(4, BitVec.ofNat 32 x), (5, BitVec.ofNat 32 y), (6, BitVec.ofNat 32 z)] }
def demoSplit : Split := { pc := 0x10004, active := 3, clause := some { header := 0x10000, left := 15, cls := 0 } }
/-- Lane 0 holds x, y, z and lane 1 holds y, x, z. -/
def demoGroup (x y z : Nat) : Group :=
  { launch := 0, ctx := 0, wgpos := 0, lanes := [(0, demoThread x y z), (1, demoThread y x z)], dead := 0xFFFFFFFC,
    splits := [(0, demoSplit)] }
def demoCur : Cur :=
  { core := 0, gid := 0, split := 0, base := 0x10004, pc := 0x10004, next := 0x10008, w0 := 0, w1 := 0, dict := false,
    secondFollows := false }
def demoWg : Wg := { launch := 0, ctx := 0, core := 0, slot := 0, wgid := 0 }
/-- The launch of the small state, with 128 registers. -/
def demo (g : Group) : State :=
  { State.reset with
    cur := some demoCur, fresh := 1, cores := [(0, { groups := [(0, g)], tracks := [(0, { issuing := some (0, 0) })] })],
    wgs := [(0, demoWg)], q := { State.reset.q with launches := [(0, placeLaunch)] } }

/-- The state after an instruction. -/
noncomputable def after (i : Instr) (s : State) : Option State :=
  match exec i s with
  | .next t => some t
  | .fault _ | .refused _ => none
/-- What a register of a lane holds after an instruction on the small state. -/
noncomputable def regAfter (i : Instr) (g : Group) (l r : Nat) : Option Word :=
  ((after i (demo g)).bind (·.group 0 0)).map fun h => (h.thread l).reg r
/-- FLAGS after an instruction on the small state. -/
noncomputable def flagsAfter (i : Instr) (g : Group) : Option Word := ((after i (demo g)).bind (·.group 0 0)).map (·.flags)
/-- The issuing split after an instruction on the small state. -/
noncomputable def splitAfter (i : Instr) (g : Group) : Option Split := ((after i (demo g)).bind (·.group 0 0)).bind (·.split 0)
/-- A predicate of a lane after an instruction on the small state. -/
noncomputable def predAfter (i : Instr) (g : Group) (l k : Nat) : Option Bool :=
  ((after i (demo g)).bind (·.group 0 0)).map fun h => (h.thread l).pred k
/-- The trap record h0 to h7 after an instruction on the small state whose kernel has a handler. -/
noncomputable def recordAfter (i : Instr) (g : Group) (k : Nat) : Option Word :=
  let s := demo g
  let x : Launch := { placeLaunch with hdr := { placeLaunch.hdr with handler := 0x400 } }
  ((after i { s with q := { s.q with launches := [(0, x)] } }).bind (·.group 0 0)).map fun h => FMap.get 0 h.h k

/-! ## Well-formedness: a term that each check refuses -/

/-- R46: a pair in an odd register. -/
theorem test_wf_fields : (Instr.call (immForm 3 0 0 0)).wfFields = false := by decide +kernel
/-- R166: `bra` under a guard other than 7. -/
theorem test_wf_guard : (Instr.bra { immForm 0 0 0 8 with g := 1 }).wfGuard = false := by decide +kernel
/-- R185: U on a lane instruction. -/
theorem test_wf_uniform : (Instr.lxch { eForm 8 (fld 4) (fld 5) (fld 0) 0 with u := true }).wfUniform = false := by decide +kernel
/-- R167: a displacement that is no multiple of 4. -/
theorem test_wf_mods : (Instr.bra (immForm 0 0 0 2)).wfMods = false := by decide +kernel
/-- R104: CK 3. -/
theorem test_wf_ck3 : (Instr.iaddE (eForm 8 (fld 4) (fld 5) (fld 0) 6)).wf = false := by decide +kernel
theorem test_wf_good : (Instr.iaddE (eForm 8 (fld 4) (fld 5) (fld 0) 4)).wf = true := by decide +kernel

/-! ## Decoding rejects by name -/

theorem test_decode_truncated : decodeList [0x405C2002] = .error .truncated := by rfl
theorem test_decode_header : decodeWords 0xCC008480 0 = .error .header := by rfl
theorem test_decode_codes : decodeWords 0xA062405E 0 = .error .codes := by rfl
/-- Opcode 0x18 is assigned to nothing. -/
theorem test_decode_opcode : decodeWords 0x031C0000 0 = .error .opcode := by rfl
/-- MA is 0b11. -/
theorem test_decode_mode : decodeWords 0x44DCC000 0x08040500 = .error .mode := by rfl
theorem test_decode_field : decodeWords 0x40BC3000 0 = .error .field := by rfl
theorem test_decode_guard : decodeWords 0x40200000 8 = .error .guard := by rfl
theorem test_decode_uniform : decodeWords 0x701C0000 0x08040500 = .error .uniform := by rfl
theorem test_decode_modifier : decodeWords 0x44DC0006 0x08040500 = .error .modifier := by rfl

/-! ## Words that the chapters write out -/

theorem test_word_nop : decodeList [0x001C0000] = .ok (.nop (oneForm 0 0 0)) := by rfl
theorem test_word_iaddc : decodeList [0x451C001E, 0x08000400] = .ok (.iaddc (eForm 8 (fld 0) (fld 4) (fld 0) 0x1E)) := by rfl
theorem test_word_isetp : decodeList [0x497C0024, 0x02080901] = .ok (.isetp (eForm 2 (fld 8) (fld 9) (fld 1) 0x24)) := by rfl
theorem test_word_isetpn : decodeList [0x497C0025, 0x02080901] = .ok (.isetpn (eForm 2 (fld 8) (fld 9) (fld 1) 0x25)) := by rfl
theorem test_word_ffma_rz : decodeList [0x4A7C0020, 0x08090A0B] = .ok (.ffmaE (eForm 8 (fld 9) (fld 10) (fld 11) 0x20)) := by rfl
theorem test_word_brc : decodeList [0x405C2002, 0x180] = .ok (.brc (immForm 2 0 2 0x180)) := by rfl
theorem test_word_lfold : decodeList [0x507C0010, 0x08090000] = .ok (.lfold (eForm 8 (fld 9) (fld 0) (fld 0) 0x10)) := by rfl
theorem test_word_regroup : decodeList [0x427C2000, 0x00141000] = .ok (.regroup (eForm 0 (fld 20) (small 16) (fld 0) 0)) := by rfl
theorem test_word_lget : decodeList [0x423C0000, 0x020A0300] = .ok (.lget (eForm 2 (fld 10) (fld 3) (fld 0) 0)) := by rfl
theorem test_word_rte : decodeList [0x421C8001, 0] = .ok (.rteSkip (eForm 0 (small 0) (fld 0) (fld 0) 1)) := by rfl
theorem test_word_ld : decodeList [0x121C6100] = .ok (.ld (oneForm 6 4 0)) := by rfl
/-- The fields of the worked `ld.b64.acq.dev`: 0x91 << 21 | 7 << 18 | 0x4080 | 0x29 (notes/assumptions/14.md). -/
theorem test_word_ld_acq : decodeList [0x523C40A9, 0x40] = .ok (.ldAcq (immForm 4 2 0x29 0x40)) := by rfl
theorem test_word_atom_acq : decodeList [0x52FC0854, 0x08040900] = .ok (.atom (eForm 8 (fld 4) (fld 9) (small 0) 0x54)) := by rfl
theorem test_word_cas : decodeList [0x531C005E, 0x08040C10] = .ok (.cas (eForm 8 (fld 4) (fld 12) (fld 16) 0x5E)) := by rfl
theorem test_word_bcopy : decodeList [0x541C0011, 0x00060000] = .ok (.bcopy (eForm 0 (fld 6) (fld 0) (fld 0) 0x11)) := by rfl
theorem test_word_pmma : decodeList [0x589C200A, 0x28040100] = .ok (.pmma (eForm 40 (fld 4) (small 1) (fld 0) 0x0A)) := by rfl
theorem test_word_pswap : decodeList [0x18FC1000] = .ok (.pswap (oneForm 1 0 0)) := by rfl
theorem test_word_bar : decodeList [0x5A1C8000, 0] = .ok (.bar (eForm 0 (small 0) (fld 0) (fld 0) 0)) := by rfl
theorem test_word_sstep : decodeList [0x5A5C0030, 0] = .ok (.sstep (eForm 0 (fld 0) (fld 0) (fld 0) 0x30)) := by rfl
theorem test_word_evwait : decodeList [0x5AFC0050, 0x00040600] = .ok (.evwait (eForm 0 (fld 4) (fld 6) (fld 0) 0x50)) := by rfl
theorem test_word_snap : decodeList [0x1B1C8100] = .ok (.snap (oneForm 8 4 0)) := by rfl
theorem test_word_snapq : decodeList [0x5B3C0001, 0x02000000] = .ok (.snapqCur (eForm 2 (fld 0) (fld 0) (fld 0) 1)) := by rfl
theorem test_word_tlbinv : decodeList [0x5C1C2050, 0x00040106] = .ok (.tlbinvRange (eForm 0 (fld 4) (small 1) (fld 6) 0x50)) := by rfl
theorem test_word_biasset : decodeList [0x5C3C0001, 0x02040600] = .ok (.biassetHost (eForm 2 (fld 4) (fld 6) (fld 0) 1)) := by rfl
theorem test_word_migack : decodeList [0x1C5C20C4] = .ok (.migack (oneForm 2 3 4)) := by rfl
theorem test_word_pmc_rd : decodeList [0x5C7C8000, 0x02050000] = .ok (.pmcRd (eForm 2 (small 5) (fld 0) (fld 0) 0)) := by rfl
theorem test_word_pmc_sel : decodeList [0x5C7C8001, 0x00030600] = .ok (.pmcSel (eForm 0 (small 3) (fld 6) (fld 0) 1)) := by rfl
theorem test_word_pmc_clr : decodeList [0x5C7C8002, 0x00030000] = .ok (.pmcClr (eForm 0 (small 3) (fld 0) (fld 0) 2)) := by rfl
/-- The encoder writes the same words. -/
theorem test_encode_isetp : encode (.isetp (eForm 2 (fld 8) (fld 9) (fld 1) 0x24)) = [0x497C0024, 0x02080901] := by decide +kernel


/-! ## Integer instructions -/

/-- R106: the sum modulo 2^32. -/
theorem test_iadd_wraps : regAfter (.iadd (oneForm 8 4 5)) (demoGroup 0xFFFFFFFF 2 0) 0 8 = some 1 := by decide +kernel
/-- R106, R142: each lane computes from its own registers. -/
theorem test_isub_lane1 : regAfter (.isub (oneForm 8 4 5)) (demoGroup 1 3 0) 1 8 = some 2 := by decide +kernel
/-- R104: CK 1 sets IV when the signed sum leaves the range. -/
theorem test_iadd_ck1 : flagsAfter (.iaddE (eForm 8 (fld 4) (fld 5) (fld 0) 2)) (demoGroup 0x7FFFFFFF 1 0) = some 0x40 := by decide +kernel
/-- R113: t = 0xFFFF_FFFF + 1, the first step of the worked 96-bit add. -/
theorem test_iaddc : regAfter (.iaddc (eForm 8 (fld 4) (fld 5) (fld 0) 30)) (demoGroup 0xFFFFFFFF 1 0) 0 8 = some 0 := by decide +kernel
theorem test_iaddc_carry : predAfter (.iaddc (eForm 8 (fld 4) (fld 5) (fld 0) 30)) (demoGroup 0xFFFFFFFF 1 0) 0 1 = some true := by decide +kernel
/-- (−1)·(−1) = 1: its signed upper word is 0. -/
theorem test_imulh : regAfter (.imulh (oneForm 8 4 5)) (demoGroup 0xFFFFFFFF 0xFFFFFFFF 0) 0 8 = some 0 := by decide +kernel
/-- (2^32 − 1)² has the upper word 2^32 − 2. -/
theorem test_imulhn : regAfter (.imulhn (eForm 8 (fld 4) (fld 5) (fld 0) 1)) (demoGroup 0xFFFFFFFF 0xFFFFFFFF 0) 0 8 = some 0xFFFFFFFE := by decide +kernel
/-- R115: signed order. -/
theorem test_imax_signed : regAfter (.imax (oneForm 8 4 5)) (demoGroup 0xFFFFFFFF 1 0) 0 8 = some 1 := by decide +kernel
/-- R116: CK 1 and 0x8000_0000 set IV. -/
theorem test_iabs_min : flagsAfter (.iabsE (eForm 8 (fld 4) (fld 0) (fld 0) 2)) (demoGroup 0x80000000 0 0) = some 0x40 := by decide +kernel
/-- R117: the sum is clamped to 2^31 − 1. -/
theorem test_iadds : regAfter (.iadds (oneForm 8 4 5)) (demoGroup 0x7FFFFFF0 0x20 0) 0 8 = some 0x7FFFFFFF := by decide +kernel
/-- R117: a clamp that changes the sum sets SAT. -/
theorem test_iadds_sat : flagsAfter (.iadds (oneForm 8 4 5)) (demoGroup 0x7FFFFFF0 0x20 0) = some 0x20 := by decide +kernel
/-- Table 5.3: a shift by 32 leaves 0. -/
theorem test_shl_32 : regAfter (.shl (oneForm 8 4 5)) (demoGroup 0x80000001 32 0) 0 8 = some 0 := by decide +kernel
/-- Table 5.3: a shift by 32 or more leaves the sign. -/
theorem test_sar_40 : regAfter (.sar (oneForm 8 4 5)) (demoGroup 0x80000000 40 0) 0 8 = some 0xFFFFFFFF := by decide +kernel
/-- Table 5.3: the count modulo 32. -/
theorem test_rotl_33 : regAfter (.rotl (oneForm 8 4 5)) (demoGroup 0x80000001 33 0) 0 8 = some 3 := by decide +kernel
/-- R122: 32 for a zero word. -/
theorem test_clz_zero : regAfter (.clz (oneForm 8 4 0)) (demoGroup 0 1 0) 0 8 = some 32 := by decide +kernel
/-- R122: bit i goes to bit 31 − i. -/
theorem test_brev : regAfter (.brev (oneForm 8 4 0)) (demoGroup 0xC 1 0) 0 8 = some 0x30000000 := by decide +kernel
/-- R142: sources are read before the destination is written. -/
theorem test_isub_alias : regAfter (.isub (oneForm 4 5 4)) (demoGroup 3 10 0) 0 4 = some 7 := by decide +kernel
/-- R125: `isetp` compares signed, `isetpn` unsigned (CMP 2 is less than). -/
theorem test_isetp_lt : predAfter (.isetp (eForm 2 (fld 4) (fld 5) (fld 0) 0x20)) (demoGroup 0xFFFFFFFF 1 0) 0 2 = some true := by decide +kernel
theorem test_isetpn_lt : predAfter (.isetpn (eForm 2 (fld 4) (fld 5) (fld 0) 0x21)) (demoGroup 0xFFFFFFFF 1 0) 0 2 = some false := by decide +kernel
/-- R20, R85: a write to p7 changes nothing. -/
theorem test_p7 : predAfter (.isetp (eForm 7 (fld 4) (fld 5) (fld 0) 0x20)) (demoGroup 1 0 0) 0 7 = some true := by decide +kernel
/-- R47: a lane whose guard is false writes nothing. -/
theorem test_guard_false : regAfter (.mov { oneForm 8 4 0 with g := 1 }) (demoGroup 9 9 9) 0 8 = some 0 := by decide +kernel

/-! ## Float and format instructions -/

/-- The worked example of chapter 7 with RM 2. -/
theorem test_ffma : regAfter (.ffmaE (eForm 8 (fld 4) (fld 4) (fld 6) 0x20)) (demoGroup 0x3F800800 0 0xBF801000) 0 8 = some 0x33800000 := by decide +kernel
/-- Its unfused product under RZ. -/
theorem test_fmul_rz : regAfter (.fmulE (eForm 8 (fld 4) (fld 4) (fld 0) 0x20)) (demoGroup 0x3F800800 0 0) 0 8 = some 0x3F801000 := by decide +kernel
/-- NX of the same product. -/
theorem test_fmul_rz_nx : flagsAfter (.fmulE (eForm 8 (fld 4) (fld 4) (fld 0) 0x20)) (demoGroup 0x3F800800 0x3F800800 0) = some 0x10 := by decide +kernel
/-- R149: −0 orders below +0. -/
theorem test_fmin_zero : regAfter (.fmin (oneForm 8 4 5)) (demoGroup 0 0x80000000 0) 0 8 = some 0x80000000 := by decide +kernel
/-- R150: a NaN gives the canonical NaN. -/
theorem test_fneg_nan : regAfter (.fneg (oneForm 8 4 0)) (demoGroup 0xFF800001 0 0) 0 8 = some 0x7FC00000 := by decide +kernel
/-- Table 7.6, third line: 2.0 gives 15. -/
theorem test_qnt : regAfter (.qnt (eForm 8 (fld 4) (fld 5) (small 3) 0x10)) (demoGroup 0x40000000 0x00053266 0) 0 8 = some 15 := by decide +kernel
/-- The worked MXFP4 element: −2.6 under X 0x7F gives 0xD. -/
theorem test_mxq : regAfter (.mxq (eForm 8 (fld 4) (fld 5) (fld 0) 0x11)) (demoGroup 0xC0266666 0x7F 0) 0 8 = some 0xD := by decide +kernel
/-- The worked MX block of 5.0. -/
theorem test_mxexp_int8 : regAfter (.mxexp (oneForm 8 4 0)) (demoGroup 0x40A00000 0 0) 0 8 = some 0x81 := by decide +kernel
/-- The five conversions of chapter 6, as roundings. -/
theorem test_rnd_bf16 : rnd (.mode 0) bf16 false (fp32.value 0x3F818000) = (0x3F82, 0x10) := by decide +kernel
theorem test_rnd_fp16 : rnd (.mode 0) fp16 false (fp32.value 0x3727C5AC) = (0xA8, 0x18) := by decide +kernel
theorem test_rnd_e4m3 : rnd (.mode 0) e4m3 false (fp32.value 0x43FA0000) = (0x7F, 0x14) := by decide +kernel
theorem test_rnd_e4m3_sat : rnd (.mode 0) e4m3 true (fp32.value 0x43FA0000) = (0x7E, 0x30) := by decide +kernel
theorem test_rnd_e5m2 : rnd (.mode 0) e5m2 false (fp32.value 0x43FA0000) = (0x60, 0x10) := by decide +kernel
theorem test_to_int_rd : toIntType (.mode 3) (-2 ^ 31) (2 ^ 31 - 1) (fp32.value 0xC0200000) = (-3, 0x10) := by decide +kernel

/-! ## Lanes, control and traps -/

/-- R186: lane 0 reads lane 1's register (`.flip`, MODE 3: lane XOR b). -/
theorem test_lxch_other_lane : regAfter (.lxch (eForm 8 (fld 4) (small 1) (fld 0) 6)) (demoGroup 3 8 0) 0 8 = some 8 := by decide +kernel
/-- R189: the sum over the active lanes. -/
theorem test_lfold_add : regAfter (.lfold (eForm 8 (fld 4) (fld 0) (fld 0) 0)) (demoGroup 3 8 0) 1 8 = some 11 := by decide +kernel
/-- R167, R169: the target is BASE + DISP. -/
theorem test_bra : (splitAfter (.bra (immForm 0 0 0 0x180)) (demoGroup 1 2 3)).map (·.pc) = some 0x10184 := by decide +kernel
/-- R182: `exit` ends the guarded lanes; p0 of both lanes is 0, so none ends. -/
theorem test_exit_none : (splitAfter (.exit { oneForm 0 0 0 with g := 0 }) (demoGroup 1 2 3)).map (·.active) = some 3 := by decide +kernel
/-- R205, Table 9.2: `bpt` with a handler puts BREAK, 0x12, into h0 [7:0]; lane 0 is elected and split 0 faults. -/
theorem test_bpt_record : recordAfter (.bpt (oneForm 0 0 0)) (demoGroup 1 2 3) 0 = some 0x12 := by decide +kernel

/-! ## Memory and pans -/

/-- R302: the signed minimum, and `incwrap` at its bound. -/
theorem test_atom_smin : atomOp 2 32 0xFFFFFFFF 1 = 0xFFFFFFFF := by decide +kernel
theorem test_atom_incwrap : atomOp 10 32 5 5 = 0 := by decide +kernel
/-- R306, R307, R308: the worked line: a, b and c in this order, and what `rdx` returns. -/
theorem test_redx : rdxValue (redxLine fp32 (redxLine fp32 (redxLine fp32 0 0x3F800001) 0xCB800000) 0x4B800000) = 0x3F800001 := by
  decide +kernel
theorem test_redx_words :
    redxLine fp32 (redxLine fp32 (redxLine fp32 0 0x3F800001) 0xCB800000) 0x4B800000 / 2 ^ 128 = 0x00000001_00000200 := by
  decide +kernel
/-- Table 11.4: k = 16 and k = 32 are exact at S 32, n 1. -/
theorem test_recount : (recount 32 1 16, recount 32 1 32) = (16, 32) := by decide +kernel
/-- The worked block of chapter 11: weights 9, scale entry 0x0008_3800, activations 3 and −2, ρ = 1, accumulator 0.25. -/
theorem test_pan_block :
    let x : PanData := { scratch := fun i => if i % 2 = 0 then 3 else 0xFE, pan := fun _ _ => 0x99, entry := fun _ _ => 0x00083800 }
    let d := unfoldOf [0, 0, 0, 0, 1, 0, 1, 0, 1, 0, 32, 0, 1, 1, 1, 1, 1, 1, 0, 0, 1, 0, 1, 0, 0, 0, 0, 0, 32, 0, 0, 0,
      0, 0, 0, 0, 0, 0, 0, 0, 0, 0, 0, 0, 0, 0, 0, 0, 1, 0, 0, 0, 0, 0, 0, 0, 0, 0, 0, 0, 0, 0, 0, 0]
    d.legal 3 1 1 = true ∧ rowResult x d 3 { lane := 0, row := 0, gid := 0, rho := 0x3F800000, acc := [0x3E800000], regs := [8] } = [0x41040000] := by
  decide +kernel

/-! ## Custody -/

set_option maxRecDepth 20000 in
/-- SHA-384 of "abc", the first example of FIPS 180-4. -/
theorem test_sha384 : sha384 [0x61, 0x62, 0x63] =
    0xcb00753f45a35e8bb5a03d699ac65007272c32ab0eded1631a8b605a43ff5bed8086072ba1e7cc2358baeca134c825a7#384 := by decide +kernel

end Sys2Proof.Tests
end

