-- ==== Sys2Proof/Tests/Witness.lean ====
section
/-! SUPPORT. For each statement that has hypotheses, concrete states and operands that meet them (`witness_<statement>`): the
statements say something of a state that exists. Nothing here is about what a statement concludes. -/

namespace Sys2Proof.Tests
open Sys2Proof Sys2Proof.Machine

-- Each test asks the kernel about everything before it: one after another, they need no thread each.
set_option Elab.async false

/-! ## Instructions on the small state -/

/-- What `Admitted` asks for, as a computation. -/
def admits (s : State) (i : Instr) (c : Cur) (g : Group) (p : Split) : Bool :=
  s.cur == some c && s.group c.core c.gid == some g && g.split c.split == some p && contextLegal c g i && classAdmits p i &&
    (badNumbers (s.hdr g) g i (lanesOf i g p)).isEmpty && p.replay == none && (empties (s.hdr g) g i (lanesOf i g p)).isEmpty

theorem admitted_of {s : State} {i : Instr} {c : Cur} {g : Group} {p : Split} (h : admits s i c g p = true) :
    Admitted s i c g p := by
  simp only [admits, Bool.and_eq_true, beq_iff_eq, List.isEmpty_iff] at h
  obtain ⟨⟨⟨⟨⟨⟨⟨h1, h2⟩, h3⟩, h4⟩, h5⟩, h6⟩, h7⟩, h8⟩ := h
  exact ⟨h1, h2, h3, h4, h5, h6, h7, h8⟩

/-- Lane 0 holds 3, 8, 5 in v4, v5, v6 and lane 1 holds 8, 3, 5. -/
def gW : Group := demoGroup 3 8 5

/-- Each instruction is admitted on the small state, and both lanes execute it. -/
def Runs (is : List Instr) : Prop := ∀ i ∈ is, Admitted (demo gW) i demoCur gW demoSplit ∧ lanesOf i gW demoSplit = [0, 1]

theorem runs_of (is : List Instr)
    (h : (is.all fun i => admits (demo gW) i demoCur gW demoSplit && lanesOf i gW demoSplit == [0, 1]) = true) : Runs is := by
  intro i hi
  have := List.all_eq_true.mp h i hi
  simp only [Bool.and_eq_true, beq_iff_eq] at this
  exact ⟨admitted_of this.1, this.2⟩

theorem witness_RegisterInstructionsChangeTheirDestinationsAlone : Runs [
  .fmtget (oneForm 8 0 0), .mov (oneForm 8 4 0), .movE (eForm 8 (fld 4) (fld 0) (fld 0) 0), .movi (immForm 8 0 0 8),
  .srd (oneForm 8 4 0), .srdE (eForm 8 (fld 4) (fld 0) (fld 0) 0), .sel (eForm 8 (fld 4) (fld 5) (fld 0) 0),
  .pmov (oneForm 8 0 0), .pmovE (eForm 8 (fld 0) (fld 0) (fld 0) 0), .iadd (oneForm 8 4 5),
  .iaddE (eForm 8 (fld 4) (fld 5) (fld 0) 0), .isub (oneForm 8 4 5), .isubE (eForm 8 (fld 4) (fld 5) (fld 0) 0),
  .iaddc (eForm 8 (fld 4) (fld 5) (fld 0) 0), .isubb (eForm 8 (fld 4) (fld 5) (fld 0) 0), .imul (oneForm 8 4 5),
  .imulE (eForm 8 (fld 4) (fld 5) (fld 0) 0), .imulh (oneForm 8 4 5), .imulhE (eForm 8 (fld 4) (fld 5) (fld 0) 0),
  .imulhn (eForm 8 (fld 4) (fld 5) (fld 0) 1), .imad (eForm 8 (fld 4) (fld 5) (fld 6) 0), .iadd64 (oneForm 8 4 5),
  .iadd64E (eForm 8 (fld 4) (fld 5) (fld 0) 0), .isub64 (oneForm 8 4 5),
  .isub64E (eForm 8 (fld 4) (fld 5) (fld 0) 0), .lea (eForm 8 (fld 4) (fld 5) (fld 0) 0), .imin (oneForm 8 4 5),
  .iminE (eForm 8 (fld 4) (fld 5) (fld 0) 0), .iminn (eForm 8 (fld 4) (fld 5) (fld 0) 1), .imax (oneForm 8 4 5),
  .imaxE (eForm 8 (fld 4) (fld 5) (fld 0) 0), .imaxn (eForm 8 (fld 4) (fld 5) (fld 0) 1), .iabs (oneForm 8 4 0),
  .iabsE (eForm 8 (fld 4) (fld 0) (fld 0) 0), .ineg (oneForm 8 4 0), .inegE (eForm 8 (fld 4) (fld 0) (fld 0) 0),
  .iadds (oneForm 8 4 5), .iaddsE (eForm 8 (fld 4) (fld 5) (fld 0) 0), .isubs (oneForm 8 4 5),
  .isubsE (eForm 8 (fld 4) (fld 5) (fld 0) 0), .and (oneForm 8 4 5), .andE (eForm 8 (fld 4) (fld 5) (fld 0) 0),
  .or (oneForm 8 4 5), .orE (eForm 8 (fld 4) (fld 5) (fld 0) 0), .xor (oneForm 8 4 5),
  .xorE (eForm 8 (fld 4) (fld 5) (fld 0) 0), .andn (oneForm 8 4 5), .andnE (eForm 8 (fld 4) (fld 5) (fld 0) 0),
  .orn (oneForm 8 4 5), .ornE (eForm 8 (fld 4) (fld 5) (fld 0) 0), .not (oneForm 8 4 0),
  .notE (eForm 8 (fld 4) (fld 0) (fld 0) 0), .shl (oneForm 8 4 5), .shlE (eForm 8 (fld 4) (fld 5) (fld 0) 0),
  .shr (oneForm 8 4 5), .shrE (eForm 8 (fld 4) (fld 5) (fld 0) 0), .sar (oneForm 8 4 5),
  .sarE (eForm 8 (fld 4) (fld 5) (fld 0) 0), .rotl (oneForm 8 4 5), .rotlE (eForm 8 (fld 4) (fld 5) (fld 0) 0),
  .bfx (eForm 8 (fld 4) (fld 5) (fld 0) 0), .bfxs (eForm 8 (fld 4) (fld 5) (fld 0) 0),
  .bfi (eForm 8 (fld 4) (fld 5) (fld 6) 0), .popc (oneForm 8 4 0), .popcE (eForm 8 (fld 4) (fld 0) (fld 0) 0),
  .clz (oneForm 8 4 0), .clzE (eForm 8 (fld 4) (fld 0) (fld 0) 0), .ctz (oneForm 8 4 0),
  .ctzE (eForm 8 (fld 4) (fld 0) (fld 0) 0), .brev (oneForm 8 4 0), .brevE (eForm 8 (fld 4) (fld 0) (fld 0) 0),
  .bysel (eForm 8 (fld 4) (fld 5) (fld 6) 0), .lut3 (eForm 8 (fld 4) (fld 5) (small 0) 0),
  .isetp (eForm 0 (fld 4) (fld 5) (fld 0) 0), .isetpn (eForm 0 (fld 4) (fld 5) (fld 0) 1),
  .plop (eForm 0 (fld 4) (fld 5) (small 0) 0), .xmov (eForm 0 (fld 4) (fld 0) (fld 0) 0),
  .xadd (eForm 0 (fld 4) (fld 0) (fld 0) 0), .fadd (oneForm 8 4 5), .faddE (eForm 8 (fld 4) (fld 5) (fld 0) 0),
  .fsub (oneForm 8 4 5), .fsubE (eForm 8 (fld 4) (fld 5) (fld 0) 0), .fmul (oneForm 8 4 5),
  .fmulE (eForm 8 (fld 4) (fld 5) (fld 0) 0), .ffma (oneForm 8 4 5), .ffmaE (eForm 8 (fld 4) (fld 5) (fld 6) 0),
  .fmin (oneForm 8 4 5), .fminE (eForm 8 (fld 4) (fld 5) (fld 0) 0), .fmax (oneForm 8 4 5),
  .fmaxE (eForm 8 (fld 4) (fld 5) (fld 0) 0), .fabs (oneForm 8 4 0), .fabsE (eForm 8 (fld 4) (fld 0) (fld 0) 0),
  .fneg (oneForm 8 4 0), .fnegE (eForm 8 (fld 4) (fld 0) (fld 0) 0), .fclass (oneForm 8 4 0),
  .fclassE (eForm 8 (fld 4) (fld 0) (fld 0) 0), .frnd (oneForm 8 4 0), .frndE (eForm 8 (fld 4) (fld 0) (fld 0) 0),
  .fsetp (eForm 0 (fld 4) (fld 5) (fld 0) 0), .hadd2 (oneForm 8 4 5), .hadd2E (eForm 8 (fld 4) (fld 5) (fld 0) 0),
  .hmul2 (oneForm 8 4 5), .hmul2E (eForm 8 (fld 4) (fld 5) (fld 0) 0), .hfma2 (oneForm 8 4 5),
  .hfma2E (eForm 8 (fld 4) (fld 5) (fld 6) 0), .hmin2 (oneForm 8 4 5), .hmin2E (eForm 8 (fld 4) (fld 5) (fld 0) 0),
  .hmax2 (oneForm 8 4 5), .hmax2E (eForm 8 (fld 4) (fld 5) (fld 0) 0), .badd2 (oneForm 8 4 5),
  .badd2E (eForm 8 (fld 4) (fld 5) (fld 0) 0), .bmul2 (oneForm 8 4 5), .bmul2E (eForm 8 (fld 4) (fld 5) (fld 0) 0),
  .bfma2 (oneForm 8 4 5), .bfma2E (eForm 8 (fld 4) (fld 5) (fld 6) 0), .bmin2 (oneForm 8 4 5),
  .bmin2E (eForm 8 (fld 4) (fld 5) (fld 0) 0), .bmax2 (oneForm 8 4 5), .bmax2E (eForm 8 (fld 4) (fld 5) (fld 0) 0),
  .idp4 (oneForm 8 4 5), .idp4E (eForm 8 (fld 4) (fld 5) (fld 6) 0), .idp4n (oneForm 8 4 5),
  .idp4nE (eForm 8 (fld 4) (fld 5) (fld 6) 0), .idp8 (eForm 8 (fld 4) (fld 5) (fld 6) 0), .bdp2 (oneForm 8 4 5),
  .bdp2E (eForm 8 (fld 4) (fld 5) (fld 6) 0), .hdp2 (oneForm 8 4 5), .hdp2E (eForm 8 (fld 4) (fld 5) (fld 6) 0),
  .cvt (eForm 8 (fld 4) (fld 0) (small 0) 0), .cvtsr (eForm 8 (fld 4) (fld 5) (small 0) 0),
  .pack (eForm 8 (fld 4) (fld 5) (small 1) 0), .unpack (eForm 8 (fld 4) (fld 0) (small 16) 0),
  .qnt (eForm 8 (fld 4) (fld 5) (small 0) 0), .dqnt (eForm 8 (fld 4) (fld 5) (small 0) 0),
  .qparam (eForm 8 (fld 4) (fld 5) (small 0) 0), .mxexp (oneForm 8 4 0), .mxexpE (eForm 8 (fld 4) (fld 0) (fld 0) 0),
  .mxq (eForm 8 (fld 4) (fld 5) (fld 0) 0), .mxdq (eForm 8 (fld 4) (fld 5) (fld 0) 0),
  .lxch (eForm 8 (fld 4) (fld 5) (fld 0) 0), .lpoll (eForm 8 (fld 4) (fld 0) (fld 0) 0),
  .lpeer (eForm 8 (fld 4) (fld 0) (fld 0) 0), .lfold (eForm 8 (fld 4) (fld 0) (fld 0) 0),
  .flfold (eForm 8 (fld 4) (fld 0) (fld 0) 0)] :=
  runs_of _ (by decide +kernel)
theorem witness_IntegerSumsAndProductsWrap : Runs [
  .mov (oneForm 8 4 0), .movE (eForm 8 (fld 4) (fld 0) (fld 0) 0), .movi (immForm 8 0 0 8), .iadd (oneForm 8 4 5),
  .iaddE (eForm 8 (fld 4) (fld 5) (fld 0) 0), .isub (oneForm 8 4 5), .isubE (eForm 8 (fld 4) (fld 5) (fld 0) 0),
  .imul (oneForm 8 4 5), .imulE (eForm 8 (fld 4) (fld 5) (fld 0) 0), .imad (eForm 8 (fld 4) (fld 5) (fld 6) 0),
  .imulh (oneForm 8 4 5), .imulhE (eForm 8 (fld 4) (fld 5) (fld 0) 0), .imulhn (eForm 8 (fld 4) (fld 5) (fld 0) 1),
  .movE (eForm 8 (fld 4) (fld 0) (fld 0) 2)] :=
  runs_of _ (by decide +kernel)
theorem witness_CheckedArithmeticRaisesOverflow : Runs [
  .iadd (oneForm 8 4 5), .isub (oneForm 8 4 5), .imul (oneForm 8 4 5), .iaddE (eForm 8 (fld 4) (fld 5) (fld 0) 0),
  .isubE (eForm 8 (fld 4) (fld 5) (fld 0) 0), .imulE (eForm 8 (fld 4) (fld 5) (fld 0) 0),
  .imad (eForm 8 (fld 4) (fld 5) (fld 6) 0), .iabsE (eForm 8 (fld 4) (fld 0) (fld 0) 0),
  .inegE (eForm 8 (fld 4) (fld 0) (fld 0) 0)] :=
  runs_of _ (by decide +kernel)
theorem witness_CarriesAndPairsWrap : Runs [
  .iaddc (eForm 8 (fld 4) (fld 5) (fld 0) 0), .isubb (eForm 8 (fld 4) (fld 5) (fld 0) 0), .iadd64 (oneForm 8 4 5),
  .isub64 (oneForm 8 4 5), .iadd64E (eForm 8 (fld 4) (fld 5) (fld 0) 0),
  .isub64E (eForm 8 (fld 4) (fld 5) (fld 0) 0), .lea (eForm 8 (fld 4) (fld 5) (fld 0) 0)] :=
  runs_of _ (by decide +kernel)
theorem witness_MinMaxAndSaturatingResults : Runs [
  .imin (oneForm 8 4 5), .iminE (eForm 8 (fld 4) (fld 5) (fld 0) 0), .imax (oneForm 8 4 5),
  .imaxE (eForm 8 (fld 4) (fld 5) (fld 0) 0), .iminn (eForm 8 (fld 4) (fld 5) (fld 0) 1),
  .imaxn (eForm 8 (fld 4) (fld 5) (fld 0) 1), .iabs (oneForm 8 4 0), .iabsE (eForm 8 (fld 4) (fld 0) (fld 0) 0),
  .ineg (oneForm 8 4 0), .inegE (eForm 8 (fld 4) (fld 0) (fld 0) 0), .iadds (oneForm 8 4 5),
  .iaddsE (eForm 8 (fld 4) (fld 5) (fld 0) 0), .isubs (oneForm 8 4 5), .isubsE (eForm 8 (fld 4) (fld 5) (fld 0) 0)] :=
  runs_of _ (by decide +kernel)
theorem witness_LogicShiftsBytesAndTruthTables : Runs [
  .and (oneForm 8 4 5), .andE (eForm 8 (fld 4) (fld 5) (fld 0) 0), .or (oneForm 8 4 5),
  .orE (eForm 8 (fld 4) (fld 5) (fld 0) 0), .xor (oneForm 8 4 5), .xorE (eForm 8 (fld 4) (fld 5) (fld 0) 0),
  .andn (oneForm 8 4 5), .andnE (eForm 8 (fld 4) (fld 5) (fld 0) 0), .orn (oneForm 8 4 5),
  .ornE (eForm 8 (fld 4) (fld 5) (fld 0) 0), .not (oneForm 8 4 0), .notE (eForm 8 (fld 4) (fld 0) (fld 0) 0),
  .shl (oneForm 8 4 5), .shlE (eForm 8 (fld 4) (fld 5) (fld 0) 0), .shr (oneForm 8 4 5),
  .shrE (eForm 8 (fld 4) (fld 5) (fld 0) 0), .sar (oneForm 8 4 5), .sarE (eForm 8 (fld 4) (fld 5) (fld 0) 0),
  .rotl (oneForm 8 4 5), .rotlE (eForm 8 (fld 4) (fld 5) (fld 0) 0), .bysel (eForm 8 (fld 4) (fld 5) (fld 6) 0),
  .lut3 (eForm 8 (fld 4) (fld 5) (small 0) 0)] :=
  runs_of _ (by decide +kernel)
theorem witness_BitFieldsAndCounts : Runs [
  .bfx (eForm 8 (fld 4) (fld 5) (fld 0) 0), .bfxs (eForm 8 (fld 4) (fld 5) (fld 0) 0),
  .bfi (eForm 8 (fld 4) (fld 5) (fld 6) 0), .popc (oneForm 8 4 0), .popcE (eForm 8 (fld 4) (fld 0) (fld 0) 0),
  .clz (oneForm 8 4 0), .clzE (eForm 8 (fld 4) (fld 0) (fld 0) 0), .ctz (oneForm 8 4 0),
  .ctzE (eForm 8 (fld 4) (fld 0) (fld 0) 0), .brev (oneForm 8 4 0), .brevE (eForm 8 (fld 4) (fld 0) (fld 0) 0)] :=
  runs_of _ (by decide +kernel)
theorem witness_PredicatesAndIndexRegisters : Runs [
  .isetp (eForm 0 (fld 4) (fld 5) (fld 0) 0), .isetpn (eForm 0 (fld 4) (fld 5) (fld 0) 1),
  .plop (eForm 0 (fld 4) (fld 5) (small 0) 0), .sel (eForm 8 (fld 4) (fld 5) (fld 0) 0), .pmov (oneForm 8 0 0),
  .pmovE (eForm 8 (fld 0) (fld 0) (fld 0) 0), .xmov (eForm 0 (fld 4) (fld 0) (fld 0) 0),
  .xadd (eForm 0 (fld 4) (fld 0) (fld 0) 0), .pmovE (eForm 0 (fld 4) (small 3) (fld 0) 2)] :=
  runs_of _ (by decide +kernel)
theorem witness_FloatingPointInstructionsCompute : Runs [
  .fadd (oneForm 8 4 5), .faddE (eForm 8 (fld 4) (fld 5) (fld 0) 0), .fsub (oneForm 8 4 5),
  .fsubE (eForm 8 (fld 4) (fld 5) (fld 0) 0), .fmul (oneForm 8 4 5), .fmulE (eForm 8 (fld 4) (fld 5) (fld 0) 0),
  .ffma (oneForm 8 4 5), .ffmaE (eForm 8 (fld 4) (fld 5) (fld 6) 0), .fmin (oneForm 8 4 5),
  .fminE (eForm 8 (fld 4) (fld 5) (fld 0) 0), .fmax (oneForm 8 4 5), .fmaxE (eForm 8 (fld 4) (fld 5) (fld 0) 0),
  .fabs (oneForm 8 4 0), .fabsE (eForm 8 (fld 4) (fld 0) (fld 0) 0), .fneg (oneForm 8 4 0),
  .fnegE (eForm 8 (fld 4) (fld 0) (fld 0) 0), .fclass (oneForm 8 4 0), .fclassE (eForm 8 (fld 4) (fld 0) (fld 0) 0),
  .frnd (oneForm 8 4 0), .frndE (eForm 8 (fld 4) (fld 0) (fld 0) 0), .fsetp (eForm 0 (fld 4) (fld 5) (fld 0) 0),
  .xor (oneForm 8 4 5), .hadd2 (oneForm 8 4 5), .hadd2E (eForm 8 (fld 4) (fld 5) (fld 0) 0), .hmul2 (oneForm 8 4 5),
  .hmul2E (eForm 8 (fld 4) (fld 5) (fld 0) 0), .hfma2 (oneForm 8 4 5), .hfma2E (eForm 8 (fld 4) (fld 5) (fld 6) 0),
  .hmin2 (oneForm 8 4 5), .hmin2E (eForm 8 (fld 4) (fld 5) (fld 0) 0), .hmax2 (oneForm 8 4 5),
  .hmax2E (eForm 8 (fld 4) (fld 5) (fld 0) 0), .badd2 (oneForm 8 4 5), .badd2E (eForm 8 (fld 4) (fld 5) (fld 0) 0),
  .bmul2 (oneForm 8 4 5), .bmul2E (eForm 8 (fld 4) (fld 5) (fld 0) 0), .bfma2 (oneForm 8 4 5),
  .bfma2E (eForm 8 (fld 4) (fld 5) (fld 6) 0), .bmin2 (oneForm 8 4 5), .bmin2E (eForm 8 (fld 4) (fld 5) (fld 0) 0),
  .bmax2 (oneForm 8 4 5), .bmax2E (eForm 8 (fld 4) (fld 5) (fld 0) 0), .bdp2 (oneForm 8 4 5),
  .bdp2E (eForm 8 (fld 4) (fld 5) (fld 6) 0), .hdp2 (oneForm 8 4 5), .hdp2E (eForm 8 (fld 4) (fld 5) (fld 6) 0)] :=
  runs_of _ (by decide +kernel)
theorem witness_IntegerDotProductsAreExact : Runs [
  .idp4 (oneForm 8 4 5), .idp4E (eForm 8 (fld 4) (fld 5) (fld 6) 0), .idp4n (oneForm 8 4 5),
  .idp4nE (eForm 8 (fld 4) (fld 5) (fld 6) 0), .idp8 (eForm 8 (fld 4) (fld 5) (fld 6) 0)] :=
  runs_of _ (by decide +kernel)
theorem witness_SfuInstructionsLeaveTheirResultPending : Runs [
  .frcp (oneForm 8 4 0), .frcpE (eForm 8 (fld 4) (fld 0) (fld 0) 0), .frsq (oneForm 8 4 0),
  .frsqE (eForm 8 (fld 4) (fld 0) (fld 0) 0), .fsqrt (oneForm 8 4 0), .fsqrtE (eForm 8 (fld 4) (fld 0) (fld 0) 0),
  .fex2 (oneForm 8 4 0), .fex2E (eForm 8 (fld 4) (fld 0) (fld 0) 0), .flg2 (oneForm 8 4 0),
  .flg2E (eForm 8 (fld 4) (fld 0) (fld 0) 0), .fsin (oneForm 8 4 0), .fsinE (eForm 8 (fld 4) (fld 0) (fld 0) 0),
  .fcos (oneForm 8 4 0), .fcosE (eForm 8 (fld 4) (fld 0) (fld 0) 0), .fdiv (oneForm 8 4 5),
  .fdivE (eForm 8 (fld 4) (fld 5) (fld 0) 0), .idivn (oneForm 8 4 5), .idivnE (eForm 8 (fld 4) (fld 5) (fld 0) 0),
  .iremn (oneForm 8 4 5), .iremnE (eForm 8 (fld 4) (fld 5) (fld 0) 0)] :=
  runs_of _ (by decide +kernel)
theorem witness_ConversionInstructionsWriteTheirElements : Runs [
  .cvt (eForm 8 (fld 4) (fld 0) (small 0) 0), .cvtsr (eForm 8 (fld 4) (fld 5) (small 0) 0),
  .unpack (eForm 8 (fld 4) (fld 0) (small 16) 0), .pack (eForm 8 (fld 4) (fld 5) (small 1) 0)] :=
  runs_of _ (by decide +kernel)
theorem witness_LaneInstructionsShareParticipants : Runs [
  .lpoll (eForm 8 (fld 4) (fld 0) (fld 0) 0), .xor (oneForm 8 4 5), .lpeer (eForm 8 (fld 4) (fld 0) (fld 0) 0),
  .flfold (eForm 8 (fld 4) (fld 0) (fld 0) 0), .lxch (eForm 8 (fld 4) (fld 5) (fld 0) 0),
  .lfold (eForm 8 (fld 4) (fld 0) (fld 0) 0), .lpoll (eForm 2 (fld 0) (fld 0) (fld 0) 2),
  .lpoll (eForm 2 (fld 0) (fld 0) (fld 0) 4), .lpoll (eForm 8 (fld 0) (fld 0) (fld 0) 6),
  .lpeer (eForm 8 (fld 4) (fld 0) (fld 1) 2), .lpeer (eForm 8 (fld 4) (fld 0) (fld 0) 4)] :=
  runs_of _ (by decide +kernel)
theorem witness_QuantizationFollowsItsDefinitions : Runs [
  .qparam (eForm 8 (fld 4) (fld 5) (small 0) 0), .qnt (eForm 8 (fld 4) (fld 5) (small 0) 0),
  .dqnt (eForm 8 (fld 4) (fld 5) (small 0) 0), .mxexp (oneForm 8 4 0), .mxexpE (eForm 8 (fld 4) (fld 0) (fld 0) 0),
  .mxq (eForm 8 (fld 4) (fld 5) (fld 0) 0), .mxdq (eForm 8 (fld 4) (fld 5) (fld 0) 0)] :=
  runs_of _ (by decide +kernel)
theorem witness_SpecialRegistersReadAsListed : Runs [
  .fmtget (oneForm 8 0 0), .srd (oneForm 8 4 0), .srdE (eForm 8 (fld 4) (fld 0) (fld 0) 0)] :=
  runs_of _ (by decide +kernel)

/-! ## Numbers -/

/-- A value is finite, as a computation. -/
def finB : FV → Bool
  | .fin _ _ d => decide (0 < d)
  | _ => false

theorem finite_of {v : FV} (h : finB v = true) : v.IsFinite := by
  cases v <;> simp_all [finB, FV.IsFinite]

/-- 3/2 lies within FP32; 2^128 lies beyond it. -/
theorem witness_RoundingAndOverflowFollowTheGrid :
    (fp32 ∈ formats ∧ (FV.fin false 3 2).IsFinite ∧ (FV.fin false 3 2).rat ≠ 0 ∧ -fp32.largest ≤ (FV.fin false 3 2).rat ∧
      (FV.fin false 3 2).rat ≤ fp32.largest) ∧
    (2 ^ (if fp32 = e2m1 then 3 else if fp32 = e4m3 then 9 else fp32.bias + 1) * 1 ≤ 2 ^ 128) :=
  ⟨⟨by decide, finite_of rfl, by decide +kernel, by decide +kernel, by decide +kernel⟩, by decide +kernel⟩

/-- A product of 1/2 and 3 with -1; an exact zero of 1 and -1; a zero of zeros; infinity times zero; infinities. -/
theorem witness_SumsOfProductsRoundOnce :
    let x := fun (ps : List (FV × FV)) (as : List FV) => (ps.map fun p => p.1.rat * p.2.rat).sum + (as.map FV.rat).sum
    (x [(.fin false 1 2, .fin false 3 1)] [.fin true 1 1] = (FV.fin false 1 2).rat ∧ (FV.fin false 1 2).rat ≠ 0) ∧
    (x [] [.fin false 1 1, .fin true 1 1] = 0 ∧ (FV.fin false 1 1).rat ≠ 0) ∧ x [] [.fin true 0 1] = 0 ∧
    (∃ p ∈ [(FV.inf true, FV.fin false 0 1)], ∃ s z d, p = (.inf s, .fin z 0 d) ∨ p = (.fin z 0 d, .inf s)) ∧
    (FV.inf true ∈ [FV.inf true, .inf false] ∧ FV.inf false ∈ [FV.inf true, .inf false]) ∧ FV.inf false ∉ [FV.inf true] := by
  refine ⟨⟨by decide +kernel, by decide +kernel⟩, ⟨by decide +kernel, by decide +kernel⟩, by decide +kernel,
    ⟨_, List.mem_singleton.mpr rfl, true, false, 1, .inl rfl⟩, by decide, by decide⟩

/-- The encodings of 1, of infinity, of a signalling NaN and of a quiet one. -/
theorem witness_OrderAndClassOfEncodings :
    fp32 ∈ formats ∧ 0x3F800000 < 2 ^ (1 + fp32.eb + fp32.mb) ∧ 0x3F800000 / 2 ^ fp32.mb % 2 ^ fp32.eb ≠ 2 ^ fp32.eb - 1 ∧
    0x7F800000 / 2 ^ fp32.mb % 2 ^ fp32.eb = 2 ^ fp32.eb - 1 ∧ 0x7F800001 % 2 ^ fp32.mb ≠ 0 ∧
    (0x7F800001).testBit (fp32.mb - 1) = false ∧ (0x7FC00000).testBit (fp32.mb - 1) = true := by decide +kernel

/-- 1.5, a tie. -/
theorem witness_RoundingToIntegralKeepsTheSign : (fp32.value 0x3FC00000).IsFinite ∧ (fp32.value 0x3FC00000).rat = 3 / 2 :=
  ⟨finite_of (by decide +kernel), by decide +kernel⟩

/-- NaN; -2; 2 with its reciprocal; 4 with its root; 3 / 2. -/
theorem witness_SfuFunctionsFollowTheirTable :
    (fp32.value 0x7FC00000).isNan = true ∧ ((fp32.value 0xC0000000).IsFinite ∧ (fp32.value 0xC0000000).rat < 0) ∧
    ((fp32.value 0x40000000).IsFinite ∧ (FV.fin false 1 2).rat * (fp32.value 0x40000000).rat = 1) ∧
    (0 < (fp32.value 0x40800000).rat ∧ (fp32.value 0x40000000).rat * (fp32.value 0x40000000).rat = (fp32.value 0x40800000).rat) ∧
    (FV.fin false 3 2).rat * (fp32.value 0x40000000).rat = (fp32.value 0x40400000).rat := by
  exact ⟨by decide +kernel, ⟨finite_of (by decide +kernel), by decide +kernel⟩, ⟨finite_of (by decide +kernel), by decide +kernel⟩,
    by decide +kernel, by decide +kernel⟩

/-- FP16 to FP32 keeps 1; FP32 to FP16; 3 * 2^-128 between two powers; 5/2 rounds to 2. -/
theorem witness_ConversionsFollowTheirTables :
    floatOf 0 = some fp32 ∧ 0x3C00 < 2 ^ tyBits 1 ∧ (tyValue 1 0 0x3C00).isNan = false ∧ floatOf 1 = some fp16 ∧
    (((2 ^ 0 : Nat) : Rat) / ((2 ^ 127 : Nat) : Rat) < (FV.fin false 3 (2 ^ 128)).rat ∧
      (FV.fin false 3 (2 ^ 128)).rat < ((2 ^ 1 : Nat) : Rat) / ((2 ^ 127 : Nat) : Rat)) ∧
    ((2 : Rat) - (FV.fin false 5 2).rat ≤ 1 / 2 ∧ (FV.fin false 5 2).rat - 2 ≤ 1 / 2) := by
  decide +kernel


/-- Of 1 and 2 under scale 127: the span is 2, the zero point 0; 5/4 rounds to 1; 1 lies in [2^149, 2^150) of 2^-149. -/
theorem witness_QuantizationOfValues :
    (fp32.value 0x3F800000).IsFinite ∧ (fp32.value 0x3F800000).rat = 1 ∧ (fp32.value 0x40000000).rat = 2 ∧
    (FV.fin false 2 127).rat * 127 = 2 ∧ (fp16.value 0x3C00).rat = 1 ∧ (1 : Rat) - 5 / 4 ≤ 1 / 2 ∧ (5 : Rat) / 4 - 1 ≤ 1 / 2 ∧
    ((2 ^ 149 : Nat) : Rat) / ((2 ^ 149 : Nat) : Rat) ≤ 1 ∧ (1 : Rat) < ((2 ^ 150 : Nat) : Rat) / ((2 ^ 149 : Nat) : Rat) := by
  exact ⟨finite_of (by decide +kernel), by decide +kernel, by decide +kernel, by decide +kernel, by decide +kernel,
    by decide +kernel, by decide +kernel, by decide +kernel, by decide +kernel⟩

/-! ## Control flow -/

/-- Both lanes hold x, y, z. -/
def twins (x y z : Nat) : Group := { demoGroup x y z with lanes := [(0, demoThread x y z), (1, demoThread x y z)] }
/-- p0 is 1 in lane 0 alone. -/
def parted : Group := { gW with lanes := [(0, { demoThread 3 8 5 with p := 1 }), (1, demoThread 8 3 5)] }
/-- A group whose split 0 is `p`. -/
def having (g : Group) (p : Split) : Group := { g with splits := [(0, p)] }
/-- The small state with a header, a workgroup and translations of the group's launch. -/
def world (g : Group) (h : Header := { regs := 128 }) (w : Wg := demoWg) (xl : Xlat := {}) : State :=
  { demo g with wgs := [(0, w)], q := { State.reset.q with launches := [(0, { placeLaunch with hdr := h })] }, xl := xl }
/-- A group in handler mode for split 0, and its handler split, which issues. -/
def hG : Group :=
  { gW with handler := some { split := 0, lane := 0, pc := 0x10000, next := 0x10004, only := none }, splits := [(0, demoSplit), (4, demoSplit)] }
def hCur : Cur := { demoCur with split := 4 }
def hWorld (g : Group) : State := { demo g with cur := some hCur }

/-- `swr TEN` in and outside handler mode, and under a guard that no lane has; the two compare instructions of FMT. -/
theorem witness_SpecialAndFormatRegisterWrites :
    Runs [.fmtset (oneForm 0 4 0), .fmtsetI (immForm 0 0 0 8)] ∧
    (Admitted (demo gW) (.swr (oneForm 26 4 0)) demoCur gW demoSplit ∧ gW.handler = none ∧
      firstLane (.swr (oneForm 26 4 0)) gW demoSplit = some 0) ∧
    (Admitted (demo gW) (.swr { oneForm 26 4 0 with g := 0 }) demoCur gW demoSplit ∧
      firstLane (.swr { oneForm 26 4 0 with g := 0 }) gW demoSplit = none) ∧
    Admitted (hWorld hG) (.swrE (eForm 0x19 (fld 4) (fld 0) (fld 0) 0)) hCur hG demoSplit ∧ hG.handler ≠ none ∧
      firstLane (.swrE (eForm 0x19 (fld 4) (fld 0) (fld 0) 0)) hG demoSplit = some 0 :=
  ⟨runs_of _ (by decide +kernel), ⟨admitted_of (by decide +kernel), by decide +kernel, by decide +kernel⟩,
    ⟨admitted_of (by decide +kernel), by decide +kernel⟩, admitted_of (by decide +kernel), by decide +kernel, by decide +kernel⟩

/-- Transfers that need no more than a lane, the indirect ones with an address that is a multiple of 4 and one that is not. -/
theorem witness_TransfersMoveTheSplit :
    Runs [.nop (oneForm 0 0 0), .bra (immForm 0 0 0 8), .bru (immForm 0 0 0 8), .call (immForm 8 0 0 8), .brloop (immForm 8 0 0 8),
      .join (oneForm 0 0 0), .yield (oneForm 0 0 0)] ∧
    (∀ i ∈ [Instr.brx (oneForm 0 4 0), .ret (oneForm 0 4 0), .callx (oneForm 8 4 0)],
      (Admitted (demo (twins 8 0 5)) i demoCur (twins 8 0 5) demoSplit ∧ uniformA (demo (twins 8 0 5)) i (twins 8 0 5) demoSplit % 4 = 0) ∧
      Admitted (demo gW) i demoCur gW demoSplit ∧ uniformA (demo gW) i gW demoSplit % 4 ≠ 0) :=
  ⟨runs_of _ (by decide +kernel), by
    simp only [List.forall_mem_cons, List.not_mem_nil, false_imp_iff, implies_true, and_true]
    exact ⟨⟨⟨admitted_of (by decide +kernel), by decide +kernel⟩, admitted_of (by decide +kernel), by decide +kernel⟩,
      ⟨⟨admitted_of (by decide +kernel), by decide +kernel⟩, admitted_of (by decide +kernel), by decide +kernel⟩,
      ⟨admitted_of (by decide +kernel), by decide +kernel⟩, admitted_of (by decide +kernel), by decide +kernel⟩⟩

/-- `brc` on p0 with its join, and its target or another one, 8 behind. -/
def brcJoin : Instr := .brc (immForm 0 2 0 8)
def brcAway : Instr := .brc (immForm 0 2 0 0x40)
def entryAt (j : DWord) : StackEntry := { resume := 0, join := j, dmask := 0, wmask := 0, fmt := 0, deferred := false }
/-- Split 0 with a stack, or in join record 0. -/
def stacked (n : Nat) : Split := { demoSplit with stack := List.replicate n (entryAt 0x1000C) }
def chained : Split := { demoSplit with chain := some 0 }
def recordAt : JoinRecord := { j := 0x1000C, fmt := 0, members := 1, arrived := 0, wmask := 0, outer := none }
def chainedG : Group := { having parted chained with records := [(0, recordAt)] }

/-- Of the two lanes none is taken (p0 is 0), both (the condition is negated), or lane 0 alone: with the target at the
innermost join, under a stack of 8, in a record of that join with split 1 free, and with no join. -/
theorem witness_DivergenceFollowsItsTable :
    Admitted (demo gW) brcAway demoCur gW demoSplit ∧ (gW.thread 0).pred 0 = false ∧ (gW.thread 1).pred 0 = false ∧
    Admitted (demo gW) (.brc (immForm 0 2 8 0x40)) demoCur gW demoSplit ∧
    (Admitted (demo (having parted (stacked 1))) brcJoin demoCur (having parted (stacked 1)) (stacked 1) ∧
      ((having parted (stacked 1)).thread 0).pred 0 = true ∧ ((having parted (stacked 1)).thread 1).pred 0 = false ∧
      demoCur.base + (0x8 : Word).signExtend 64 = 0x1000C ∧ innermostJoin (having parted (stacked 1)) (stacked 1) = some 0x1000C) ∧
    Admitted (demo (having parted (stacked 8))) brcAway demoCur (having parted (stacked 8)) (stacked 8) ∧
    (Admitted (demo chainedG) brcAway demoCur chainedG chained ∧ chained.stack = [] ∧ FMap.find chainedG.records 0 = some recordAt ∧
      chainedG.split 1 = none) ∧
    Admitted (demo parted) brcAway demoCur parted demoSplit ∧ innermostJoin parted demoSplit = none ∧
      FMap.find parted.records 0 = none ∧ parted.split 0 ≠ none ∧ parted.split 1 = none :=
  ⟨admitted_of (by decide +kernel), by decide +kernel, by decide +kernel, admitted_of (by decide +kernel),
    ⟨admitted_of (by decide +kernel), by decide +kernel, by decide +kernel, by decide +kernel, by decide +kernel⟩,
    admitted_of (by decide +kernel),
    ⟨admitted_of (by decide +kernel), by decide +kernel, by decide +kernel, by decide +kernel⟩,
    admitted_of (by decide +kernel), by decide +kernel, by decide +kernel, by decide +kernel, by decide +kernel⟩

/-- A split with a stack, a split in a record, and a record whose members all stand there. -/
theorem witness_JoinsReuniteLanes :
    (having parted (stacked 1)).split 0 = some (stacked 1) ∧ (stacked 1).stack = [entryAt 0x1000C] ∧
    chainedG.split 0 = some chained ∧ chained.stack = [] ∧ chained.chain = some 0 ∧ FMap.find chainedG.records 0 = some recordAt ∧
    recordAt.outer = none ∧ recordAt.members.getLsbD 0 = true ∧ recordAt.members = 1 := by decide +kernel

/-- `exit` of lane 0 alone, which leaves lane 1; of both lanes where another split keeps lane 2; of both where a stack entry
resumes lane 2; and of the last lanes. -/
def threeG : Group := { gW with dead := 0xFFFFFFF8, splits := [(0, demoSplit), (1, { demoSplit with active := 4, wait := .held })] }
def resumeS : Split := { demoSplit with stack := [{ entryAt 0x1000C with dmask := 4 }] }
def resumeG : Group := { gW with dead := 0xFFFFFFF8, splits := [(0, resumeS)] }
theorem witness_ExitEndsThreads :
    (Admitted (demo parted) (.exit { oneForm 0 0 0 with g := 0 }) demoCur parted demoSplit ∧
      lanesOf (.exit { oneForm 0 0 0 with g := 0 }) parted demoSplit = [0]) ∧
    (Admitted (demo threeG) (.exit (oneForm 0 0 0)) demoCur threeG demoSplit ∧
      threeG.dead ||| 3 ≠ 0xFFFFFFFF ∧ demoSplit.active &&& ~~~3 = 0 ∧ demoSplit.stack = [] ∧ demoSplit.chain = none) ∧
    (Admitted (demo resumeG) (.exit (oneForm 0 0 0)) demoCur resumeG resumeS ∧ (4 : Mask) &&& ~~~(resumeG.dead ||| 3) ≠ 0) ∧
    Admitted (demo gW) (.exit (oneForm 0 0 0)) demoCur gW demoSplit ∧ gW.dead ||| 3 = 0xFFFFFFFF ∧ gW.held = [] ∧
      (demo gW).fly.pmmas = [] :=
  ⟨⟨admitted_of (by decide +kernel), by decide +kernel⟩,
    ⟨admitted_of (by decide +kernel), by decide +kernel, by decide +kernel, by decide +kernel, by decide +kernel⟩,
    ⟨admitted_of (by decide +kernel), by decide +kernel⟩,
    admitted_of (by decide +kernel), by decide +kernel, by decide +kernel, by decide +kernel⟩

/-- `gang` of 0 (v4 of lane 0), of two groups where one is the limit, of another group, and in a mixed group; `rset`. -/
def mixedG : Group := { gW with lanes := [(0, demoThread 0 8 5), (1, { demoThread 8 3 5 with wg := 1 })] }
def gangI : Instr := .gang (eForm 0 (fld 4) (fld 0) (fld 0) 0)
theorem witness_GangAndRotatingBase :
    (Admitted (demo (twins 0 8 5)) gangI demoCur (twins 0 8 5) demoSplit ∧ uniformA (demo (twins 0 8 5)) gangI (twins 0 8 5) demoSplit = 0 ∧
      FMap.risingFrom 0 (twins 0 8 5).lanes = true) ∧
    (Admitted (demo gW) gangI demoCur gW demoSplit ∧ uniformA (demo gW) gangI gW demoSplit = 3 ∧ ((demo gW).hdr gW).gangMax = 1) ∧
    (Admitted (demo (twins 2 8 5)) gangI demoCur (twins 2 8 5) demoSplit ∧ (2#32).getLsbD (twins 2 8 5).wgpos = false) ∧
    (Admitted (demo mixedG) gangI demoCur mixedG demoSplit ∧ (mixedG.thread 0).wg ≠ (mixedG.thread 1).wg) ∧
    Runs [.rset (eForm 0 (fld 4) (fld 0) (fld 0) 0)] :=
  ⟨⟨admitted_of (by decide +kernel), by decide +kernel, by decide +kernel⟩,
    ⟨admitted_of (by decide +kernel), by decide +kernel, by decide +kernel⟩, ⟨admitted_of (by decide +kernel), by decide +kernel⟩,
    ⟨admitted_of (by decide +kernel), by decide +kernel⟩, runs_of _ (by decide +kernel)⟩

/-! ## Regroup and traps -/

/-- A group that waits at the barrier with one register, and another that does not. -/
def waitsG : Group :=
  having gW { demoSplit with wait := .regroup 1 [(0, 0), (1, 0)] 0 0, resume := some 0x10008 }
def besideG : Group := { gW with wgpos := 1 }
def twoGroups (a b : Group) : State := { demo a with cores := [(0, { groups := [(0, a), (1, b)], tracks := [(0, { issuing := some (0, 0) })] })] }
def regroupI : Instr := .regroup (eForm 0 (fld 4) (small 1) (fld 0) 0)
theorem witness_RegroupWaitsForItsParticipants :
    (Admitted (world gW { regs := 8 }) (.regroup (eForm 0 (fld 4) (small 16) (fld 0) 0)) demoCur gW demoSplit ∧
      firstLane (.regroup (eForm 0 (fld 4) (small 16) (fld 0) 0)) gW demoSplit = (activeLanes gW demoSplit).head?) ∧
    (Admitted (twoGroups gW besideG) regroupI demoCur gW demoSplit ∧
      (1, besideG) ∈ (twoGroups gW besideG).participants 0 ((twoGroups gW besideG).regroupKey gW) ∧ arrivalOf (1, besideG) = none) ∧
    (demo waitsG).participants 0 (0, none) = [(0, waitsG)] ∧ (arrivalOf (0, waitsG)).isSome = true ∧
      ((demo waitsG).core 0).shuffles = [] ∧ waitsG.splits.length = 1 ∧ waitsG.rrb = 0 ∧ waitsG.tok = [] :=
  ⟨⟨admitted_of (by decide +kernel), by decide +kernel⟩, ⟨admitted_of (by decide +kernel), by decide +kernel, by decide +kernel⟩,
    by decide +kernel, by decide +kernel, by decide +kernel, by decide +kernel, by decide +kernel, by decide +kernel⟩

/-- A shuffle of that group that has ended. -/
def shuffled : State :=
  { demo waitsG with cores := [(0, { groups := [(0, waitsG)], shuffles := [{ launch := 0, node := none, due := 0 }] })] }
theorem witness_ShufflePacksAndCarries :
    (shuffled.core 0).shuffles = [{ launch := 0, node := none, due := 0 }] ∧ 0 ≤ shuffled.clk.clock ∧
    FMap.risingFrom 0 (shuffled.core 0).groups = true ∧
    shuffled.regroupSettled 0 ((shuffled.participants 0 (0, none)).filterMap arrivalOf) = true ∧
    (shuffled.participants 0 (0, none)).filterMap arrivalOf ≠ [] := by decide +kernel

/-- Split 0 of a group with and without a handler address, and of a group in handler mode. -/
theorem witness_TakingAnExceptionSavesItsRecord :
    (demo gW).group 0 0 = some gW ∧ gW.split 0 = some demoSplit ∧ gW.handler = none ∧ ((demo gW).hdr gW).handler = 0 ∧
    ((world gW { regs := 128, handler := 0x400 }).hdr gW).handler ≠ 0 ∧ (demo hG).group 0 0 = some hG ∧ hG.handler ≠ none := by
  decide +kernel

/-- A queue of 16 slots at 0x1000, empty and full. -/
def queueAt (head : Word) : State := { demo gW with fq := { base := 0x1000, size := 16, head := head } }
theorem witness_KillsAndEventsArePosted :
    (demo gW).group 0 0 = some gW ∧ (demo gW).fq.base = 0 ∧
    (16#32 &&& (16#32 - 1) = 0 ∧ (queueAt 0).fq.head - (queueAt 0).fq.tail ≠ (queueAt 0).fq.size ∧
      (queueAt 0).fq.base.toNat + 32 * (queueAt 0).fq.size.toNat ≤ 2 ^ 40) ∧
    (queueAt 16).fq.head - (queueAt 16).fq.tail = (queueAt 16).fq.size := by decide +kernel

/-- `trap` with and without a lane; `tfence` with no flag enabled, with one, and with a result pending; `sigchk`. -/
def armedG : Group := { gW with flags := 1, ten := 1 }
def pendingSfu : SfuRes := { id := 5, core := 0, gid := 0, splits := 1, lane := 0, reg := 8, value := 7, flags := 0, due := 12 }
def sfuWorld : State := { demo gW with fly := { sfu := [pendingSfu] } }
def sigCheck : Instr := .sigchk (immForm 0 0 0 8)
theorem witness_TrapInstructionsRaise :
    Runs [.trap (immForm 0 0 0 8), .bpt (oneForm 0 0 0), .tfence (oneForm 0 0 0), sigCheck] ∧
    (Admitted (demo gW) (.trap { immForm 0 0 0 8 with g := 0 }) demoCur gW demoSplit ∧
      lanesOf (.trap { immForm 0 0 0 8 with g := 0 }) gW demoSplit = []) ∧
    gW.flags &&& gW.ten &&& 0x7FF = 0 ∧ (demo gW).fly.sfu = [] ∧
    (Admitted (demo armedG) (.tfence (oneForm 0 0 0)) demoCur armedG demoSplit ∧ armedG.flags &&& armedG.ten &&& 0x7FF ≠ 0) ∧
    Admitted sfuWorld (.tfence (oneForm 0 0 0)) demoCur gW demoSplit ∧ demoSplit.issued = false ∧
    ((demo gW).hdr gW).sigMode = false ∧
    Admitted (world gW { regs := 128, sigMode := true }) sigCheck demoCur gW demoSplit ∧ demoSplit.sig ≠ 8 :=
  ⟨runs_of _ (by decide +kernel), ⟨admitted_of (by decide +kernel), by decide +kernel⟩, by decide +kernel, by decide +kernel,
    ⟨admitted_of (by decide +kernel), by decide +kernel⟩, admitted_of (by decide +kernel), by decide +kernel, by decide +kernel,
    admitted_of (by decide +kernel), by decide +kernel⟩

/-- The three returns, with an exit mask of 0 from h of lane 0's v6, which is taken out of both lanes. -/
def hReturn : Group :=
  { hG with lanes := [(0, demoThread 0 8 5), (1, demoThread 8 3 5)] }
theorem witness_ReturnFromExceptionRestores :
    (∀ i ∈ [Instr.rteSkip (eForm 0 (fld 4) (fld 0) (fld 0) 1), .rteRetry (eForm 0 (fld 4) (fld 0) (fld 0) 0),
        .rteEnd (eForm 0 (fld 4) (fld 0) (fld 0) 2)],
      admits (hWorld hReturn) i hCur hReturn demoSplit = true ∧
      word (laneIn ((hWorld hReturn).hdr hReturn) hReturn i {} 0).a &&& demoSplit.active &&& ~~~hReturn.dead = 0) ∧
    hReturn.split 0 = some demoSplit ∧ demoSplit.active &&& ~~~0 ≠ 0 ∧ hReturn.dead ||| 0 ≠ 0xFFFFFFFF ∧ hReturn.records = [] ∧
    (hWorld hReturn).fly.pmmas = [] := by decide +kernel

/-- `lget` and `lset` of lane 1, of a dead lane (v5 of lane 0 is 8), and of a lane with the register empty. -/
def elected : Split := { demoSplit with active := 1 }
def hLane (l : Nat) (e : BitVec 128) : Group :=
  { hG with lanes := [(0, demoThread 3 l 5), (1, { demoThread 8 3 5 with empty := e })], splits := [(0, demoSplit), (4, elected)] }
def lgetI : Instr := .lget (eForm 8 (fld 4) (fld 5) (fld 0) 0)
def lsetI : Instr := .lset (eForm 8 (fld 4) (fld 5) (fld 0) 0)
theorem witness_LaneRegistersOfTheHandler :
    ∀ i ∈ [lgetI, lsetI], (∀ g ∈ [hLane 1 0, hLane 8 0, hLane 1 0x110],
      admits (hWorld g) i hCur g elected = true ∧ firstLane i g elected = some 0) ∧
      (hLane 1 0).dead.getLsbD 1 = false ∧ ((hLane 1 0).thread 1).isEmpty 4 = false ∧ ((hLane 1 0).thread 1).isEmpty 8 = false ∧
      (hLane 8 0).dead.getLsbD 8 = true ∧
      ((hLane 1 0x110).thread 1).isEmpty 4 = true ∧ ((hLane 1 0x110).thread 1).isEmpty 8 = true := by decide +kernel

/-! ## Memory -/

/-- Both lanes address 0x20000, on a page with the leaf entry `pte`. -/
def memG : Group := twins 0x20000 0 5
def pageAt (pte : DWord) : TlbEntry := { level := 0, unit := 0, ctx := 0, vpn := 0x20, pages := 1, pte := pte }
def memW (pte : DWord) : State := world memG { regs := 128 } demoWg { tlb := [pageAt pte] }
/-- Translated. -/
def isOk (r : Tr × Option TlbEntry) : Bool := match r.1 with | .ok _ _ => true | _ => false
/-- What `IssuesRequest` asks for of the small state: every lane's address is a multiple of `n` and is translated. -/
def issues (pte : DWord) (off : Int) (n : Nat) (a : Access) (i : Instr) : Bool :=
  admits (memW pte) i demoCur memG demoSplit && accessLanes i memG demoSplit == [0, 1] && (memW pte).slotsFree 0 2 && [0, 1].all fun l =>
    (addressOf (memW pte) i memG (fun _ => off) l).toNat % n == 0 &&
      isOk ((memW pte).translate 0 0 (addressOf (memW pte) i memG (fun _ => off) l) a)

/-- 0x47 is valid, writable, executable and dirty; 0x57 is a reduction page as well. -/
theorem witness_GlobalAccessesIssueOneRequest :
    (issues 0x20047 0 4 .load (.ld (oneForm 8 4 0)) && issues 0x20047 8 4 .load (.ldI (immForm 8 4 0x28 8)) &&
      issues 0x20047 8 4 .load (.ldAcq (immForm 8 4 0x28 8)) && issues 0x20047 0 4 .store (.st (oneForm 8 4 0)) &&
      issues 0x20047 8 4 .store (.stI (immForm 8 4 0x28 8)) && issues 0x20047 8 4 .store (.stRel (immForm 8 4 0x28 8)) &&
      issues 0x20047 0 4 .load (.ldx (eForm 8 (fld 4) (fld 5) (fld 0) 0)) &&
      issues 0x20047 0 4 .rmw (.atom (eForm 8 (fld 4) (fld 5) (small 0) 0)) &&
      issues 0x20047 0 4 .rmw (.cas (eForm 8 (fld 4) (fld 5) (fld 6) 0)) &&
      issues 0x20047 0 4 .red (.red (eForm 0 (fld 4) (fld 5) (small 0) 0)) &&
      issues 0x20057 0 64 .redx (.redx (eForm 0 (fld 4) (fld 5) (fld 0) 0)) &&
      issues 0x20057 0 64 .lineRead (.rdx (eForm 8 (fld 4) (fld 0) (fld 0) 0)) &&
      issues 0x20057 0 64 .clrx (.clrx (oneForm 0 4 0)) &&
      issues 0x20057 0 64 .clrx (.clrxE (eForm 0 (fld 4) (fld 0) (fld 0) 0))) = true := by decide +kernel

/-- An address that is no multiple of 4; a page that grants no writing; a clean page. -/
theorem witness_MemoryFaultsAreTakenByStage :
    (let s := world (twins 0x20001 0 5) { regs := 128 } demoWg { tlb := [pageAt 0x20047] }
     admits s (.ld (oneForm 8 4 0)) demoCur (twins 0x20001 0 5) demoSplit = true ∧
     (addressOf s (.ld (oneForm 8 4 0)) (twins 0x20001 0 5) (fun _ => 0) 0).toNat % 4 ≠ 0) ∧
    (admits (memW 0x20001) (.st (oneForm 8 4 0)) demoCur memG demoSplit = true ∧
      ((memW 0x20001).translate 0 0 0x20000 .store).1 = .trap 0x08 2) ∧
    demoSplit.only = none ∧ (memW 0x20007).slotsFree 0 2 = true ∧
    admits (memW 0x20007) (.st (oneForm 8 4 0)) demoCur memG demoSplit = true ∧
      ((memW 0x20007).translate 0 0 0x20000 .store).1 = .light := by decide +kernel

/-- One lane (p0) whose offset, v4, lies in a window of 1024 bytes in pan 0, beyond it, or at no multiple of 4. -/
def scrG (o : Nat) : Group := { parted with lanes := [(0, { demoThread o 3 5 with p := 1 }), (1, demoThread 8 3 5)] }
def panWg : Wg := { demoWg with storage := [0], compute := [1] }
def panHdr : Header := { regs := 128, scratch := 1024, cpans := 1 }
def scrW (o : Nat) : State := world (scrG o) panHdr panWg
def inLane0 (f : Form1) : Form1 := { f with g := 0 }
def inLane0I (f : FormI) : FormI := { f with g := 0 }
def inLane0E (f : FormE) : FormE := { f with g := 0 }
theorem witness_ScratchAccessesAreMadeInTheirCycles :
    (∀ i ∈ [Instr.lds (inLane0 (oneForm 8 4 0)), .ldsI (inLane0I (immForm 8 4 0 8)), .sts (inLane0 (oneForm 8 4 0)),
        .stsI (inLane0I (immForm 8 4 0 8)), .atoms (inLane0E (eForm 8 (fld 4) (fld 5) (small 0) 0)),
        .cass (inLane0E (eForm 8 (fld 4) (fld 5) (fld 6) 0))],
      (∀ o ∈ [64, 2048, 65], admits (scrW o) i demoCur (scrG o) demoSplit = true ∧ accessLanes i (scrG o) demoSplit = [0]) ∧
      (laneIn ((scrW 64).hdr (scrG 64)) (scrG 64) i {} 0).a = 64) ∧
    (scrW 64).wg ((scrG 64).thread 0).wg = some panWg ∧ panWg.storage[64 / 16384]? = some 0 ∧ 64 + 4 ≤ panHdr.scratch ∧
    ((scrW 64).core 0).badRows = [] ∧ (scrW 64).fly.reqs = [] ∧ (scrW 64).slotsFree 0 1 = true := by decide +kernel

theorem witness_NoByteIsProtected (k : Nat) (b : Byte) : (scrW 64).protectedByte panWg panHdr (64 + k) b = false := by
  have h : ∀ i, (scrW 64).computeState panWg i = 0 := by
    intro i
    match i with
    | 0 => decide +kernel
    | n + 1 => rfl
  unfold State.protectedByte
  split
  · simp [h]
  · rfl

/-- Twelve operations on 32 bits; 1, infinity and a NaN on a reduction line. -/
theorem witness_AtomicsAndReductionLines :
    0 < 32 ∧ 11 < 12 ∧ (∀ v ∈ [0x3F800000, 0x7F800000, 0x7FC00000], v < 2 ^ (1 + fp32.eb + fp32.mb)) ∧
    fp32.value 0x7F800000 = .inf false ∧ fp32.value 0x7FC00000 = .nan false ∧ finB (fp32.value 0x3F800000) = true ∧
    (FV.fin false 1 1).rat = (fp32.value 0x3F800000).rat := by decide +kernel

/-- A request of lane 0 of the small state's group at 0x20000. -/
def accAt : Acc := { lane := 0, va := 0x20000, pa := 0x20000, n := 4, bytes := [(0, 1), (1, 2), (2, 3), (3, 4)] }
def reqOf (k : ReqKind) (dst : List (Nat × List Nat × Nat)) : Req :=
  { id := 7, kind := k, ctx := 0, core := 0, gid := 0, launch := 0, split := 0, splits := 1, order := 0, scope := 5, accs := [accAt],
    dst := dst }
def flying (r : Req) : State := { demo gW with fly := { reqs := [r] } }
def loadR : Req := reqOf .load [(0, [8], 0)]
def parkAt (due : Bool) : Park :=
  { id := 9, who := .split 0 0 0 .instruction 1, ctx := 0, pages := [(0x20000, 2, true)], core := 0, due := due }
def parkedW (due : Bool) : State :=
  { demo (having gW { demoSplit with wait := .parked 9 }) with fly := { parks := [parkAt due] } }
theorem witness_RequestsArePerformed :
    ((flying loadR).req 7 = some loadR ∧ (flying loadR).canArrive loadR = true ∧ (flying loadR).badLine (0x20000 / 64) = false ∧
      (loadR.dst.map (·.1)).Nodup ∧ (flying loadR).group 0 0 = some gW ∧ gW.dead.getLsbD 0 = false) ∧
    (flying (reqOf .load [])).canArrive (reqOf .load []) = false ∧
    (∀ k ∈ [ReqKind.store, .atom 0, .cas, .red 0, .redx, .clrx], (flying (reqOf k [])).mayPerform (reqOf k []) accAt = true ∧
      (flying (reqOf k [])).lostStack 0x20000 = false ∧ (flying (reqOf k [])).waitsFrame 7 0 = false ∧
      ((flying (reqOf k [])).cowAt ((flying (reqOf k [])).gen.genAt ((flying (reqOf k [])).unitsOf (reqOf k []) accAt)) (0x20000 / 4096)
        false).isSome = true) ∧ (accAt.bytes.map (·.1)).Nodup ∧
    ({ flying loadR with gen := { copyWait := [{ who := .req 7 0, page := 0x20 }] } } : State).waitsFrame 7 0 = true ∧
    (sfuWorld.fly.sfu.find? (fun x => x.id = 5) = some pendingSfu ∧ sfuWorld.clk.clock < pendingSfu.due ∧
      (sfuWorld.die 0).fenced = false) ∧
    ((parkedW true).fly.parks.find? (fun x => x.id = 9) = some (parkAt true) ∧ (parkAt false).due = false ∧ gW.handler = none) := by
  decide +kernel

/-- A window that holds a copy descriptor at offset 64: one byte from 0x100 to 0x200, within the window. -/
def copyBytes : List Byte := [2, 0, 0, 0, 1, 0, 0, 0, 1, 0, 1, 0, 0, 0, 0, 0, 0, 1, 0, 0, 0, 0, 0, 0, 0, 0, 0, 0, 0, 0, 0, 0,
  0, 2, 0, 0, 0, 0, 0, 0, 0, 0, 0, 0, 0, 0, 0, 0, 255, 0, 0, 0, 0, 0, 0, 0, 0, 0, 0, 0, 0, 0, 0, 0]
def copyG (o : Nat) : Group := twins o 0 5
def panW (g : Group) (pslu : DWord) (bytes : List Byte) : State :=
  { world g panHdr panWg with
    cores := [(0, { groups := [(0, g)], tracks := [(0, { issuing := some (0, 0) })], pslu := pslu,
                    pans := (List.zip (List.range 64) bytes).filterMap fun e => if e.2 = 0 then none else some (64 + e.1, e.2) })] }
noncomputable def bcopyI : Instr := .bcopy (eForm 0 (fld 4) (fld 0) (fld 0) 0)
def heldG : Group := { gW with held := [{ tok := 0, code := 8, detail := 2, info := 0 }] }
noncomputable def fenceI : Instr := .fence (eForm 0 (fld 0) (fld 0) (fld 0) 0x2C)
theorem witness_CopiesFencesAndPrefetches :
    copyBytes.length = 64 ∧ (copyDesc copyBytes).legal 1 = true ∧ (copyDesc copyBytes).aligned = true ∧
    inOneRow panHdr (copyDesc copyBytes).srcExtent = true ∧ inOneRow panHdr (copyDesc copyBytes).dstExtent = true ∧
    bytesAt ((panW (copyG 64) 0 copyBytes).core 0).pans 64 64 = copyBytes ∧
    (∀ o ∈ [64, 65, 1024], admits (panW (copyG o) 0 copyBytes) bcopyI demoCur (copyG o) demoSplit = true ∧
      uniformA (panW (copyG o) 0 copyBytes) bcopyI (copyG o) demoSplit = o) ∧
    (panW (copyG 64) 0 copyBytes).wg (wgOf (copyG 64) demoSplit) = some panWg ∧
    (∀ g ∈ [gW, { gW with tok := [(0, 1)] }, heldG], admits (demo g) (.bwait (eForm 0 (fld 0) (fld 0) (fld 0) 0)) demoCur g demoSplit = true) ∧
    heldG.held.find? (fun y => y.tok = 0) = some { tok := 0, code := 8, detail := 2, info := 0 } ∧
    admits (demo gW) fenceI demoCur gW demoSplit = true ∧ (demo gW).fly.reqs = [] ∧
    admits (flying loadR) fenceI demoCur gW demoSplit = true ∧ loadR.splits.getLsbD 0 = true ∧ accAt.performed = false ∧
    admits (demo gW) (.pref (eForm 0 (fld 4) (fld 5) (fld 0) 0x20)) demoCur gW demoSplit = true := by decide +kernel

/-- That copy in flight; and one from an address that translation refuses. -/
def copyOfW (dir : Nat) : Copy :=
  { id := 3, ctx := 0, core := 0, gid := 0, tok := 0, scope := 5, srcWg := 0, dstWg := some 0, dir := dir, esz := 0, tr := 0, x := 1,
    y := 1, z := 1, src := 0x100, srow := 0, splane := 0, dst := 0x200, drow := 0, dplane := 0, refused := [], after := [] }
def copying (dir : Nat) : State :=
  { world gW panHdr panWg { tlb := [{ pageAt 0x10009 with vpn := 0 }] } with fly := { copies := [copyOfW dir] } }
theorem witness_CopiesMoveTheirBox :
    (copying 2).copyOf 3 = some (copyOfW 2) ∧ (copying 2).copyReady (copyOfW 2) = true ∧ (copying 2).wg 0 = some panWg ∧
    ((copying 2).launch 0).isSome = true ∧ (copying 2).group 0 0 = some gW ∧ panWg.storage.Nodup ∧ panHdr.scratch ≤ 16384 * 1 ∧
    ((copying 2).core 0).badRows = [] ∧ 0x100 + 1 + 64 ≤ panHdr.scratch ∧ 0x200 + 1 + 64 ≤ panHdr.scratch ∧
    ((copying 0).translate 0 0 0x100 .load).1 = .trap 0x08 2 ∧
    { copying 2 with fly := { copies := [{ copyOfW 2 with after := [7] }], reqs := [loadR] } }.copyReady { copyOfW 2 with after := [7] } = false := by
  decide +kernel

/-- A granule of 64 KiB at 0x20000 that is mapped, a start that is no multiple, a length of 0, and a full table. -/
def sealG (a n : Nat) : Group :=
  { gW with lanes := [(0, { v := [(4, BitVec.ofNat 32 a), (6, BitVec.ofNat 32 n)] }), (1, { v := [(4, BitVec.ofNat 32 a), (6, BitVec.ofNat 32 n)] })] }
def sealW (a n : Nat) (seals : FMap SealEntry) : State :=
  world (sealG a n) { regs := 128 } demoWg { tlb := [{ pageAt 0x20047 with pages := 512 }], seals := seals }
theorem witness_SealingFollowsItsRange :
    ∀ i ∈ [Instr.seal (eForm 0 (fld 4) (fld 6) (fld 0) 0), .unseal (eForm 0 (fld 4) (fld 6) (fld 0) 0)],
      (∀ e ∈ [(0x20000, 0x10000), (0x20001, 0x10000), (0x20000, 0)],
        admits (sealW e.1 e.2 []) i demoCur (sealG e.1 e.2) demoSplit = true ∧ firstLane i (sealG e.1 e.2) demoSplit = some 0 ∧
        uniformA (sealW e.1 e.2 []) i (sealG e.1 e.2) demoSplit = e.1 ∧
        (laneIn ((sealW e.1 e.2 []).hdr (sealG e.1 e.2)) (sealG e.1 e.2) i {} 0).b = e.2) ∧
      ((List.range 16).all fun n => isOk ((sealW 0x20000 0x10000 []).translate 0 0 (dword (0x20000 + 4096 * n)) .granule)) = true ∧
      (sealTable [] 0 0x20000 0x10000).length ≤ 256 ∧
      256 < (sealTable ((List.range 256).map fun k => (k, { ctx := 0, start := dword (0x100000 + 0x20000 * k), granules := 1 })) 0 0x20000
        0x10000).length := by decide +kernel

/-! ## Pans -/

/-- The small state with a window of `h.scratch` bytes in pan 0, compute pan 1, the pans' states, their bytes, and ATTR. -/
def panS (g : Group) (pslu : DWord) (cells : FMap Byte) (attr : FMap Byte := []) (h : Header := panHdr) : State :=
  { world g h { panWg with attr := attr, storage := if h.scratch = 0 then [] else [0] } with
    cores := [(0, { groups := [(0, g)], tracks := [(0, { issuing := some (0, 0) })], pslu := pslu, pans := cells })] }
/-- What `InWorkgroup` asks for, as a computation. -/
def inWgB (s : State) (c : Cur) (g : Group) (p : Split) (w : Wg) : Bool :=
  g.mixed == false && s.wg (wgOf g p) == some w && w.core == c.core && decide ((s.hdr g).scratch ≤ 16384 * w.storage.length) &&
    decide ((s.hdr g).scratch % 64 = 0) && decide ((s.hdr g).cpans ≤ w.compute.length) &&
    decide ((w.storage ++ w.compute).Nodup ∧ ∀ q ∈ w.storage ++ w.compute, q < 32)

theorem inWorkgroup_of {s : State} {c : Cur} {g : Group} {p : Split} {w : Wg} (h : inWgB s c g p w = true) : InWorkgroup s c g p w := by
  simp only [inWgB, Bool.and_eq_true, beq_iff_eq, decide_eq_true_eq] at h
  obtain ⟨⟨⟨⟨⟨⟨h1, h2⟩, h3⟩, h4⟩, h5⟩, h6⟩, h7⟩ := h
  exact ⟨h1, h2, h3, h4, h5, h6, h7⟩

/-- The instruction is admitted there, and its lowest lane executes it. -/
def panned (s : State) (g : Group) (i : Instr) : Bool :=
  admits s i demoCur g demoSplit && firstLane i g demoSplit == some 0 &&
    (match s.wg 0 with | some w => inWgB s demoCur g demoSplit w | none => false)
def noScratch : Header := { regs := 128, cpans := 1 }
noncomputable def toCompute : Instr := .pmodeCompute (eForm 0 (fld 4) (fld 0) (fld 0) 1)
noncomputable def toStorage : Instr := .pmodeStorage (eForm 0 (fld 4) (fld 0) (fld 0) 0)
noncomputable def attrI (ix : Nat) : Instr := .pcfgAttr (eForm 0 (fld 4) (small ix) (fld 0) 0)
noncomputable def setI : Instr := .pcfgSet (eForm 0 (fld 4) (small 1) (fld 0) 1)
noncomputable def bindI : Instr := .scbind (eForm 0 (fld 4) (fld 5) (fld 6) 0)

theorem witness_PanInstructionsAreMixed :
    ∀ i ∈ [toCompute, toStorage, attrI 0, setI, bindI, .sluice (oneForm 0 0 0), .pmma (eForm 8 (fld 4) (fld 5) (fld 0) 0),
        .pfence (oneForm 0 0 0), .pwait (eForm 0 (fld 0) (fld 0) (fld 0) 0), .pswap (oneForm 0 0 0),
        .pqueryState (eForm 8 (fld 0) (fld 0) (fld 0) 0)],
      admits (demo mixedG) i demoCur mixedG demoSplit = true ∧ mixedG.mixed = true ∧ 0xC0 ≤ i.info.op ∧ i.info.op ≤ 0xC8 ∧
      (activeLanes mixedG demoSplit).head? = some 0 := by decide +kernel

/-- `pmode`: of pan 2, of which there is none; of pan 1 on its way the other way; with 28 pans in compute mode; and as it may. -/
theorem witness_PanModesAreChecked :
    (panned (panS (twins 2 0 5) 0 []) (twins 2 0 5) toCompute && panned (panS (twins 1 0 5) 12 []) (twins 1 0 5) toCompute &&
      panned (panS (twins 1 0 5) 8 []) (twins 1 0 5) toStorage && panned (panS (twins 1 0 5) 0 []) (twins 1 0 5) toCompute &&
      panned (panS (twins 1 0 5) 4 []) (twins 1 0 5) toStorage && panned (panS (twins 1 0 5) 0x5555555555555500 []) (twins 1 0 5) toCompute) = true ∧
    uniformA (panS (twins 2 0 5) 0 []) toCompute (twins 2 0 5) demoSplit = 2 ∧
    (panS (twins 1 0 5) 12 []).stateOf panWg 0 = 3 ∧ (panS (twins 1 0 5) 8 []).stateOf panWg 0 = 2 ∧
    (panS (twins 1 0 5) 0 []).stateOf panWg 0 = 0 ∧ (panS (twins 1 0 5) 4 []).stateOf panWg 0 = 1 ∧
    ((List.range 32).filter fun q => 0x5555555555555500 / 4 ^ q % 4 == 1).length = 28 := by decide +kernel

/-- `pcfg`, `scbind`, `pswap`, `pquery`, `pfence`, `pwait`: operands that each check turns away, and operands that pass. -/
theorem witness_PanInstructionsAreChecked :
    (panned (panS gW 0 []) gW (attrI 1) && panned (panS (twins 64 0 5) 0 []) (twins 64 0 5) (attrI 0) &&
      panned (panS (twins 0 0 5) 4 [] [(0, 1)]) (twins 0 0 5) (attrI 0) && panned (panS (twins 0 0 5) 0 [] [] noScratch) (twins 0 0 5) (attrI 0) &&
      panned (panS (twins 0 0 5) 0 []) (twins 0 0 5) (attrI 0)) = true ∧
    (panned (panS (twins 0 0 5) 0 []) (twins 0 0 5) setI && panned (panS (twins 0xFFFFFF01 0xFFFFFFFF 5) 0 []) (twins 0xFFFFFF01 0xFFFFFFFF 5) setI &&
      panned (panS (twins 0xFFFFFF00 0xFFFFFFFF 5) 0 [] [] noScratch) (twins 0xFFFFFF00 0xFFFFFFFF 5) setI &&
      panned (panS (twins 0xFFFFFF00 0xFFFFFFFF 5) 0 []) (twins 0xFFFFFF00 0xFFFFFFFF 5) setI) = true ∧
    uniformA (panS (twins 0xFFFFFF00 0xFFFFFFFF 5) 0 []) setI (twins 0xFFFFFF00 0xFFFFFFFF 5) demoSplit = 0xFFFFFFFFFFFFFF00 ∧
    ([(64, 0, 64), (65, 1, 64), (64, 1, 65), (64, 1, 1024), (64, 1, 64)].all fun e =>
      let g := twins e.1 e.2.1 e.2.2
      panned (panS g 0 []) g bindI && uniformIn (panS g 0 []) bindI g demoSplit ==
        { uniformIn (panS g 0 []) bindI g demoSplit with a := e.1 + 2 ^ 32 * e.2.1, b := e.2.1, c := e.2.2 }) = true ∧
    (panned (panS gW 0 [] [] noScratch) gW (.pswap (oneForm 0 0 0)) && panned (panS gW 0 []) gW (.pswap (oneForm 0 0 0)) &&
      panned (panS gW 0 []) gW (.pqueryState (eForm 8 (fld 0) (fld 0) (fld 0) 0)) &&
      panned (panS gW 0 []) gW (.pqueryBusy (eForm 8 (fld 0) (fld 0) (fld 0) 1)) &&
      panned (panS gW 0 []) gW (.pqueryPart (eForm 8 (fld 0) (fld 0) (fld 0) 2)) && panned (panS gW 0 []) gW (.pfence (oneForm 0 0 0)) &&
      panned { panS gW 0 [] with fly := { reqs := [loadR] } } gW (.pfence (oneForm 0 0 0)) &&
      panned (panS gW 0 []) gW (.pwait (eForm 0 (fld 0) (fld 0) (fld 0) 0)) &&
      panned (panS { gW with tok := [(0, 1)] } 0 []) { gW with tok := [(0, 1)] } (.pwait (eForm 0 (fld 0) (fld 0) (fld 0) 0))) = true ∧
    (panS gW 0 []).fly.reqs = [] := by decide +kernel

/-- 16 of 32 bit lines under one sub-conversion; a window of zero codes; finite scales. -/
theorem witness_ChargeArithmeticIsExact :
    32 ∈ [32, 64, 128, 256] ∧ 1 ∈ [1, 2, 4, 8] ∧ 16 ≤ 32 ∧ segOf 0 ≤ 128 ∧ 32 % segOf 0 = 0 ∧
    finB (FV.fin false 1 1) = true ∧ finB (fp32.value (0x3F800000 : Word).toNat) = true ∧
    (FV.fin false 3 1).rat = (3 : Int) * (FV.fin false 1 1).rat * (2 : Rat) ^ (0 : Int) * (fp32.value (0x3F800000 : Word).toNat).rat := by
  decide +kernel

/-- A descriptor of one row of 32 activations, for 16 elements; its set is pan 1 alone. -/
def descBytes (ncol : Byte) : List Byte :=
  [0, 0, 0, 0, 1, 0, 1, 0, 1, 0, 32, 0, 1, 1, 1, 1, 1, 1, 0, 0, 1, 0, 1, 0, 0, 0, 0, 0, 32, 0, 0, 0,
    0, 0, 0, 0, 0, 0, 0, 0, 0, 0, 2, 0, 0, 0, 0, 0, ncol, 0, 0, 0, 0, 0, 0, 0, 0, 0, 0, 0, 0, 0, 0, 0]
def descCells (bs : List Byte) : FMap Byte :=
  ((List.zip (List.range 64) bs).filterMap fun e => if e.2 = 0 then none else some (64 + e.1, e.2)) ++
    [(993, 255), (994, 255), (995, 255), (996, 255), (997, 255), (998, 255), (999, 255)]
noncomputable def pmmaI : Instr := .pmma (eForm 8 (fld 4) (fld 5) (fld 0) 0)
/-- FMT 0x300: 8-bit codes and no scale table. -/
def plainFmt : Split := { demoSplit with fmt := 0x300 }
def pmmaG (o : Nat) : Group := having (twins o 0 5) plainFmt
def pmmaW (o : Nat) (pslu : DWord) (bs : List Byte) : State := panS (pmmaG o) pslu (descCells bs) [(0, 0)]
def gangG : Group := { pmmaG 64 with gang := 1 }
theorem witness_PmmaIssues :
    (∀ o ∈ [64, 65, 1024], admits (pmmaW o 4 []) pmmaI demoCur (pmmaG o) plainFmt = true) ∧
    inWgB (pmmaW 64 4 (descBytes 16)) demoCur (pmmaG 64) plainFmt { panWg with attr := [(0, 0)] } = true ∧ fmtBad 0x300 = false ∧ fmtBad 0xF = true ∧
    (pmmaG 64).splits.length = 1 ∧
    (pmmaW 64 4 []).stateOf panWg 0 = 1 ∧ (pmmaW 64 0 []).stateOf panWg 0 = 0 ∧ wfOf 0x300 = 0 ∧
    ((List.range 8).map fun k => ((pmmaW 64 4 []).windowByte panWg (1024 - 64 + 32 + k)).toNat) = [0, 255, 255, 255, 255, 255, 255, 255] ∧
    ((List.range 64).map fun k => (pmmaW 64 4 (descBytes 16)).windowByte panWg (64 + k)) = descBytes 16 := by decide +kernel
theorem witness_PmmaFits :
    (unfoldOf (descBytes 16)).legal 0x300 16 1 = true ∧ (unfoldOf (descBytes 16)).legal 0x800 16 1 = false ∧
    (∀ o ∈ (unfoldOf (descBytes 16)).reads 0x300 [0], o < 1024) ∧
    lanesOf pmmaI (pmmaG 64) { plainFmt with active := 1 } = [0] := by decide +kernel
theorem witness_PmmaWaitsInAGang : admits (panS gangG 4 []) pmmaI demoCur gangG plainFmt = true ∧ gangG.gang ≠ 0 := by
  decide +kernel

/-- A sluice that has ended; a latch at which its only member stands; a `pmma` that misses a scale block, one that has ended, a
mirrored one; and a group that drains. -/
def rowAt : PmmaRow := { row := 0, gid := 0, lane := 0, rho := 0x3F800000, regs := [8], acc := [0] }
def pmmaOf (fmt : Word) (mir : Bool) : Pmma :=
  { id := 4, ctx := 0, core := 0, wg := 0, members := [(0, 0)], rows := [rowAt], fmt := fmt, n := 16, desc := descBytes 16, set := [1],
    halves := 1, mirrored := mir, at_ := 0, pos := 0, due := some 0 }
def pmmaFly (fmt : Word) (mir : Bool) : State :=
  { panS gW 4 [] [(0, 0)] with fly := { pmmas := [pmmaOf fmt mir] }, xl := { tlb := [pageAt 0x20047] } }
def sluiceG : Group := having gW { demoSplit with wait := .sluice 0 0, resume := some 0x10008 }
def sluiceW : State := let s := panS sluiceG 8 []; { s with wgs := [(0, { panWg with attr := [(0, 0)], sluiceAt := some 0 })] }
def ticketAt : Ticket := { a := 64, md := .direct, xd := 8, slot := 0, nsel := 0, tok := 0, rows := [{ lane := 0, rho := 0, regs := [8] }], w0 := 0, w1 := 0, uv := 0, uni := true }
def latchG : Group := { having (twins 64 0 5) { plainFmt with wait := .latch ticketAt, resume := some 0x10008 } with gang := 1 }
def drainG : Group := { gW with phase := .draining, dead := 0xFFFFFFFF }
theorem witness_PanOperationsRunToCompletion :
    panned (panS gW 0 []) gW (.sluice (oneForm 0 0 0)) = true ∧
    ((sluiceW.wg 0).bind (·.sluiceAt) = some 0 ∧ 0 ≤ sluiceW.clk.clock ∧ panWg.compute.Nodup ∧ (sluiceW.core 0).badRows = [] ∧
      sluiceG.lowWg = 0 ∧ sluiceW.stateOf panWg 0 = 2) ∧
    (let s := panS latchG 4 (descCells (descBytes 16)) [(0, 0)]
     s.group 0 0 = some latchG ∧ s.latchReady 0 0 = true ∧ (memberOf (0, latchG)).isSome = true ∧
     (s.wg 0).isSome = true ∧
     (match s.wg 0, memberOf (0, latchG) with | some w, some m => s.pmmaCheck w panHdr m [0] == none | _, _ => false) = true) ∧
    ((pmmaFly 0 false).pmmaOf 4 = some (pmmaOf 0 false) ∧ (pmmaFly 0 false).missing (pmmaOf 0 false) = [0] ∧
      (pmmaFly 0 false).fillParked 4 0 = false ∧ (pmmaOf 0 false).blockAddr 0 = 0x20000 ∧
      isOk ((pmmaFly 0 false).translate 0 0 0x20000 .load) = true ∧ (pmmaFly 0 false).served (0x20000 / 64) false = true ∧
      (pmmaFly 0 false).homeReads 0 (0x20000 / 64) = true ∧
      (pmmaFly 0 false).scaleBlock (pmmaOf 0 false) 0 = none) ∧
    (pmmaFly 0x300 false).pmmaDone (pmmaOf 0x300 false) 0 = true ∧ (pmmaFly 0 false).pmmaDone (pmmaOf 0 false) 0 = false ∧
    rowAt.regs.Nodup ∧ rowAt.acc.length = rowAt.regs.length ∧ (pmmaOf 0x300 true).mirrored = true ∧
    (demo drainG).group 0 0 = some drainG ∧ drainG.phase = .draining ∧ (demo drainG).fly.pmmas = [] := by
  decide +kernel

/-! ## Barriers, queues and generations -/

/-- The small state with a launch of its own, and parts of the device. -/
def launched (g : Group) (x : Launch) (w : Wg := demoWg) : State :=
  { demo g with wgs := [(0, w)], q := { State.reset.q with launches := [(0, x)] } }
def stepL : Launch := { placeLaunch with lr := { placeLaunch.lr with sscope := 5 }, ssCount := [(0, 32)] }
def ready (s : State) (g : Group) (i : Instr) : Bool := admits s i demoCur g demoSplit && firstLane i g demoSplit == some 0
noncomputable def barI : Instr := .bar (eForm 0 (fld 4) (fld 0) (fld 0) 0)
noncomputable def baraI : Instr := .bara (eForm 0 (fld 4) (fld 0) (fld 0) 0)
noncomputable def sstepI : Instr := .sstep (eForm 0 (fld 0) (fld 0) (fld 0) 0x50)
noncomputable def evsigI : Instr := .evsig (eForm 0 (fld 4) (fld 5) (fld 0) 0x50)
noncomputable def evwaitI : Instr := .evwait (eForm 0 (fld 4) (fld 6) (fld 0) 0x50)

/-- Barrier 3 of 4 and of 1; supersteps of scope 5 and of none, not ready and ready; a counter at 0x20000, and one that is
crooked, refused, or on a reduction page. -/
theorem witness_BarriersAndEventCounters :
    (ready (world gW { regs := 128, barriers := 4 }) gW barI && ready (world gW { regs := 128, barriers := 4 }) gW baraI &&
      ready (world gW { regs := 128, barriers := 1 }) gW barI && ready (world gW { regs := 128, barriers := 1 }) gW baraI &&
      ready (launched gW placeLaunch) gW sstepI && ready (launched gW stepL) gW sstepI) = true ∧
    uniformA (world gW { regs := 128, barriers := 4 }) barI gW demoSplit = 3 ∧ gW.held = [] ∧ demoWg.node = none ∧
    (launched gW stepL).stepReady 0 0 = true ∧ (launched gW placeLaunch).stepReady 0 0 = false ∧
    (∀ i ∈ [evsigI, evwaitI], ready (memW 0x20047) memG i = true ∧ uniformA (memW 0x20047) i memG demoSplit = 0x20000 ∧
      ready (world (twins 0x20004 0 5) { regs := 128 } demoWg { tlb := [pageAt 0x20047] }) (twins 0x20004 0 5) i = true ∧
      ready (memW 0x20057) memG i = true ∧ ready (memW 0x20001) memG evsigI = true ∧ ready (memW 0x20009) memG evwaitI = true) ∧
    ((memW 0x20047).translate 0 0 0x20000 .add).1 = .ok 0x20000 0x20047 ∧ ((memW 0x20047).translate 0 0 0x20000 .load).1 = .ok 0x20000 0x20047 ∧
    ((memW 0x20001).translate 0 0 0x20000 .add).1 = .trap 0x08 2 ∧ ((memW 0x20009).translate 0 0 0x20000 .load).1 = .trap 0x08 2 ∧
    ((memW 0x20057).translate 0 0 0x20000 .load).1 = .ok 0x20000 0x20057 := by decide +kernel

/-- A split that waits for the counter to reach 1. -/
def eventG : Group := having gW { demoSplit with wait := .event 0x20000 1 5, resume := some 0x10008 }
/-- Node 0 has records of `n` bytes; the workgroup is of node 0. -/
def nodeL (n wait : Nat) : Launch := { placeLaunch with hdr := { panHdr with scratch := 2 ^ 30 }, nodeTab := [{ entry := 0x400, recSize := n, batch := 1, maxWait := wait }] }
def nodeWg : Wg := { panWg with node := some { node := 0, team := 0, seq := 0, count := 1 }, storage := List.range 16 }
noncomputable def enqI : Instr := .enq (eForm 0 (fld 4) (fld 5) (fld 0) 0)
noncomputable def deqI : Instr := .deq (eForm 8 (fld 4) (fld 5) (fld 0) 0)
def nodeFifo : Fifo := { team := 0, launch := 0, node := 0, recs := [{ bytes := [1, 2, 3, 4, 5, 6, 7, 8], entered := 0 }] }
def fifoW (g : Group) (n wait : Nat) : State :=
  let s := launched g (nodeL n wait) nodeWg
  { s with q := { s.q with fifos := [nodeFifo], transit := [{ id := 3, team := 0, launch := 0, node := 0, recs := [{ bytes := [1], entered := 0 }] }] } }
def smallNode (g : Group) : State := launched g { nodeL 8 100 with hdr := panHdr } { panWg with node := nodeWg.node }

theorem witness_BarriersQueuesAndEventCounters :
    (demo eventG).group 0 0 = some eventG ∧ (demo eventG).fly.reqs = [] ∧ (demo eventG).isDevice 0x20000 = true ∧
    (demo eventG).homeReads 0 (0x20000 / 64) = true ∧
    (ready (launched (twins 64 1 5) (nodeL 8 100) nodeWg) (twins 64 1 5) enqI && ready (smallNode (twins 64 0 5)) (twins 64 0 5) enqI &&
      ready (launched (twins 64 0 5) (nodeL (2 ^ 29) 100) nodeWg) (twins 64 0 5) enqI) = true ∧
    (smallNode (twins 64 0 5)).nodeEntry 0 1 = none ∧ ((smallNode (twins 64 0 5)).nodeEntry 0 0).isSome = true ∧
    fitsFree [2 ^ 29, 2 ^ 29] ((launched (twins 64 0 5) (nodeL (2 ^ 29) 100) nodeWg).queueFree 0 0) = false ∧
    fitsFree [8, 8] ((smallNode (twins 64 0 5)).queueFree 0 0) = true ∧
    (ready (smallNode (twins 64 0 5)) (twins 64 0 5) deqI && ready (smallNode (twins 64 1 5)) (twins 64 1 5) deqI &&
      ready (smallNode (twins 65 1 5)) (twins 65 1 5) deqI && ready (smallNode (twins 2048 1 5)) (twins 2048 1 5) deqI &&
      ready (launched (twins 64 1 5) (nodeL 8 100) panWg) (twins 64 1 5) deqI) = true ∧
    (uniformIn (smallNode (twins 64 1 5)) deqI (twins 64 1 5) demoSplit).b = 1 ∧ 64 + 1 * 8 + 64 ≤ panHdr.scratch ∧
    (fifoW gW 8 100).q.fifo 0 0 0 = some nodeFifo ∧ nodeFifo.recs.head? ≠ none ∧ (fifoW gW 8 100).clk.clock < 0 + 100 ∧
    ((fifoW gW 8 0).nodeEntry 0 0).map (·.maxWait) = some 0 ∧ (fifoW gW 8 0).clk.clock < (fifoW gW 8 0).q.exchangeAt ∧
    (fifoW gW 8 0).q.transit ≠ [] ∧ State.reset.q.transit = [] := by decide +kernel

/-- `launch` of a record at 0x20000 with its device ring closed, and with a ring of 16 entries at 0x3000; of a crooked one. -/
noncomputable def launchI : Instr := .launch (eForm 8 (fld 4) (fld 0) (fld 0) 0)
def ringW : State :=
  let s := memW 0x20047
  { s with q := { s.q with rings := [(0, { dbase := 0x3000, dsize := 16 })] } }
theorem witness_LaunchInstruction :
    (ready (memW 0x20047) memG launchI && ready ringW memG launchI &&
      ready (world (twins 0x20004 0 5) { regs := 128 } demoWg { tlb := [pageAt 0x20047] }) (twins 0x20004 0 5) launchI) = true ∧
    ((memW 0x20047).translate 0 0 0x20000 .rmw).1 = .ok 0x20000 0x20047 ∧ (ringW.translate 0 0 0x20000 .rmw).1 = .ok 0x20000 0x20047 ∧
    ringW.byte 0x20002 = 0 ∧ (ringW.ring 0).dbase = 0x3000 ∧ ringSizeOk (ringW.ring 0).dsize 16 65536 = true ∧
    (ringW.ring 0).dwptr - (ringW.ring 0).drptr ≠ (ringW.ring 0).dsize ∧ ((memW 0x20047).ring 0).dbase = 0 ∧
    ringW.served (0x20000 / 64) false = true ∧ ringW.badLine (0x20000 / 64) = false := by decide +kernel

def snapBytes : List Byte := 1 :: List.replicate 63 0
def snapRec : GenRec :=
  { gen := 1, ctx := 0, va := 0x20000, status := 1, abandon := false, incr := false, autodrop := false, baseGen := 0, rbase := 0, rlen := 0,
    dest := 0, index := 0, event := 0, drained := 0 }
def drainRec : Drain := { gen := 1, left0 := [5], left1 := [], included := [5] }
/-- The context may snap; a descriptor lies at 0x20000; generation 1 is retained and drains page 5. -/
def snapW (g : Group) (may : DWord) (gen : Gens) : State :=
  { world g { regs := 128 } demoWg { tlb := [pageAt 0x20047, { pageAt 0x20047 with unit := 0xFFFF }] } with
    mem := [(0x20000, 1)], gen := { gen with snapCtx := may } }
def retains : Gens := { cur := 2, base := 1, retained := [snapRec], drains := [drainRec] }
def snapG : Group := having gW { demoSplit with wait := .snap 0x20000 snapBytes [(0, 8)], resume := some 0x10008 }
noncomputable def snapI : Instr := .snap (oneForm 8 4 0)
noncomputable def snapdropI : Instr := .snapdrop (oneForm 8 4 0)
/-- A page in the TLB decides an access made without a group, whatever memory holds. -/
theorem translate_ofPage (u : State) (va : DWord) (k : Access) (tlb : List TlbEntry) (hx : u.xl = { tlb := tlb })
    (hk : k = .store ∨ k = .add) (hc : canonical va = true)
    (hf : tlb.find? (·.serves 0xFFFF 0 va) = some { pageAt 0x20047 with unit := 0xFFFF })
    (hp : (0x20000 + va.toNat % 4096) < 2 ^ 40) :
    (u.translate 0xFFFF 0 va k).1 = .ok (0x20000 + va.toNat % 4096) 0x20047 := by
  have ht : u.target (0x20000 + va.toNat % 4096) = .device (0x20000 + va.toNat % 4096) := by
    have h0 : (0x20000 + va.toNat % 4096) / 2 ^ 48 = 0 := Nat.div_eq_of_lt (by omega)
    have h1 : (0x20000 + va.toNat % 4096) / 4096 = 0x20 := by omega
    unfold State.target
    rw [h0]
    exact if_pos ⟨hp, by rw [h1]; decide⟩
  have hpf : pteFrame 0x20047 = 0x20000 := by decide +kernel
  have b1 : pteBit 0x20047 1 = true := by decide +kernel
  have b3 : pteBit 0x20047 3 = false := by decide +kernel
  have b4 : pteBit 0x20047 4 = false := by decide +kernel
  have b6 : pteBit 0x20047 6 = true := by decide +kernel
  have hs : u.sealed 0 va = false := by unfold State.sealed; rw [hx]; rfl
  have ht' : u.target (0x20000 + va.toNat % (4096 * 1)) = .device (0x20000 + va.toNat % 4096) := ht
  unfold State.translate State.permit
  rw [hx]
  simp only [hc, hf, pageAt, hpf, State.isDevice, State.memKey, ht', hs, b1, b3, b4, b6]
  rcases hk with rfl | rfl <;> rfl
theorem witness_Groupless (hit : Nat → Prop) (g : Group) (may : DWord) (gen : Gens) (k : Access) (hk : k = .store ∨ k = .add) :
    ∀ o ∈ [0, 4, 8, 0x30], (snapW g may gen).GrouplessAt hit 0 (0x20000 + dword o) k (0x20000 + o) := by
  intro o ho u hx hd _ _
  have at0 : ∀ n ∈ [0, 4, 8, 0x30], canonical (0x20000 + dword n) = true ∧
      [pageAt 0x20047, { pageAt 0x20047 with unit := 0xFFFF }].find? (·.serves 0xFFFF 0 (0x20000 + dword n)) =
        some { pageAt 0x20047 with unit := 0xFFFF } ∧ (0x20000 + dword n).toNat % 4096 = n := by
    decide +kernel
  obtain ⟨hc, hf, he⟩ := at0 o ho
  refine ⟨0x20047, ?_⟩
  rw [translate_ofPage u _ k _ hx hk hc hf (by omega), he]
theorem witness_GenerationsFollowTheirRules :
    (ready (snapW memG 1 {}) memG snapI && ready (snapW memG 0 {}) memG snapI && ready (snapW memG 1 {}) memG snapdropI &&
      ready (snapW memG 0 {}) memG snapdropI && ready (snapW (twins 0x20004 0 5) 1 {}) (twins 0x20004 0 5) snapI &&
      ready (snapW (twins 1 0 5) 1 retains) (twins 1 0 5) snapdropI) = true ∧
    (1 : DWord).getLsbD memG.ctx = true ∧ (0 : DWord).getLsbD memG.ctx = false ∧
    uniformA (snapW memG 1 {}) snapI memG demoSplit = 0x20000 ∧ (snapW memG 1 {}).read 0x20000 64 = snapBytes ∧
    ((snapW memG 1 {}).translate 0 0 0x20000 .load).1 = .ok 0x20000 0x20047 ∧ (snapW memG 1 {}).served (0x20000 / 64) false = true ∧
    (snapW snapG 1 {}).group 0 0 = some snapG ∧ (snapW snapG 1 {}).writeWaits 0 0x20000 none = false ∧
    (snapW snapG 1 {}).gen.cur ≠ 0xFFFFFFFF ∧ uniformA (snapW (twins 1 0 5) 1 retains) snapdropI (twins 1 0 5) demoSplit = 1 ∧
    (snapW gW 1 retains).gen.retained.find? (fun r => r.gen == 1) = some snapRec ∧
    (drainRec ∈ retains.drains ∧ drainRec.left0 = [5] ∧ snapRec ∈ retains.retained ∧ retains.drains.find? (fun d => d.gen == 1) = some drainRec) ∧
    ({ drainRec with left0 := [] } : Drain).left0 = [] ∧ (snapW gW 1 retains).writeWaits 0 (0x20000 + 0x30) none = false := by decide +kernel
theorem witness_GenerationsFollowTheirRules_noneRetained :
    let s := snapW gW 1 { retains with retained := [] }
    s.gen.base < s.gen.cur ∧ (∀ r ∈ s.gen.retained, r.gen ≠ s.gen.base) ∧ (s.gen.tag.map (·.1)).Nodup := by decide +kernel

/-! ## Tables, launches and the device's own events -/

/-- A system context: the context table at 0x1000 marks context 0 valid and a system context. -/
def sysW (g : Group) (xl : Xlat) : State :=
  { world g { regs := 128 } demoWg { xl with ctxBase := 0x1000 } with mem := [(0x1008, 3)] }
noncomputable def tableIs : List Instr :=
  [.tlbinvRange (eForm 0 (fld 4) (fld 5) (fld 6) 0x50), .tlbinvCtx (eForm 0 (fld 0) (fld 0) (fld 6) 0x51), .tlbinvAll (eForm 0 (fld 0) (fld 0) (fld 0) 0x52),
   .biassetHost (eForm 8 (fld 4) (fld 5) (fld 0) 1), .biassetDev (eForm 8 (fld 4) (fld 5) (fld 0) 0), .migack (oneForm 8 4 5)]
theorem witness_TablesAndCounters :
    (∀ i ∈ tableIs, ready (demo gW) gW i = true ∧ ready (sysW gW {}) gW i = true) ∧ (demo gW).xl.ctxBase = 0 ∧ (sysW gW {}).xl.ctxBase ≠ 0 ∧
    ((sysW gW {}).readN (0x1000 + 8) 4).testBit 0 = true ∧ ((sysW gW {}).readN (0x1000 + 8) 4).testBit 1 = true ∧ (sysW gW {}).fly.reqs = [] ∧
    demoSplit.only = none ∧
    (∀ e ∈ [((0x20000, 16, 5), 5), ((0, 16, 64), 64), ((0x20000, 0x7000000, 5), 5)],
      let g := twins e.1.1 e.1.2.1 e.1.2.2
      ready (sysW g {}) g (.tlbinvRange (eForm 0 (fld 4) (fld 5) (fld 6) 0x50)) = true ∧
      (uniformIn (sysW g {}) (.tlbinvRange (eForm 0 (fld 4) (fld 5) (fld 6) 0x50)) g demoSplit).c = e.2) ∧
    (∀ e ∈ [(0x20000, 2), (0x20001, 2), (0x20000, 65537)],
      let g := twins e.1 0 5
      let h : Group := { g with lanes := [(0, { v := [(4, BitVec.ofNat 32 e.1), (6, BitVec.ofNat 32 e.2)] }), (1, {})] }
      ready (sysW h {}) h (.biassetHost (eForm 8 (fld 4) (fld 6) (fld 0) 1)) = true ∧
      (uniformIn (sysW h {}) (.biassetHost (eForm 8 (fld 4) (fld 6) (fld 0) 1)) h demoSplit).b = e.2) ∧
    uniformA (sysW gW {}) (.migack (oneForm 8 4 5)) gW demoSplit = 3 ∧ uniformA (sysW (twins 8 1 5) {}) (.migack (oneForm 8 4 5)) (twins 8 1 5) demoSplit = 8 ∧
    (∀ i ∈ [Instr.pmcRd (eForm 8 (small 1) (fld 0) (fld 0) 0), .pmcSel (eForm 0 (small 1) (fld 6) (fld 0) 1), .pmcClr (eForm 0 (small 1) (fld 0) (fld 0) 2)],
      ready (demo gW) gW i = true ∧
      ready { demo gW with cores := [(0, { groups := [(0, gW)], tracks := [(0, { issuing := some (0, 0) })], pmcCtx := 1 })] } gW i = true) ∧
    State.reset.cust.attach.getLsbD State.reset.cust.owner = true ∧ State.reset.cust.attach.getLsbD 4 = true ∧ 4 ≠ State.reset.cust.owner ∧
    State.reset.cust.attach.getLsbD 1 = false ∧ State.reset.xl.splStat.getLsbD 31 = false := by decide +kernel

end Sys2Proof.Tests
end

