-- ==== Sys2Proof/Tests/Events.lean ====
section
/-! SUPPORT. As Witness.lean, for the statements about the device's own events and about the whole machine: concrete states
that meet their hypotheses (`witness_<statement>`). -/

namespace Sys2Proof.Tests
open Sys2Proof Sys2Proof.Machine

-- Each test asks the kernel about everything before it: one after another, they need no thread each.
set_option Elab.async false

/-! ## The whole machine -/

/-- `nop`, placed where the next step fetches it. -/
def placed : State := State.reset.withFetchWord 32 0x001C0000
/-- The words decode to the instruction. -/
def gives {e : Type} (r : Except e Instr) (i : Instr) : Bool := match r with | .ok j => j == i | .error _ => false
def issuesFirst (s : State) : Bool := match s.issueTurns.head? with | some (.issue 0 0 0) => true | _ => false
noncomputable def nopI : Instr := .nop (oneForm 0 0 0)
def placeSplit : Split := { pc := 0x10004, active := 1, clause := some { header := 0x10000, left := 15, cls := 0 } }

theorem witness_RegisterInstructionsRaiseTheirFlagsAlone : Runs [.iaddc (eForm 8 (fld 4) (fld 5) (fld 0) 0), .movi (immForm 8 0 0 8)] ∧
    (worksOnRegisters (.iaddc (eForm 8 (fld 4) (fld 5) (fld 0) 0)) && worksOnRegisters (.movi (immForm 8 0 0 8))) = true :=
  ⟨runs_of _ (by decide +kernel), by decide +kernel⟩
theorem witness_DecodingInvertsEncoding : nopI.isCode = true ∧ nopI.wf = true ∧ gives (decodeList [0x001C0000]) nopI = true := by decide +kernel
/-- A short word; a long pair at the same place; and a compact pair of a launch with a dictionary of one entry. -/
def placedLong : State := State.reset.withFetchWord 64 (0x451C001E + 2 ^ 32 * 0x08000400)
def compact : Word := 0x80000000 ||| 0x400E
def placedCompact : State :=
  let s := State.reset.withFetchWord 32 compact.toNat
  { s with q := { s.q with launches := [(0, { placeLaunch with dict := [(0x451C001E, 0x08000400)] })] } }
/-- The instruction cache does not hold the block. -/
def unheld (s : State) : State := s.updCore 0 fun k => { k with icache := [] }
theorem witness_AStepRunsTheDecodedInstruction :
    (∀ s ∈ [placed, placedLong, placedCompact], s.agenda = [] ∧ s.turns = [] ∧ issuesFirst s = true ∧
      s.group 0 0 = some placeGroup ∧ placeGroup.split 0 = some placeSplit ∧ placeSplit.clause.isSome = true ∧
      (s.translate 0 0 0x10004 .fetch).1 = .ok 0x10004 0x10047 ∧ 0x10004 / 128 ∈ (s.core 0).icache) ∧
    (let s := unheld placed; 0x10004 / 128 ∉ (s.core 0).icache ∧ s.isDevice 0x10004 = true ∧ s.badLine (0x10004 / 64) = false ∧
      s.homeReads 0 (0x10004 / 64) = true) ∧
    word (placed.readN 0x10004 4) = 0x001C0000 ∧ gives (decodeWords 0x001C0000 0) nopI = true ∧
    word (placedLong.readN 0x10004 4) = 0x451C001E ∧ (placedLong.translate 0 0 0x10008 .fetch).1 = .ok 0x10008 0x10047 ∧
    word (placedLong.readN 0x10008 4) = 0x08000400 ∧
    gives (decodeWords 0x451C001E 0x08000400) (.iaddc (eForm 8 (fld 0) (fld 4) (fld 0) 0x1E)) = true ∧
    word (placedCompact.readN 0x10004 4) = compact ∧ compact.extractLsb' 30 2 = 2 ∧ (compact.extractLsb' 0 15).getLsbD 14 = true ∧
    (compact.extractLsb' 0 15).getLsbD 0 = false ∧ compact.extractLsb' 15 15 = 0 ∧ (compact.extractLsb' 1 3).toNat = 7 ∧
    (compact.extractLsb' 4 10).toNat = 0 := by decide +kernel
/-- A step from a state in canonical form. -/
theorem witness_EveryStepKeepsMemoryCanonical : Memory.wf placed.mem = true ∧
    (match step placed with | .next _ => true | _ => false) = true := by decide +kernel

/-! ## A context with page tables -/

/-- Bytes from an address on, as memory lists them. -/
def cells (a : Nat) (bs : List Byte) : FMap Byte :=
  (List.zip (List.range bs.length) bs).filterMap fun e => if e.2 = 0 then none else some (a + e.1, e.2)
/-- The context table at 0x1000, the five tables of context 0, and the page 0x20000 under the entry `pte`. -/
def tables (pte : Nat) : FMap Byte :=
  cells 0x1000 (toBytes 8 0x2000 ++ toBytes 8 1) ++ cells 0x2000 (toBytes 8 0x3001) ++ cells 0x3000 (toBytes 8 0x4001) ++
    cells 0x4000 (toBytes 8 0x5001) ++ cells 0x5000 (toBytes 8 0x6001) ++ cells 0x6100 (toBytes 8 pte)
/-- A ring entry at 0x7000 for the record at 0x8000; a kernel header at 0x20000. -/
def recordBytes : List Byte :=
  toBytes 2 1 ++ toBytes 1 3 ++ toBytes 5 0 ++ toBytes 8 0x20000 ++ toBytes 4 1 ++ toBytes 4 1 ++ toBytes 4 1 ++ toBytes 2 1 ++ toBytes 1 1
def headerBytes : List Byte := toBytes 2 1 ++ toBytes 2 0x4E58 ++ toBytes 4 0 ++ toBytes 1 1 ++ toBytes 9 0 ++ toBytes 1 1 ++ toBytes 1 1
def mapped (pte : Nat) (more : FMap Byte) : State := { State.reset with mem := tables pte ++ more, xl := { ctxBase := 0x1000 } }
def ring3 : Ring := { obase := 0x7000, osize := 16, owptr := 1 }
def bootW (rb : List Byte) : State :=
  { mapped 0x20047 (cells 0x7000 (toBytes 8 0x8000) ++ cells 0x8000 rb ++ cells 0x20000 headerBytes) with
    q := { rings := [(3, ring3)] } }
def bootY : LaunchRec := launchRec ((bootW recordBytes).read 0x8000 128)
def accepts (r : Verdict) : Bool := match r with | .good h dict nodes => dict.isEmpty && nodes.isEmpty && fitsEmpty bootY h nodes | _ => false

/-! ## Launches -/

def launchW (x : Launch) (more : State) : State := { more with q := { more.q with launches := [(0, x)] } }
def pendingL (n : Option Nat) : Launch := { placeLaunch with st := .pending n }
def depL (n : DWord) : Launch := { pendingL none with lr := { placeLaunch.lr with deps := [(0x20000, n)] } }
def nodeDone (b : Bool) : Launch := { placeLaunch with hdr := { regs := 128, nodes := 0x20000 }, quiesced := b }
def oneUnit : WaitUnit := { launch := 0, die := 0, wgs := [(0, 0)], since := 0 }
def unitW (y : Bool) : State :=
  let s := launchW placeLaunch State.reset
  { s with q := { s.q with waiting := [oneUnit] }, cores := [(0, { yreqV := y })] }
def batchFifo (n : Nat) : Fifo := { nodeFifo with recs := List.replicate n { bytes := [1, 2, 3, 4, 5, 6, 7, 8], entered := 0 } }
def batchW (n : Nat) : State :=
  let s := launchW { nodeL 8 100 with hdr := { panHdr with scratch := 64 } } State.reset
  { s with q := { s.q with fifos := [batchFifo n] } }
def wgW (w : Wg) (g : Group) : State := { demo g with wgs := [(0, w)] }
/-- The owners of a core's pans are slots, 0xFE and 0xFF: none is set. -/
def ownersLegal (s : State) : Bool := (List.range 32).all fun p => decide ((s.core 0).owner p < 0x80) || (s.core 0).owner p == 0xFE || (s.core 0).owner p == 0xFF
def fits (s : State) (h : Header) (groups : Nat) : Bool :=
  let here := s.wgs.filter fun e => e.2.core = 0
  !s.regrouping 0 (0, none) && !s.coh.quar.getLsbD 0 && decide (here.length < 128) && decide ((here.map fun e => (s.launchHdr e.2.launch).barriers).sum + h.barriers ≤ 256) &&
    decide ((s.core 0).ownedPans + ((h.scratch + 16383) / 16384 + h.cpans) + Nat.max (s.l1Target 0) h.lpans ≤ 32) &&
    (assignTracks h.groupBytes groups (s.loads 0)).isSome
/-- A split before the clause header `w` at 0x20000. -/
def before (w : Nat) (wait : Wait) (at_ : Nat) : State :=
  let p : Split := { pc := 0x20000, active := 1, wait := wait }
  let g : Group := { placeGroup with splits := [(0, p)] }
  { mapped 0x20047 (cells 0x20000 (toBytes 4 w)) with
    cores := [(0, { groups := [(0, { g with tok := [(0, at_)] })] })], wgs := [(0, demoWg)], q := { launches := [(0, placeLaunch)] } }

theorem witness_LaunchesArePlacedAndScheduled :
    (ring3.obase ≠ 0 ∧ ringSizeOk ring3.osize 16 65536 = true ∧ ring3.owptr ≠ ring3.orptr ∧
      (∀ d ∈ [4, 5, 6, 7], ((bootW recordBytes).ring d) = {}) ∧ (bootW recordBytes).ring 3 = ring3 ∧ (bootW recordBytes).q.launches = [] ∧
      (bootW recordBytes).readN 0x7000 8 = 0x8000 ∧ (bootW recordBytes).target 0x8000 = .device 0x8000 ∧
      (bootW recordBytes).badLine (0x8000 / 64) = false ∧ (bootW recordBytes).badLine (0x8000 / 64 + 1) = false ∧
      ((bootW recordBytes).readN (0x1000 + 8) 4).testBit 0 = true ∧ bootY.legal 3 true = true ∧ bootY.deps = [] ∧ bootY.done = 0 ∧
      accepts ((bootW recordBytes).readKernel bootY).1 = true ∧
      (launchRec ((bootW (toBytes 2 2)).read 0x8000 128)).legal 3 true = false) ∧
    ((pendingL (some 5)).st = .pending (some 5) ∧ ((launchW (pendingL (some 5)) State.reset).q.launches.map (·.1)).Nodup) ∧
    ((depL 1).st = .pending none ∧ (launchW (depL 1) (mapped 0x20047 [(0x20000, 1)])).fly.parks = [] ∧
      ((launchW (depL 1) (mapped 0x20047 [(0x20000, 1)])).translate 0xFFFF 0 0x20000 .load).1 = .ok 0x20000 0x20047 ∧
      (launchW (depL 1) (mapped 0x20047 [(0x20000, 1)])).badLine (0x20000 / 64) = false ∧
      (mapped 0x20047 [(0x20000, 1)]).readN 0x20000 8 = 1) ∧
    ((nodeDone false).hdr.nodes ≠ 0 ∧ (nodeDone true).quiesced = true ∧ (nodeDone false).gridLeft = 0 ∧ (nodeDone false).away = [] ∧
      (launchW (nodeDone false) State.reset).wgs = [] ∧ (launchW (nodeDone false) State.reset).q.fifos = []) ∧
    ((unitW false).q.waiting[0]? = some oneUnit ∧ ownersLegal (unitW false) = true ∧ fits (unitW false) placeLaunch.hdr 1 = true ∧
      (unitW true).fitsCore 0 (0, none) placeLaunch 1 = false) ∧
    ({ demoWg with zeroing := some 3 } : Wg).zeroing = some 3 ∧
    ((batchW 1).q.fifo 0 0 0 = some (batchFifo 1) ∧ ((batchW 1).nodeEntry 0 0).map (·.batch) = some 1 ∧ ownersLegal (batchW 1) = true ∧
      fits (batchW 1) { panHdr with scratch := 64 } 1 = true ∧ (batchFifo 0).recs = []) ∧
    ((wgW demoWg { gW with lanes := [] }).liveOf 0 = 0 ∧ (wgW demoWg gW).liveOf 0 ≠ 0 ∧
      (((wgW demoWg { gW with lanes := [] }).core 0).pown.map (·.1)).Nodup) ∧
    (((before 0xC4000000 .ready 0).translate 0 0 0x20000 .fetch).1 = .ok 0x20000 0x20047 ∧
      word ((before 0xC4000000 .ready 0).readN 0x20000 4) = 0xC4000000 ∧ (0xC4000000#32).extractLsb' 30 2 = 3 ∧
      (0xC4000000#32).extractLsb' 26 4 ≠ 0 ∧ (0xC4000000#32).extractLsb' 23 3 ≠ 7 ∧ (0xC4000000#32).extractLsb' 0 8 = 0 ∧
      (before 0xC4000000 .ready 0).badLine (0x20000 / 64) = false ∧ ((before 0xC4000000 .ready 0).track 0 0).issuing = none ∧
      (0xC4008000#32).getLsbD 15 = true ∧ word ((before 0xC4008000 .held 1).readN 0x20000 4) = 0xC4008000) := by decide +kernel

/-! ## Pre-emption and kills -/

def coreW (k : CoreSt) (s : State) : State := { s with cores := [(0, k)] }
/-- A unit of one group of one workgroup is kept, and its image lies at 0x100000. -/
def keptGroup : SavedGroup := { gid := 0, key := 129, group := placeGroup, forced := false, set := (0, none) }
def keptWg : SavedWg := { key := 0, wg := demoWg, images := [], saved := 0, mode := 0, live := 1 }
def keptImage : KeptImage := { base := 0x100000, core := 0, clock := 0, ctx := 0, groups := [keptGroup], wgs := [keptWg], offs := [0x1000] }
def keptW : State :=
  { launchW placeLaunch State.reset with
    mem := cells 0x100000 (toBytes 2 1 ++ toBytes 2 0x4349) ++ cells 0x100020 (toBytes 4 1) ++ cells 0x100038 (toBytes 8 0x2000 ++ toBytes 8 0x3000) ++ cells 0x10008A (toBytes 1 1 ++ toBytes 1 1), kept := [keptImage] }
def fenceW (s : State) : State := s.updDie 0 fun d => { d with fenced := true }
def killW (l : Launch) (g : Group) : State :=
  { launchW l State.reset with cores := [(0, { groups := [(0, g), (1, { gW with ctx := 1 })] })], killing := [5] }

theorem witness_PreemptionAndKills :
    ((0x100000 : DWord).toNat / 4096 * 4096 + 2 ^ 20 ≤ 2 ^ 40 ∧ (0x100000 : DWord).toNat % 2 ^ 36 + 2 ^ 20 ≤ 2 ^ 36 - 2 ^ 22 ∧
      (coreW { saveBase := 0x100000 } State.reset).core 0 = { saveBase := 0x100000 } ∧ (State.reset.core 0).yreqV = false ∧
      (State.reset.core 0).saveBase = 0 ∧ (coreW { yreqV := true } State.reset).core 0 = { yreqV := true }) ∧
    ((coreW { yreqV := true, deadline := 0, groups := [(0, gW)] } State.reset).core 0).deadline = 0 ∧
    (([(0, gW)] : FMap Group).map (·.1)).Nodup ∧
    (let g := { gW with phase := .yielding }
     let s := wgW demoWg g
     s.group 0 0 = some g ∧ g.tok = [] ∧ s.fly.reqs = [] ∧ s.fly.sfu = [] ∧ s.fly.copies = [] ∧ (s.core 0).shuffles = [] ∧
      ∀ e ∈ g.splits, e.2.wait = .ready) ∧
    (let k : CoreSt := { yreqV := true, saveBase := 0x100000, saved := [keptGroup] }
     let s := { coreW k (launchW placeLaunch State.reset) with clk := { clock := 1 } }
     (s.core 0).yreqV = true ∧ (s.core 0).yreqAt < s.clk.clock ∧ s.xl.biasBase = 0 ∧ s.gen.keeps = [] ∧ (s.core 0).saveFault = false ∧ (s.core 0).groups = [] ∧ (s.launch keptGroup.group.launch).isSome = true ∧
      s.fq.base = 0) ∧
    (∀ s ∈ [keptW, { keptW with kept := [] }], s.readN 0x100000 2 = 1 ∧ s.readN 0x100002 2 = 0x4349 ∧ 0 < s.readN 0x100020 4 ∧
      s.readN 0x100020 4 ≤ 1 ∧ s.launch 0 = some placeLaunch ∧ s.badBytes 0x100000 4096 = false ∧ s.waitingWork = [] ∧
      (match s.restoring 0x100000 0 0 with
        | some r => r.l == 0 && decide (r.gs.map (·.group.launch) = [0]) && decide (r.x = placeLaunch) && decide (r.ws.length = 1) &&
            decide (r.kept = s.kept.head?) && (s.unitRoom 0 (0, none) 0 placeLaunch.hdr 1 1 (s.restoreReq 0x100000 0 0 r).comp).isSome
        | none => false) = true) ∧
    (State.reset.unitRoom 0 (0, none) 0 { placeLaunch.hdr with cpans := 29 } 1 1 29 = none ∧ keptW.lineCurrent (0x100000 / 64) = true ∧
      (fenceW keptW).lineCurrent (0x100000 / 64) = false) ∧
    (let k : CoreSt := { yreqV := true, saved := [keptGroup] }
     let s := coreW k (launchW placeLaunch State.reset)
     let s := { s with wgs := [(0, demoWg)] }
     s.wg 0 = some demoWg ∧ (s.core 0).yreqCtx = demoWg.ctx ∧ placeGroup.liveIn 0 ≠ 0 ∧ s.fly.pmmas = [] ∧ s.fly.copies = []) ∧
    (State.reset.cust.attach.getLsbD 0 = true ∧ State.reset.cust.owner = 0 ∧ 0 ∉ (killW placeLaunch gW).killing ∧
      ((killW placeLaunch gW).cores.map (·.1)).Nodup ∧ (((killW placeLaunch gW).core 0).groups.map (·.1)).Nodup) ∧
    (let l := { placeLaunch with st := .killed, lr := { placeLaunch.lr with ctx := 5 } }
     5 ∈ (killW l gW).killing ∧ (killW l gW).fq.base = 0 ∧ (∀ c ∈ (killW l gW).cores, c.2.saveFault = false) ∧
      ((killW l gW).q.launches.map (·.1)).Nodup ∧ l.lr.done = 0 ∧ l.addr % 128 = 0) := by decide +kernel
theorem witness_PreemptionAndKills_lines (k : CoreSt) (hk : k.sigs = []) (a : Nat) :
    (coreW k State.reset).lineFree a = true ∧ (coreW k State.reset).lostStack a = false := by
  simp [State.lineFree, State.lostStack, coreW, State.reset, State.dieUp, State.die, State.served, State.transient, State.entry,
    State.bucketCores, State.biasBit, CoreSt.mayHold, CoreSt.sig, FMap.find, FMap.get, hk]
theorem witness_Restore_lines (l : Nat) : keptW.badLine l = false := by
  simp [State.badLine, keptW, launchW, State.reset, FMap.find]

/-! ## Lines, dies and requests of the host and of peers -/

/-- A line of die 0 and one of die 1, their directory entry, and a request of core 0 for a line of die 1. -/
def line0 : Nat := 0x800
def line1 : Nat := 2 ^ 31
def dirW (l : Nat) (e : DirEntry) (k : ReqKind) : State :=
  { State.reset with
    coh := { dir := [(l, e)] },
    fly := { reqs := [{ id := 3, kind := k, ctx := 0, core := 0, gid := 0, launch := 0, split := 0, splits := 1, order := 0, scope := 0,
                        accs := [{ lane := 0, va := 0, pa := 64 * l, n := 4 }], dst := [(0, [8], 0)] }] } }
def modified : DirEntry := { st := .m, owner := 0 }
def reaches (s : State) (l : Nat) : Bool := s.isDevice (64 * l) && s.served l true && s.coh.invals.isEmpty && s.coh.claimed.isEmpty && s.reach 0 (homeDie (64 * l)) && !(s.die 0).fenced && !(s.die (homeDie (64 * l))).fenced
def invalW (received : Bool) (route : Nat) (down : List (Nat × Nat)) : State :=
  { State.reset with clk := { clock := 9000 },
                     coh := { dir := [(line1, { st := .s, sharers := 1 })], down := down,
                              invals := [{ line := line1, die := 0, route := route, received := received, sent := 0 }] } }
/-- Die 5 has lost the others at a TIME, or is marked only. -/
def cutW (t : Option Nat) : State :=
  { State.reset with clk := { time := 5000 }, coh := { dies := [(5, { fenced := t.isNone, lost := t })], marked := [5] } }
def flipW (toHost : Bool) (ls : List Nat) : State :=
  { State.reset with xl := { biasBase := 0x9000 }, coh := { flips := [{ page := 0x20, toHost := toHost, waitingLines := ls }] } }
/-- The first GiB under one leaf entry, managed by the host; page 0x20 is under host bias, or not. -/
def gibPage : DWord := 0x100000000000C7
def biasW (b : Nat) : State :=
  { State.reset with
    xl := { ctxBase := 0x1000, biasBase := 0x9000 },
    mem := cells 0x1000 (toBytes 8 0x2000 ++ toBytes 8 1) ++ cells 0x2000 (toBytes 8 0x3001) ++ cells 0x3000 (toBytes 8 0x4001) ++
      cells 0x4000 (toBytes 8 gibPage.toNat) ++ cells 0x9004 [BitVec.ofNat 8 b] }

theorem witness_LinesDiesAndHostRequests :
    (let k : CoreSt := { sigs := [(5, 2)] }
     (k.sig 5).getLsbD 1 = true ∧ (k.sig 5).getLsbD 0 = false ∧ (k.sig 4).getLsbD 1 = false ∧ (coreW k State.reset).core 0 = k) ∧
    (homeDie (64 * line0) = 0 ∧ homeDie (64 * line1) = 1) ∧
    (reaches (dirW line0 modified .load) line0 && reaches (dirW line1 {} .load) line1 && reaches (dirW line1 {} .store) line1 &&
      reaches (dirW line1 { st := .s, sharers := 1 } .store) line1 && reaches (dirW line1 { st := .s, sharers := 5 } .store) line1) = true ∧
    ((dirW line0 modified .load).entry line0 = modified ∧ (dirW line1 {} .load).entry line1 = {} ∧
      (dirW line0 { st := .e, owner := 0 } .load).entry line0 = { st := .e, owner := 0 }) ∧
    ((invalW false 0 []).canTravel 0 1 0 = true ∧ (invalW false 0 [(0, 1)]).canTravel 0 1 0 = false ∧
      (∀ r ∈ [true, false], ((invalW r 0 []).coh.invals.find? fun v => v.line == line1 && v.die == 0).map (·.received) = some r)) := by decide +kernel
theorem witness_LinesDiesAndHostRequests_faults :
    ((0, 1) ∉ State.reset.coh.down ∧ 0 / 4 = 1 / 4) ∧
    ((cutW none).coh.marked = [5] ∧ ((cutW none).die 5).lost = none ∧ ((cutW (some 0)).die 5).lost = some 0 ∧ 0 + 5000 ≤ (cutW none).clk.time ∧
      ((cutW none).die 5).fenced = true ∧ State.reset.coh.marked = [] ∧ (State.reset.coh.dir.map (·.1)).Nodup) ∧
    ((State.reset.die 0).migEpoch ≠ 0 ∧ (State.reset.die 0).epochAt + 1000 * (State.reset.die 0).migEpoch.toNat ≤ 10 ^ 6) ∧
    ((biasW 0).xl.seals = [] ∧ (biasW 0).lineCurrent (0x20000 / 64) = true ∧ (biasW 0).lineFree (0x20000 / 64) = true ∧ (biasW 0).badLine (0x20000 / 64) = false ∧
      ((biasW 0).cowAt 1 (0x20000 / 4096) false).isSome = true ∧ (biasW 0).gen.cur = 1 ∧ (biasW 0).gen.late = [] ∧ (biasW 0).dev ≠ 1 ∧
      (biasW 0).lostStack 0x20000 = false ∧ (fenceW (biasW 0)).lineCurrent (0x20000 / 64) = false ∧
      (fenceW (biasW 0)).lineFree (0x20000 / 64) = false) := by decide +kernel
/-- No frame is free for a copy of the page 0x20. -/
def fullShare (s : State) : State :=
  { s with gen := { s.gen with cur := 2, poolGib := 0, retained := [newGen 1 0 0 []] } }
theorem witness_LinesDiesAndHostRequests_frames : ((fullShare (biasW 0)).cowAt 2 (0x20000 / 4096) false).isNone = true ∧
    (fullShare (biasW 0)).lineFree (0x20000 / 64) = true := by decide +kernel
theorem sealedPa_none (s : State) (a : Nat) (h : s.xl.seals = []) : s.sealedPa a = false := by
  simp [State.sealedPa, State.sealed, h]
theorem get_unlisted {m : FMap Byte} {k : Nat} (h : ∀ e ∈ m, e.1 ≠ k) : FMap.get 0#8 m k = 0#8 := by
  induction m with
  | nil => rfl
  | cons e m ih =>
    obtain ⟨j, v⟩ := e
    rw [FMap.get, if_neg (h (j, v) (List.mem_cons_self ..))]
    exact ih fun e he => h e (List.mem_cons_of_mem _ he)
theorem ofBytes_zeros (bs : List Byte) (h : ∀ b ∈ bs, b = 0#8) : ofBytes bs = 0 := by
  induction bs with
  | nil => rfl
  | cons b bs ih =>
    rw [ofBytes, h b (List.mem_cons_self ..), ih fun x hx => h x (List.mem_cons_of_mem _ hx)]
    rfl
/-- What an entry of a table contributes to the mappings of an address. -/
def entryMaps (s : State) (pa level : Nat) (vp : Nat) (e : DWord) : List (Nat × DWord) :=
  if !pteBit e 0 || e.toNat / 2 ^ 53 != 0 then []
  else if level = 0 ∨ pteBit e 52 = true then
    if pteFrame e ≤ pa ∧ pa < pteFrame e + leafSize (level + 1) then [(vp + (pa - pteFrame e), e)] else []
  else if pteFrame e < 2 ^ 40 then s.mapsIn pa level (pteFrame e) vp else []
/-- A table that lists nothing behind its first entry. -/
theorem mapsIn_first (s : State) (pa level table vp : Nat) (h : ∀ e ∈ s.mem, e.1 < table + 8 ∨ table + 4096 ≤ e.1) :
    s.mapsIn pa (level + 1) table vp = entryMaps s pa level vp (BitVec.ofNat 64 (s.readN table 8)) := by
  have rest : ∀ i, 0 < i → i < 512 → s.readN (table + 8 * i) 8 = 0 := by
    intro i h0 h1
    refine ofBytes_zeros _ fun b hb => ?_
    obtain ⟨k, hk, rfl⟩ := List.mem_map.mp hb
    have := List.mem_range.mp hk
    refine get_unlisted fun e he => ?_
    rcases h e he with h | h <;> omega
  rw [State.mapsIn, show (512 : Nat) = 511 + 1 from rfl, List.range_succ_eq_map, List.flatMap_cons, List.flatMap_map]
  have : (List.range 511).flatMap (fun a =>
      (fun i =>
        let e : DWord := BitVec.ofNat 64 (s.readN (table + 8 * i) 8)
        let v := vp + i * 2 ^ (12 + 9 * level)
        if !pteBit e 0 || e.toNat / 2 ^ 53 != 0 then []
        else if level = 0 ∨ pteBit e 52 = true then
          if pteFrame e ≤ pa ∧ pa < pteFrame e + leafSize (level + 1) then [(v + (pa - pteFrame e), e)] else []
        else if pteFrame e < 2 ^ 40 then s.mapsIn pa level (pteFrame e) v else []) (Nat.succ a)) = [] := by
    refine List.flatMap_eq_nil_iff.mpr fun i hi => ?_
    have := List.mem_range.mp hi
    simp only [rest (Nat.succ i) (by omega) (by omega)]
    rfl
  simp only [Nat.succ_eq_add_one] at this
  simp only [Nat.succ_eq_add_one, this, List.append_nil, Nat.mul_zero, Nat.add_zero, Nat.zero_mul]
  rfl
/-- Only context 0 is valid. -/
theorem mappings_first (s : State) (pa : Nat) (hb : s.xl.ctxBase ≠ 0) (h0 : (s.context 0).2 % 2 ≠ 0)
    (h : ∀ c ∈ List.range 63, (s.context (c + 1)).2 % 2 = 0) :
    s.mappings pa = (s.mapsIn pa 5 ((s.context 0).1 / 4096 % 2 ^ 40 * 4096) 0).map fun m =>
      (0, (BitVec.ofNat 57 m.1).signExtend 64, m.2) := by
  rw [State.mappings, if_neg hb, show List.range 64 = 0 :: (List.range 63).map Nat.succ by decide, List.flatMap_cons,
    List.flatMap_map, if_neg h0]
  have : (List.range 63).flatMap (fun a => if (s.context (Nat.succ a)).2 % 2 = 0 then [] else
      (s.mapsIn pa 5 ((s.context (Nat.succ a)).1 / 4096 % 2 ^ 40 * 4096) 0).map fun m =>
        (Nat.succ a, (BitVec.ofNat 57 m.1).signExtend 64, m.2)) = [] :=
    List.flatMap_eq_nil_iff.mpr fun i hi => if_pos (h i hi)
  rw [this, List.append_nil]
theorem mappings_biasW (b : Nat) (hb : b ∈ [0, 1]) : ∀ pa ∈ [0x20000, 0x40000000], (biasW b).mappings pa =
    if pa < 2 ^ 30 then [(0, dword pa, gibPage)] else [] := by
  intro pa hp
  simp only [List.mem_cons, List.not_mem_nil, or_false] at hb hp
  rcases hb with rfl | rfl <;> rcases hp with rfl | rfl <;>
  · rw [mappings_first _ _ (by decide +kernel) (by decide +kernel) (by decide +kernel), mapsIn_first _ _ _ _ _ (by decide +kernel)]
    unfold entryMaps
    rw [if_neg (by decide +kernel), if_neg (by decide +kernel), if_pos (by decide +kernel), mapsIn_first _ _ _ _ _ (by decide +kernel)]
    unfold entryMaps
    rw [if_neg (by decide +kernel), if_neg (by decide +kernel), if_pos (by decide +kernel), mapsIn_first _ _ _ _ _ (by decide +kernel)]
    decide +kernel
theorem witness_LinesDiesAndHostRequests_mappings :
    (biasW 0).mappings 0x20000 = [(0, 0x20000, gibPage)] ∧ gibPage.getLsbD 7 = true ∧ (biasW 0).leaf 0 0x20000 = .found gibPage 0x4000 3 :=
  ⟨mappings_biasW 0 (by decide) 0x20000 (by decide), by decide +kernel, by decide +kernel⟩
theorem witness_LinesDiesAndHostRequests_managed :
    (biasW 1).biasManaged 0x20000 = true ∧ (biasW 1).biasManaged 0x40000000 = false := by
  constructor <;>
  · unfold State.biasManaged
    rw [mappings_biasW 1 (by decide) _ (by decide)]
    decide +kernel
theorem setDirty_of_dirty {s : State} {ctx : Nat} {va : DWord} {e : DWord} {a level : Nat} (h : s.leaf ctx va = .found e a level)
    (hd : pteBit e 6 = true) : s.setDirty ctx va = .done s := by simp [State.setDirty, h, hd]
/-- The page is dirty already: a write from outside sets no D. -/
theorem witness_LinesDiesAndHostRequests_dirty : (biasW 0).dirtyMaps 0x20000 = .done (biasW 0) := by
  have h := witness_LinesDiesAndHostRequests_mappings
  simp only [State.dirtyMaps, h.1, List.foldl]
  exact setDirty_of_dirty h.2.2 (by decide)
theorem witness_LinesDiesAndHostRequests_host :
    ((biasW 1).biasBit 0x20 = true ∧
      (biasW 0).biasBit 0x20 = false ∧ (biasW 1).coh.flips = [] ∧ (biasW 1).cust.attach.getLsbD 0 = true ∧
      (biasW 1).badLine (0x20000 / 64) = false ∧ (biasW 1).lostStack 0x20000 = false ∧ ((biasW 1).cowAt 1 0x20 false).isSome = true ∧
      (biasW 1).hasHost = true ∧ (biasW 1).hostFree (0x20000 / 64) = true ∧ (fenceW (biasW 1)).hostFree (0x20000 / 64) = false) ∧
    (((flipW true []).coh.flips.find? (fun f => f.page == 0x20)).map (·.toHost) = some true ∧ (flipW true []).xl.biasBase ≠ 0 ∧
      (flipW true []).coh.hostReqs = [] ∧ ((flipW false [0x800]).coh.flips.find? (fun f => f.page == 0x20)).map (·.waitingLines) = some [0x800] ∧
      (flipW true []).lostStack (0x9000 + 0x20 / 8) = false ∧ (flipW true []).lineFree ((0x9000 + 0x20 / 8) / 64) = true ∧
      (flipW true []).gen.keeps = [] ∧ ((flipW false []).coh.flips.find? (fun f => f.page == 0x20)).map (·.toHost) = some false ∧
      (flipLines 0x20).all (flipW true []).mayFlush = true) ∧
    (let s := biasW 1
     let s := { s with fly := (dirW 0x800 {} .store).fly }
     s.hasHost = true ∧ s.biasBit 0x20 = true ∧ s.snoopInv 0x800 = true ∧ s.served 0x800 true = false ∧ s.snoopWaits 0x800 = true ∧
      s.hostFree 0x800 = true) ∧
    (let s := dirW (2 ^ 43) {} .load
     (s.req 3).map (fun r => r.accs.filter fun a => !a.performed && !s.isDevice a.pa && s.inOrder r a) =
       some [{ lane := 0, va := 0, pa := 64 * 2 ^ 43, n := 4 }]) := by decide +kernel

/-- Writes 1 and 2 of the device wait for one line; a copy of another line is away. -/
def queued (w : DevWrite) : State :=
  { biasW 0 with fly := { writes := [w, { w with id := 2 }] }, coh := { dir := [(0x900, { st := .s, sharers := 2 })] } }
def addWrite (pa : Nat) : DevWrite := { id := 1, chan := .word pa, pa := pa, bytes := toBytes 8 1, add := true, follow := .signal 0 0x20000 }
def ringWrite (pa : Nat) : DevWrite := { id := 1, chan := .migration 3, pa := pa, bytes := [1, 2], follow := .migHead 3 }
theorem witness_QueuedWritesArePerformedAtTheirHome :
    (∀ w ∈ [addWrite 0x20000, ringWrite 0x20000], let s := queued w
      w ∈ s.fly.writes ∧ s.behind w = false ∧ s.behind { w with id := 2 } = true ∧ s.isDevice w.pa = true ∧
      s.memKey w.pa = 0x20000 ∧ s.lostStack 0x20000 = false ∧ s.badLine (0x20000 / 64) = false ∧
      (linesIn 0x20000 w.bytes.length).all s.lineFree = true ∧ s.gen.late = [] ∧ (s.cowAt s.gen.cur 0x20 false).isSome = true ∧
      (fullShare s).lineFree (0x20000 / 64) = true ∧ ((fullShare s).cowAt 2 0x20 false).isNone = true) ∧
    (linesIn (64 * 0x900) 2).all (queued (ringWrite (64 * 0x900))).lineFree = false ∧
    (queued (ringWrite (2 ^ 49))).isDevice (2 ^ 49) = false ∧
    ({ queued (ringWrite 0x20000) with coh := { quar := 1 } } : State).lostStack 0x20000 = true := by decide +kernel

/-! ## Registers of the device -/

def faultRec (t : Option Nat) : FaultRec := { seq := 7, ctx := 0, va := 0x20000, core := 0, timer := t }
def faultW (t : Option Nat) : State := { State.reset with clk := { time := 5 }, xl := { faults := [faultRec t] } }
def unpostedW (base : DWord) : State :=
  { State.reset with xl := { pfBase := base, pfSize := 16, unposted := [{ ctx := 0, va := 0x20000, kind := 0, core := 0 }] } }
def lightPark : Park := { id := 9, who := .launchRead 0, ctx := 0, pages := [(0x20000, 1, true)], core := 0 }
def lightW (pte : Nat) : State := { mapped pte [] with fly := { parks := [lightPark] } }
def custW (h : Option (Nat × Nat)) : State := { State.reset with cust := { State.reset.cust with attach := 0b10011, handover := h } }

theorem witness_RegistersCustodyAndReplies :
    (State.reset.cust.attach.getLsbD State.reset.cust.owner = true ∧ State.reset.cust.attach.getLsbD 4 = true ∧
      4 ≠ State.reset.cust.owner ∧ State.reset.cust.attach.getLsbD 1 = false) ∧
    (State.reset.gen.retained = [] ∧ State.reset.xl.unposted = [] ∧ (State.reset.ring 0).owptr = (State.reset.ring 0).orptr ∧
      (State.reset.ring 0).dwptr = (State.reset.ring 0).drptr) ∧
    ((unpostedW 0xA000).xl.unposted = [{ ctx := 0, va := 0x20000, kind := 0, core := 0 }] ∧ (unpostedW 0xA000).xl.pfBase ≠ 0 ∧
      (unpostedW 0xA000).xl.pfSize &&& ((unpostedW 0xA000).xl.pfSize - 1) = 0 ∧ (unpostedW 0xA000).xl.pfHead - 0 ≠ (unpostedW 0xA000).xl.pfSize ∧
      (unpostedW 0).xl.pfBase = 0) := by decide +kernel
theorem witness_RegistersCustodyAndReplies_replies :
    ((∀ t ∈ [none, some 5, some 6], (faultW t).xl.faults.find? (fun f => f.seq == 7) = some (faultRec t)) ∧ (faultW none).clk.time = 5 ∧
      (7#32).toNat / 2 ^ 16 % 4 = 0 ∧ (0x10007#32).toNat / 2 ^ 16 % 4 = 1 ∧ (0x20007#32).toNat / 2 ^ 16 % 4 = 2 ∧
      (0x30007#32).toNat / 2 ^ 16 % 4 = 3 ∧ (faultW none).xl.faults.find? (fun f => f.seq == 8) = none) ∧
    ((∀ pte ∈ [0x20003, 0x20043], (lightW pte).fly.parks.find? (fun p => p.id == 9) = some lightPark ∧ (lightW pte).xl.ctxBase ≠ 0 ∧
        ((lightW pte).context 0).2 % 2 = 1 ∧ (lightW pte).leaf 0 0x20000 = .found (BitVec.ofNat 64 pte) 0x6100 1) ∧
      lightPark.pages.filter (fun x => x.2.2) = [(0x20000, 1, true)] ∧ (0x20003 : DWord).getLsbD 1 = true ∧
      (0x20003 : DWord).getLsbD 6 = false ∧ (0x20043 : DWord).getLsbD 6 = true) := by decide +kernel
theorem witness_RegistersCustodyAndReplies_custody :
    ((custW none).cust.attach &&& ~~~((1#5) <<< 0) ≠ 0 ∧ (custW (some (1, 0))).cust.handover = some (1, 0) ∧
      (custW none).cust.attach.getLsbD 1 = true ∧ 1 ≠ (custW none).cust.owner ∧ (0x80000001#32).getLsbD 31 = true ∧
      (0x80000001#32).toNat % 8 = 1 ∧ (custW (some (1, 0))).clk.time < 0 + 10 ^ 9) ∧
    (State.reset.cust.keysErased = false ∧ ({ State.reset.cust with keysErased := true } : Custody).keysErased = true ∧
      ({ State.reset.cust with eraseOnAlarm := true } : Custody).eraseOnAlarm = true) ∧
    (0 ∉ State.reset.latent ∧ ({ State.reset with latent := [5, 2 ^ 30 - 1] } : State).latent = [5, 2 ^ 30 - 1] ∧
      2 ^ 30 - 2 ^ 16 ≤ (2 ^ 30 - 1) % 2 ^ 30 ∧ ¬ 2 ^ 30 - 2 ^ 16 ≤ 5 % 2 ^ 30) ∧
    ((demo gW).group 0 0 = some gW ∧ gW.dead.getLsbD 0 = false ∧ gW.dead ||| (1#32) <<< 0 ≠ 0xFFFFFFFF ∧ (demo gW).wg 0 = some demoWg ∧
      (demo gW).wg 1 = none) := by decide +kernel

end Sys2Proof.Tests
end

