-- ==== Sys2Proof/Tests/Clauses.lean ====
section
/-! SUPPORT. As Witness.lean and Events.lean, for single clauses of statements that have several: concrete states that meet the
hypotheses of one clause (`witness_<statement>_<clause>`), at values where the clauses meet. -/

namespace Sys2Proof.Tests
open Sys2Proof Sys2Proof.Machine

-- Each test asks the kernel about everything before it: one after another, they need no thread each.
set_option Elab.async false

/-! ## Numbers -/

/-- An infinite product of sign 1, with no other infinity, and beside an addend of the other sign. -/
theorem witness_SumsOfProductsRoundOnce_infinite :
    let inf1 : FV × FV := (.inf true, .fin false 1 1)
    inf1.1.neg.xor inf1.2.neg = true ∧ (∀ o ∈ [inf1.1, inf1.2], o.isNan = false) ∧ (FV.inf false ∈ [FV.inf false] ∧ FV.inf true ∉ [FV.inf false]) := by
  decide +kernel
/-- 2, whose root is irrational. -/
theorem witness_SfuFunctionsFollowTheirTable_roots : (fp32.value 0x40000000).IsFinite ∧ 0 < (fp32.value 0x40000000).rat :=
  ⟨finite_of (by decide +kernel), by decide +kernel⟩

/-! ## Control flow and traps -/

def memberAt : JoinRecord := { recordAt with members := 7, arrived := 4 }
/-- A split of lane `l` that has arrived at record `q`. -/
def other (l q : Nat) : Split := { demoSplit with active := (1#32) <<< l, chain := some q, wait := .record q }
def memberG (r : JoinRecord) (others : FMap Split) (more : FMap JoinRecord := []) : Group :=
  { gW with dead := 0xFFFFFF00, splits := (0, chained) :: others, records := (0, r) :: more }
noncomputable def exitI : Instr := .exit (oneForm 0 0 0)
/-- Every other split keeps lanes, and every record some member that has not arrived and a split for each member. -/
def settledB (g : Group) : Bool :=
  (g.splits.all fun e => e.1 == 0 || e.2.active &&& ~~~3 != 0) && (g.splits.all fun e => FMap.find g.splits e.1 == some e.2) &&
    (g.records.all fun e => e.2.members == 0 || e.2.members != e.2.arrived) &&
    (g.records.all fun e => e.2.arrived &&& ~~~e.2.members == 0 && (List.range 4).all fun k => !e.2.members.getLsbD k || (g.split k).isSome) &&
    FMap.risingFrom 0 g.records && g.dead ||| 3 != 0xFFFFFFFF
def enclosing : JoinRecord := { recordAt with j := 0x20000, members := 9, arrived := 8 }
/-- Split 0, the one that empties, is a member with two others, one of them arrived, of a record within another; with one that has
arrived; alone, with a live lane in WMASK; and alone with none. -/
def nestedG : Group := memberG { memberAt with outer := some 1 } [(1, other 2 0), (2, other 3 0), (3, other 4 1)] [(1, enclosing)]
def allArrivedG : Group := memberG { memberAt with members := 3, arrived := 2 } [(1, other 2 0)]
def lastLiveG : Group := memberG { memberAt with members := 1, arrived := 0, wmask := 0x10, outer := some 1 } [(3, other 5 1)] [(1, enclosing)]
def lastG : Group := memberG { memberAt with members := 1, arrived := 0, wmask := 2 } [(1, other 2 0)]
theorem witness_ExitEndsThreads_members :
    (∀ g ∈ [nestedG, allArrivedG, lastLiveG, lastG], admits (demo g) exitI demoCur g chained = true ∧ settledB g = true ∧
      lanesOf exitI g chained = [0, 1] ∧ chained.stack = [] ∧ chained.chain = some 0) ∧
    ((7 : BitVec 4) &&& ~~~1 ≠ 4 &&& ~~~1 ∧ (3 : BitVec 4) &&& ~~~1 = 2 &&& ~~~1 ∧ (1 : BitVec 4) &&& ~~~1 = 0 ∧
      enclosing.arrived &&& memberAt.members = 0) ∧
    allArrivedG.split 1 = some (other 2 0) ∧ (other 2 0).active &&& ~~~(allArrivedG.dead ||| 3) ≠ 0 ∧
    (0x10 : Mask) &&& ~~~(lastLiveG.dead ||| 3) ≠ 0 ∧ (2 : Mask) &&& ~~~(lastG.dead ||| 3) = 0 := by decide +kernel
theorem witness_JoinsReuniteLanes_nested : Encloses nestedG.records (some 1) [1] ∧
    FMap.find nestedG.records 0 = some { memberAt with outer := some 1 } ∧ memberAt.members.getLsbD 0 = true ∧
    ∀ i ∈ [0, 1, 2], (nestedG.split i).isSome = true :=
  ⟨.more (r := enclosing) (by decide +kernel) (by decide) .none, by decide +kernel, by decide +kernel, by decide +kernel⟩

/-- The handler split of a group in handler mode. -/
theorem witness_TakingAnExceptionSavesItsRecord_handler : (demo hG).group 0 0 = some hG ∧ hG.split 4 = some demoSplit ∧ hG.handler ≠ none := by
  decide +kernel

/-- A `tfence` that has waited: a flag that it saw, one that another split has set since, and none. -/
def seenG (w sync : Nat) : Group := having { armedG with sync := .ofNat 32 sync } { demoSplit with seen := some (.ofNat 32 w) }
theorem witness_TrapInstructionsRaise_waited :
    (∀ e ∈ [(1, 0), (0, 1), (0, 0)], admits (demo (seenG e.1 e.2)) (.tfence (oneForm 0 0 0)) demoCur (seenG e.1 e.2)
      { demoSplit with seen := some (.ofNat 32 e.1) } = true) ∧
    (∀ e ∈ [(1, 0), (0, 1)], armedG.flags &&& (.ofNat 32 e.1 ||| .ofNat 32 e.2) &&& armedG.ten &&& 0x7FF ≠ 0) ∧
    armedG.flags &&& (0 ||| 0) &&& armedG.ten &&& 0x7FF = 0 ∧ demoSplit.seen = none ∧ sfuWorld.fly.sfu ≠ [] := by decide +kernel

/-! ## Memory -/

/-- Lane 0 addresses the page 0x20000, which is mapped, and lane 1 an absent one; both the absent one; with the page-fault ring open. -/
def pageG (a b : Nat) : Group := { gW with lanes := [(0, demoThread a 0 5), (1, demoThread b 0 5)] }
def absentW (g : Group) (pte : Nat) : State :=
  { world g { regs := 128 } demoWg { ctxBase := 0x1000, pfBase := 0xA000, pfSize := 16 } with mem := tables pte }
def isPage (r : Tr × Option TlbEntry) : Bool := match r.1 with | .page => true | _ => false
theorem witness_MemoryFaultsAreTakenByStage_absent :
    (∀ i ∈ [Instr.ld (oneForm 8 4 0), .st (oneForm 8 4 0)], ∀ a ∈ [0x20000, 0x30000],
      let g := pageG a 0x30000
      admits (absentW g 0x20047) i demoCur g demoSplit = true ∧ accessLanes i g demoSplit = [0, 1] ∧
      (absentW g 0x20047).slotsFree 0 2 = true ∧ (absentW g 0x20047).xl.pfBase ≠ 0 ∧
      ringSizeOk (absentW g 0x20047).xl.pfSize 16 4096 = true) ∧
    isOk ((absentW (pageG 0x20000 0x30000) 0x20047).translate 0 0 0x20000 .store) = true ∧
    isPage ((absentW (pageG 0x20000 0x30000) 0x20047).translate 0 0 0x30000 .store) = true ∧
    isPage ((absentW (pageG 0x20000 0x30000) 0x20047).translate 0 0 0x30000 .load) = true := by decide +kernel

/-- A store into the byte of ATTR of a pan in state 1, which ATTR's record holds as 1. -/
def protW (pslu : DWord) : State := panS (scrG 960) pslu [(960, 1), (961, 7)] [(0, 1)]
/-- A scratch request of two lanes, at two offsets, the second in the compute window where it is 0x80000. -/
def twoAccs (o : Nat) : List Acc :=
  [{ lane := 0, va := 64, pa := 0, n := 4, op1 := 1, op2 := 9 }, { lane := 1, va := dword o, pa := 0, n := 4, op1 := 2, op2 := 9 }]
def scratchR (k : ReqKind) (returns : Bool) (as : List Acc) : Req :=
  { reqOf k (if returns then [(0, [8], 0), (1, [8], 1)] else []) with id := 3, scratch := true, accs := as }
theorem witness_ScratchAccessesAreMadeInTheirCycles_lanes :
    (∀ i ∈ [Instr.sts (inLane0 (oneForm 8 4 0)), .atoms (inLane0E (eForm 8 (fld 4) (fld 5) (small 0) 0))],
      admits (protW 4) i demoCur (scrG 960) demoSplit = true ∧ accessLanes i (scrG 960) demoSplit = [0]) ∧
    (protW 4).computeState panWg 0 = 1 ∧ (0 : Byte) ≠ 1 ∧ ((protW 4).track 0 0).busyUntil ≤ (protW 4).clk.clock ∧ (protW 4).fly.scratch = [] ∧
    (∀ o ∈ [64, 0x80000], ∀ a ∈ twoAccs o, a.performed = false ∧ a.due ≤ (protW 4).clk.clock ∧ a.n = 4 ∧
      (scrG 960).dead.getLsbD a.lane = false ∧ a.va.toNat % 4 = 0 ∧ a.op1 < 2 ^ 32 ∧ a.op2 < 2 ^ 32 ∧
      (a.va.toNat + 4 + 64 ≤ panHdr.scratch ∨ panHdr.scratch ≤ a.va.toNat)) ∧
    ((protW 4).wg 0).map (·.core) = some 0 ∧ ((protW 4).core 0).badRows = [] ∧ panWg.compute[0]? = some 1 ∧
    (scratchR .store false (twoAccs 64)).dst = [] ∧ (scratchR .cas true (twoAccs 64)).dst ≠ [] ∧
    (∀ a ∈ (twoAccs 64).map fun (a : Acc) => { a with due := 1 }, (protW 4).clk.clock < a.due) := by decide +kernel

/-- A reduction line one step of 2^-160 below 2^335, to which 1 is added, and the line of 0, to which it is added too. -/
theorem witness_AtomicsAndReductionLines_overflow :
    (2 ^ 495 - 1 < 2 ^ 512 ∧ 0x3F800000 < 2 ^ (1 + fp32.eb + fp32.mb) ∧ finB (fp32.value 0x3F800000) = true ∧
      ((2 ^ 160 : Int) : Rat) = (fp32.value 0x3F800000).rat * ((2 ^ 160 : Nat) : Rat)) ∧
    (2 : Int) ^ 495 ≤ (BitVec.ofNat 496 (2 ^ 495 - 1)).toInt + 2 ^ 160 ∧ (BitVec.ofNat 496 0).toInt + 2 ^ 160 < (2 : Int) ^ 495 ∧
    (2 ^ 499).testBit 499 = true := by decide +kernel

/-- One lane of a load that has two. -/
def pairR : Req := { loadR with accs := [accAt, { accAt with lane := 1 }], dst := [(0, [8], 0), (1, [8], 1)] }
theorem witness_RequestsArePerformed_lanes :
    (flying pairR).req 7 = some pairR ∧ pairR.accs.find? (fun y => y.lane = 1) = some { accAt with lane := 1 } ∧
    (flying pairR).laneArrives pairR { accAt with lane := 1 } = true ∧ (flying pairR).laneArrives pairR { accAt with lane := 2 } = false ∧
    (flying pairR).badLine (0x20000 / 64) = false ∧ (pairR.dst.map (·.1)).Nodup := by decide +kernel

/-- A release performed early, whose earlier request is still to be performed; and a page whose table line waits at its home. -/
def earlyR : EarlyRel := { pa := 0x20000, n := 4, core := 1, gid := 0, wg := 5, wgs := [5], scope := 5, ids := [7] }
def earlyW : State := { flying { loadR with core := 1 } with fly := { (flying { loadR with core := 1 }).fly with early := [earlyR] } }
noncomputable def acquireFence : Instr := .fence (eForm 0 (fld 0) (fld 0) (fld 0) 0x24)
noncomputable def prefI : Instr := .pref (eForm 0 (fld 4) (fld 5) (fld 0) 0x20)
def busyW : State :=
  { absentW (twins 0x20000 0 5) 0x20047 with coh := { dir := [(0x6100 / 64, { st := .m, owner := 1 })] } }
def isBusy (r : Tr × Option TlbEntry) : Bool := match r.1 with | .busy _ => true | _ => false
theorem witness_CopiesFencesAndPrefetches_waits :
    admits earlyW acquireFence demoCur gW demoSplit = true ∧ lanesOf acquireFence gW demoSplit ≠ [] ∧ 0x24 / 4 % 4 = 1 ∧
    earlyR ∈ earlyW.fly.early ∧ 7 ∈ earlyR.ids ∧ accAt.performed = false ∧
    (∀ s ∈ [busyW, absentW (twins 0x20000 0 5) 0x20047], admits s prefI demoCur (twins 0x20000 0 5) demoSplit = true) ∧
    isBusy (busyW.translate 0 0 0x20000 .prefetch) = true ∧
    isBusy ((absentW (twins 0x20000 0 5) 0x20047).translate 0 0 0x20000 .prefetch) = false := by decide +kernel

/-- A copy of one element, or of two nibbles each in two rows, between global memory at 0x20000 and the window's byte 0x200. -/
def elementOf (dir tr : Nat) : Copy :=
  { copyOfW dir with tr := tr, x := if tr = 2 then 2 else 1, y := if tr = 2 then 2 else 1, srow := 1,
                     src := if dir = 0 then 0x20000 else 0x200, dst := if dir = 0 then 0x200 else 0x20000 }
def elementW : State :=
  { world gW panHdr panWg { tlb := [pageAt 0x20047] } with
    mem := [(0x20000, 0x21), (0x20001, 0x43)],
    cores := [(0, { groups := [(0, gW)], tracks := [(0, { issuing := some (0, 0) })], pans := [(0x200, 0x65), (0x201, 0x87)] })] }
theorem witness_CopiesMoveTheirBox_global :
    elementW.wg 0 = some panWg ∧ (elementW.launch 0).isSome = true ∧ panWg.storage = [0] ∧ panHdr.scratch ≤ 16384 ∧
    (elementW.core 0).badRows = [] ∧ 0x200 + 1 + 64 ≤ panHdr.scratch ∧
    ((elementW.translate 0 0 0x20000 .load).1 = .ok 0x20000 0x20047 ∧ (elementW.translate 0 0 0x20001 .load).1 = .ok 0x20001 0x20047) ∧
    (elementW.xl.tlb.find? (·.serves 0 0 0x20000)).isSome = true ∧ (elementW.xl.tlb.find? (·.serves 0 0 0x20001)).isSome = true ∧
    elementW.xl.biasBase = 0 ∧ elementW.homeReads 0 0x800 = true ∧ elementW.badLine 0x800 = false ∧
    (elementW.translate 0 0 0x20000 .store).1 = .ok 0x20000 0x20047 ∧ elementW.isDevice 0x20000 = true ∧
    elementW.lostStack 0x20000 = false ∧ elementW.reach 0 (homeDie 0x20000) = true ∧ elementW.lineFree 0x800 = true ∧
    elementW.earlyFree 0x800 = true ∧ (elementW.cowAt (elementW.gen.genAt (0 :: homeUnits 0x800)) 0x20 (pteBit 0x20047 5)).isSome = true ∧
    elementW.needsCopy (elementW.gen.genAt (0 :: homeUnits 0x800)) 0x20 (pteBit 0x20047 5) = false := by decide +kernel
/-- A byte to ATTR of a pan in state 1, whose record holds 1; and a copy to the window of another workgroup, in another pan. -/
theorem witness_CopiesMoveTheirBox_windows :
    (let s := protW 4; s.stateOf panWg 0 = 1 ∧ s.panByte 0 0x100 ≠ 1 ∧ panHdr.scratch - 64 + 0 = 960 ∧ 64 ≤ panHdr.scratch) ∧
    (let s := { copying 2 with wgs := [(0, panWg), (1, { panWg with slot := 1, storage := [2], compute := [3] })],
                               fly := { copies := [{ copyOfW 2 with dstWg := some 1 }] } }
     (s.copyOf 3).map (·.dstWg) = some (some 1) ∧ s.copyReady { copyOfW 2 with dstWg := some 1 } = true ∧
     (s.wg 1).map (·.storage) = some [2] ∧ (∀ p ∈ panWg.storage, p ∉ [2])) ∧
    (copyOfW 2).units = 1 ∧ (copying 2).group 0 0 = some gW := by decide +kernel

/-! ## Pans -/

/-- A mixed group that names pan 0 where its launch has no compute pan, and none; a pan instruction without checks of its own. -/
def mixedOf (v : Nat) : Group := { gW with lanes := [(0, demoThread v 8 5), (1, { demoThread v 3 5 with wg := 1 })] }
theorem witness_PanInstructionsAreChecked_mixed :
    (∀ i ∈ [toCompute, toStorage], ∀ v ∈ [0, 1], admits (demo (mixedOf v)) i demoCur (mixedOf v) demoSplit = true ∧
      (mixedOf v).mixed = true ∧ firstLane i (mixedOf v) demoSplit = some 0 ∧ uniformA (demo (mixedOf v)) i (mixedOf v) demoSplit = v) ∧
    ((demo (mixedOf 0)).hdr (mixedOf 0)).cpans = 0 ∧ ((demo (mixedOf 0)).core 0).pslu = 0 ∧ (demo (mixedOf 0)).wg 0 = some demoWg ∧
    admits (demo mixedG) (.sluice (oneForm 0 0 0)) demoCur mixedG demoSplit = true := by decide +kernel
/-- Two sets of a window to swap at the end of the cycle; a fault held for the token of a `pwait`. -/
theorem witness_PanInstructionsAreChecked_swaps :
    (let s := { panS gW 0 [] with fly := { swaps := [(0, 1)] } }
     s.fly.swaps = [(0, 1)] ∧ (s.wg 0).map (fun w => (w.storage, w.compute)) = some ([0], [1]) ∧ (s.launch 0).isSome = true) ∧
    panHdr.scratch % 64 = 0 ∧ panHdr.scratch ≤ 16384 ∧ 64 ≤ panHdr.scratch ∧
    panned (panS heldG 0 []) heldG (.pwait (eForm 0 (fld 0) (fld 0) (fld 0) 0)) = true ∧ heldG.held.find? (fun y => y.tok = 0) ≠ none := by
  decide +kernel
/-- Cells of a pan flipped: none, one, and two of one word. -/
def flippedW (bs : List Nat) : State := (demo gW).updCore 0 fun k => { k with flipped := bs }
theorem witness_PanOperationsRunToCompletion_cells : ((flippedW []).core 0).flipped.filter (fun b => b / 131072 = 1) = [] ∧
    ((flippedW [5, 131073]).core 0).flipped.filter (fun b => b / 131072 = 1) = [131073] ∧
    ((flippedW [131073, 131074]).core 0).flipped.filter (fun b => b / 131072 = 1) = [131073, 131074] ∧ 131073 / 64 = 131074 / 64 := by
  decide +kernel
/-- A `pmma` outside a gang and at the latch with its token at 255; and a latch whose descriptor is illegal. -/
def fullTok : FMap Nat := [(0, 255)]
theorem witness_PanOperationsRunToCompletion_tokens :
    (let g := { pmmaG 64 with tok := fullTok }
     let s := panS g 4 (descCells (descBytes 16)) [(0, 0)]
     admits s pmmaI demoCur g plainFmt = true ∧ g.gang = 0 ∧ g.splits.length = 1 ∧ (s.wg 0).isSome = true) ∧
    (let g := { gangG with tok := fullTok }
     admits (panS g 4 []) pmmaI demoCur g plainFmt = true ∧ 255 ≤ FMap.get 0 g.tok 0) ∧
    (let g := { latchG with tok := fullTok }
     let s := panS g 4 (descCells (descBytes 16)) [(0, 0)]
     s.latchReady 0 0 = true ∧ (memberOf (0, g)).isSome = true) ∧
    (let s := panS latchG 4 (descCells []) [(0, 0)]
     s.latchReady 0 0 = true ∧
     (match s.wg 0, memberOf (0, latchG) with | some w, some m => (s.pmmaCheck w panHdr m [0]).isSome | _, _ => false) = true) := by decide +kernel

/-! ## Barriers, queues and generations -/

/-- A fault held when a split comes to a barrier; a walk that its table line keeps waiting; a record whose line another die owns. -/
def ownedLine (s : State) (line : Nat) : State := { s with coh := { s.coh with dir := [(line, { st := .m, owner := 1 })] } }
theorem witness_BarriersQueuesAndEventCounters_waits :
    (∀ i ∈ [barI, sstepI], admits (demo heldG) i demoCur heldG demoSplit = true) ∧ heldG.held.length = 1 ∧
    (∀ i ∈ [evsigI, evwaitI], ready busyW (twins 0x20000 0 5) i = true) ∧
    isBusy (busyW.translate 0 0 0x20000 .add) = true ∧ isBusy (busyW.translate 0 0 0x20000 .load) = true ∧
    (let s := { ownedLine (demo eventG) (0x6100 / 64) with xl := { ctxBase := 0x1000 }, mem := tables 0x20047 }
     isBusy (s.translate 0 0 0x20000 .load) = true ∧ eventG.split 0 ≠ none) ∧
    (let s := ownedLine (memW 0x20047) 0x800
     ready s memG launchI = true ∧ (s.translate 0 0 0x20000 .rmw).1 = .ok 0x20000 0x20047 ∧ s.isDevice 0x20000 = true ∧
     s.lostStack 0x20000 = false ∧ s.badLine 0x800 = false ∧ s.homeReads 0 0x800 = false) := by decide +kernel

/-- A `snap` whose descriptor's writes are still to be performed; one whose group has gone; a drain whose page no route reaches, and
one from a shadow frame with a line in error. -/
def snapEndG : Group := having gW { demoSplit with wait := .snapEnd [(0, 8)], resume := some 0x10008 }
def orphanW : State := { State.reset with gen := { orphans := [{ ctx := 0, va := 0x20000, desc := snapBytes }] } }
def cutPage (s : State) : State := { s with coh := { s.coh with dir := [(0x140, { st := .m, owner := 1 })], down := [(0, 1), (0, 2), (0, 4), (0, 3)] } }
def framed : Gens := { retains with shadows := [{ frame := 9, page := 5, lo := 1, hi := 1 }] }
theorem witness_GenerationsFollowTheirRules_waits :
    (isBusy (busyW.translate 0 0 0x20000 .load) = true ∧
      (let s := { busyW with gen := { snapCtx := 1 } }
       admits s snapI demoCur (twins 0x20000 0 5) demoSplit = true)) ∧
    ((demo snapEndG).group 0 0 = some snapEndG ∧ (snapEndG.split 0).map (·.wait) = some (.snapEnd [(0, 8)])) ∧
    (orphanW.gen.advance = none ∧ orphanW.gen.orphans[0]?.isSome = true ∧ orphanW.gen.cur < orphanW.gen.base + 3 ∧ orphanW.fly.reqs = []) ∧
    ((cutPage (snapW gW 1 retains)).recallable 5 = false ∧ (snapW gW 1 retains).recallable 5 = true) ∧
    (let s := { snapW gW 1 framed with poisoned := [9 * 64 + 3] }
     s.badLine (9 * 64 + 3) = true ∧ s.recallable 5 = true ∧ s.writeWaits 0 (0x20000 + 0x30) none = false) := by decide +kernel
/-- A write that waits for a frame of a full share, under a generation taken with ABANDON or without; tried, with no drain. -/
def frameW (abandon tried pressed : Bool) : State :=
  snapW gW 1 { cur := 2, base := 1, poolGib := 0, retained := [{ snapRec with abandon := abandon }], pressed := pressed,
               copyWait := [{ who := .outside, page := 0x40, tried := tried }] }
theorem witness_GenerationsFollowTheirRules_frames :
    (∀ s ∈ [frameW true false false, frameW false true true, frameW false true false],
      ∀ w ∈ s.gen.copyWait, s.stillWaits w = true ∧ s.frameShort w = true ∧ s.undrained w.page = true) ∧
    (frameW true false false).gen.copyWait.length = 1 ∧ (frameW true false false).writeWaits 0 (0x20000 + 4) none = false ∧
    (frameW true false false).gen.advance = none := by decide +kernel

/-! ## Tables, launches and units -/

/-- A splinter whose table line waits, is in error, or is free; and a counter that the owner has written in this cycle. -/
def isLeaf (busy : Bool) (f : Leaf) : Bool := match f with | .busy _ => busy | .poisoned _ => !busy | _ => false
def badTable : State := { absentW (twins 0x20000 0 5) 0x20047 with poisoned := [0x6100 / 64] }
def ownerWrote (k : Nat) : State := (demo gW).updCore 0 fun c => { c with pmcOwner := [k], pmcCtx := 1 }
theorem witness_TablesAndCounters_clauses :
    (∀ s ∈ [busyW, badTable], s.xl.splStat.getLsbD 31 = false ∧ s.xl.ctxBase ≠ 0 ∧
      (s.readN (s.xl.ctxBase.toNat + 16 * (s.xl.splCtx.toNat % 64) + 8) 4).testBit 0 = true) ∧
    isLeaf true (busyW.leaf 0 0x20000) = true ∧ isLeaf false (badTable.leaf 0 0x20000) = true ∧
    (ready (ownerWrote 1) gW (.pmcSel (eForm 0 (small 1) (fld 6) (fld 0) 1)) = true ∧
      ready (ownerWrote 9) gW (.pmcClr (eForm 0 (small 1) (fld 0) (fld 0) 2)) = true) ∧
    (((ownerWrote 1).core 0).pmcOwner.contains 1 = true ∧ ((ownerWrote 9).core 0).pmcOwner.contains (8 + 1) = true) ∧
    State.reset.fly.pmmas = [] ∧ State.reset.fly.swaps = [] ∧ State.reset.fly.scratch = [] := by decide +kernel

/-- A record whose context's line waits at its home, or is in error; a launch whose engine has a write under way, in its spill area. -/
def bootLine (bad : Bool) : State :=
  let s := bootW recordBytes
  if bad then { s with poisoned := [0x1000 / 64] } else ownedLine s (0x1000 / 64)
def spillL : Launch := { nodeDone true with hdr := { regs := 128, nodes := 0 }, lr := { placeLaunch.lr with spillBase := 0x20000, spillSize := 0x10000 } }
def spillW (va : DWord) : State :=
  { launchW spillL State.reset with fly := { writes := [{ id := 1, ctx := some 0, va := va, chan := .word 0x20000, pa := 0x20000, bytes := [1], follow := .nothing }] } }
theorem witness_LaunchesArePlacedAndScheduled_clauses :
    (∀ b ∈ [true, false], (bootLine b).ring 3 = ring3 ∧ (bootLine b).readableAt 0x7000 8 = true ∧ (bootLine b).readableAt 0x8000 128 = true ∧
      (bootLine b).badLine (0x8000 / 64) = false ∧ bootY.legal 3 true = true ∧ (bootLine b).xl.ctxBase ≠ 0) ∧
    (bootLine true).badLine ((bootLine true).contextLine 0) = true ∧ (bootLine false).badLine ((bootLine false).contextLine 0) = false ∧
    (bootLine false).lineCurrent ((bootLine false).contextLine 0) = false ∧
    (spillW 0x20000).spilling 0 spillL = true ∧ (spillW 0x1F000).spilling 0 spillL = false := by decide +kernel

/-- The restore of the kept unit, which finds room, or none because the core has 768 stores on their way and one of the unit's is to
come to it; with a fault held. -/
def heldGroup : SavedGroup := { keptGroup with group := { placeGroup with held := [{ tok := 2, code := 8, detail := 0, info := 0 }] } }
def heldKept : State := { keptW with kept := [{ keptImage with groups := [heldGroup] }] }
def fullUnit (s : State) : State :=
  let r : Req := { reqOf .store [] with id := 9, core := 0, accs := List.replicate 768 accAt }
  { s with fly := { reqs := [r, { r with id := 10, core := 1, gid := 129, accs := [accAt] }] } }
def findsRoom (s : State) : Bool :=
  (s.restoring 0x100000 0 0).any fun r => (s.restoreRoom { s.restoreReq 0x100000 0 0 r with core := 0 } r.x).isSome
theorem witness_PreemptionAndKills_clauses :
    (∀ s ∈ [keptW, heldKept], (s.restoring 0x100000 0 0).isSome = true ∧ ((fullUnit s).restoring 0x100000 0 0).isSome = true ∧
      findsRoom s = true ∧ findsRoom (fullUnit s) = false) ∧
    (State.reset.cust.attach.getLsbD 0 = true ∧ 0 = State.reset.cust.owner ∧ (5 : Nat) < 64 ∧ 5 ∈ (killW placeLaunch gW).killing ∧
      4 ≠ State.reset.cust.owner ∧ ¬ (64 : Nat) < 64) := by decide +kernel

/-! ## Lines, dies, outside and custody -/

/-- A line that a die holds in its L2 or has lost from it, in error that nothing has met or not; an invalidation of it under way. -/
def lineW (e : DirEntry) (k : ReqKind) (l2 lat : List Nat) (away : Bool) : State :=
  let s := dirW line1 e k
  { s with latent := lat, coh := { s.coh with
      dies := [(0, { l2 := l2 })],
      invals := if away then [{ line := line1, die := 3, route := 0, received := false, sent := 0 }] else [] } }
theorem witness_LinesDiesAndHostRequests_copies :
    (∀ s ∈ [lineW {} .load [] [] false, lineW { st := .s, sharers := 5 } .load [] [line1] false, lineW { st := .s, sharers := 1 } .store [line1] [] false,
        lineW { st := .e, owner := 0 } .store [line1] [] false],
      reaches s line1 = true ∧ s.l2Room 0 line1 = true ∧ s.wantsSealed 0 line1 = false) ∧
    (lineW { st := .s, sharers := 5 } .load [] [line1] false).latent = [line1] ∧
    ((lineW { st := .e, owner := 0 } .store [line1] [] true).coh.invals.all fun v => v.line ≠ line1) = false ∧
    ((lineW { st := .s, sharers := 1 } .store [line1] [] false).die 0).l2 = [line1] := by decide +kernel

/-- A peer refuses a load's line for a group on a die that is fenced, or not; and a copy that has moved 16 of its units. -/
def refusedW (fenced : Bool) : State :=
  let s := dirW (2 ^ 43) {} .load
  { s with cores := [(0, { groups := [(0, { gW with lanes := [(0, { demoThread 0 0 5 with empty := 0x100 }), (1, {})] })] })],
           coh := { s.coh with dies := [(0, { fenced := fenced })] } }
def movedW (dir : Nat) : State :=
  { copying dir with fly := { copies := [{ copyOfW dir with id := 3, x := 64, moved := 16, sent := some 0, src := 0x20000, dst := 0x40000, tok := 3 }] } }
theorem witness_LinesDiesAndHostRequests_refused :
    (∀ b ∈ [true, false], ((refusedW b).die 0).fenced = b ∧ ((refusedW b).group 0 0).isSome = true ∧
      (refusedW b).isDevice (64 * 2 ^ 43) = false) ∧
    (∀ d ∈ [0, 1], (movedW d).req 3 = none ∧ ((movedW d).copyOf 3).map (fun x => (x.sent, x.dir, x.tr)) = some (some 0, d, 0) ∧
      ((movedW d).group 0 0).isSome = true) := by decide +kernel

/-- The owner's port has been down for 100 ms of TIME, and for less. -/
def portW (since : Nat) : State :=
  { custW none with clk := { time := 10 ^ 8 }, cust := { (custW none).cust with portDown := [((custW none).cust.owner, since)] } }
theorem witness_RegistersCustodyAndReplies_clauses :
    (FMap.find (portW 0).cust.portDown (portW 0).cust.owner = some 0 ∧ 0 + 10 ^ 8 ≤ (portW 0).clk.time ∧ ¬ 1 + 10 ^ 8 ≤ (portW 1).clk.time ∧
      FMap.find (portW 0).cust.portDown 4 = none) ∧
    (let k : CoreSt := { pslu := 0x1C }
     k.pslu.toNat / 4 ^ 1 % 4 = 3 ∧ k.pslu.toNat / 4 ^ 2 % 4 = 1 ∧ k.pslu.toNat / 4 ^ 0 % 4 = 0) ∧
    isBusy (busyW.translate 0 0 0x20000 .load) = true ∧ (busyW.context 0).2 % 2 = 1 := by decide +kernel

/-- An add to a word in error; a write to a stack that is lost; the last write of a `snap`; a write whose page no route reaches. -/
def plainAdd : DevWrite := { addWrite 0x20000 with follow := .nothing, ctx := some 5, va := 0x77 }
def lastSnap : DevWrite := { id := 1, chan := .word 0x20000, pa := 0x20000, bytes := [3], follow := .snapDone 0 0 0 5 }
theorem witness_QueuedWritesArePerformedAtTheirHome_clauses :
    (let s := { queued plainAdd with poisoned := [0x800] }
     plainAdd ∈ s.fly.writes ∧ s.behind plainAdd = false ∧ s.badLine 0x800 = true ∧ plainAdd.add = true) ∧
    (let w := { plainAdd with add := false }
     let s : State := { queued w with coh := { quar := 1 } }
     s.lostStack 0x20000 = true ∧ w.add = false ∧ s.behind w = false) ∧
    (let s := { demo snapEndG with fly := { writes := [lastSnap] } }
     s.behind lastSnap = false ∧ s.isDevice 0x20000 = true ∧ s.lostStack 0x20000 = false ∧ s.gen.late = [] ∧
      (linesIn 0x20000 1).all (fun l => s.lineFree l && s.earlyFree l) = true ∧ s.needsCopy s.gen.cur 0x20 false = false ∧
      (s.cowAt s.gen.cur 0x20 false).isSome = true) ∧
    (let s := cutPage (snapW gW 1 retains)
     s.needsCopy s.gen.cur 5 false = true ∧ s.recallable 5 = false ∧ s.gen.late = []) := by decide +kernel

end Sys2Proof.Tests
end

section
/-! The shape that the integer instructions share, read off its results: a source of one register is a word, and what
an instruction whose results depend on its sources alone leaves in registers, predicates, index registers and FLAGS. -/

namespace Sys2Proof.Machine

/-! ## Sources of one register -/

/-- An operand that covers at most one register. -/
def oneReg : Opnd → Bool
  | .src w | .srcReg w | .dst w | .upd w | .acc w | .stor w _ => w == 1
  | .unused | .num _ | .raw _ => true

/-- The fields d, a and b of an instruction cover at most one register each. -/
def wordFields (i : Instr) : Bool := oneReg i.info.d && oneReg i.info.a && oneReg i.info.b

theorem wordFields_iff {i : Instr} :
    wordFields i = true ↔ oneReg i.info.d = true ∧ oneReg i.info.a = true ∧ oneReg i.info.b = true := by
  simp [wordFields, and_assoc]

/-- The sources a and b of a thread are words. -/
structure LaneIn.Words (x : LaneIn) : Prop where
  a : x.a < 2 ^ 32
  b : x.b < 2 ^ 32

theorem slotOf_oneReg {k : Opnd} (hk : oneReg k = true) {x : Fld} {sl : Slot} (h : slotOf k x = some sl) : sl.w = 1 := by
  cases k <;> simp [slotOf] at h <;> subst h <;> simpa [oneReg] using hk

/-- The value of an operand of one register is a word. -/
theorem fieldVal_lt {k : Opnd} (hk : oneReg k = true) (h : Header) (rrb : Nat) (t : Thread) (x : Fld) :
    fieldVal h rrb t k x .int < 2 ^ 32 := by
  unfold fieldVal
  split
  · exact Nat.lt_trans x.f.isLt (by decide)
  · rename_i sl hs
    have hw := slotOf_oneReg hk hs
    split
    · rename_i rs hn
      obtain ⟨r, rfl⟩ := List.length_eq_one_iff.mp ((nameRegs_length hn).trans hw)
      simpa [Thread.regsVal] using (t.reg r).isLt
    · rw [hw]
      exact wrapI_lt _ 32
    · decide

theorem sources_words {i : Instr} (hw : wordFields i = true) (s : State) (g : Group) (p : Split) (l : Nat) :
    (sources s i {} g p l).Words := by
  obtain ⟨-, ha, hb⟩ := wordFields_iff.mp hw
  have hlt := fun k hk x => fieldVal_lt (k := k) hk (s.hdr g) g.rrb (g.thread (sourceLane i (lanesOf i g p) l)) x
  exact ⟨hlt _ ha i.view.a, hlt _ hb i.view.b⟩

/-! ## Registers -/

/-- Every executing lane's thread commits the results of its sources. -/
theorem alu_threads {i : Instr} {f : LaneIn → LaneOut} (he : ∀ s, exec i s = aluOp i {} f s) :
    Completes i fun s _ g p _ h =>
      ∀ l ∈ lanesOf i g p, h.thread l = (f (sources s i {} g p l)).commit (destRegs s i g l) (g.thread l) := by
  refine Completes.imp (laneOpAt_writes (f := fun _ _ _ _ x => f x) he) ?_
  rintro s c g p t h - ⟨-, -, -, -, ht, -⟩ l hl
  rw [ht, if_pos hl]
  rfl

/-- Of an instruction of one destination register, that register holds the result's low word. -/
theorem alu_reg {i : Instr} {f : LaneIn → LaneOut} (he : ∀ s, exec i s = aluOp i {} f s) (hw : wordFields i = true) :
    Completes i fun s _ g p _ h => ∀ l ∈ lanesOf i g p, ∀ r ∈ destRegs s i g l, ∀ v,
      (f (sources s i {} g p l)).d = some v → (h.thread l).reg r = word v := by
  obtain ⟨hd, -, -⟩ := wordFields_iff.mp hw
  refine Completes.imp (alu_threads he) ?_
  intro s c g p t h _ ht l hl r hr v hv
  rw [ht l hl, LaneOut.reg_commit, hv, destRegs_one (fun _ => slotOf_oneReg hd) hr]
  exact Thread.reg_setRegs_one ..

theorem writes32_alu {i : Instr} {f : LaneIn → LaneOut} {val : LaneIn → Word} (he : ∀ s, exec i s = aluOp i {} f s)
    (hw : wordFields i = true) (hv : ∀ x : LaneIn, x.Words → (f x).d.map word = some (val x)) :
    Writes32 i {} fun _ _ _ _ x => val x := by
  refine Completes.imp (alu_reg he hw) ?_
  intro s c g p t h _ hr l hl r hrm
  obtain ⟨v, hd, hval⟩ := Option.map_eq_some_iff.mp (hv _ (sources_words hw s g p l))
  rw [hr l hl r hrm v hd, hval]

theorem getLsbD_word {n k : Nat} (hk : k < 32) : (word n).getLsbD k = n.testBit k := by
  simp [word, BitVec.getLsbD_ofNat, hk, -BitVec.getLsbD_eq_getElem]

theorem writesBits_alu {i : Instr} {f : LaneIn → LaneOut} {val : LaneIn → Nat → Bool}
    (he : ∀ s, exec i s = aluOp i {} f s) (hw : wordFields i = true)
    (hv : ∀ x : LaneIn, ∃ v, (f x).d = some v ∧ ∀ k, k < 32 → v.testBit k = val x k) : WritesBits i {} val := by
  refine Completes.imp (alu_reg he hw) ?_
  intro s c g p t h _ hr l hl r hrm k hk
  obtain ⟨v, hd, hval⟩ := hv (sources s i {} g p l)
  rw [hr l hl r hrm v hd, getLsbD_word hk, hval k hk]

/-! ## Predicates and index registers -/

theorem Thread.pred_setPred (t : Thread) (k : Nat) (b : Bool) (n : Nat) :
    (t.setPred k b).pred n = if n = k ∧ k < 7 then b else t.pred n := by
  unfold Thread.setPred
  by_cases hk : k < 7
  · by_cases hn : n < 7
    · have hbit : ((1#7) <<< k).getLsbD n = decide (n = k) := by
        rw [← BitVec.twoPow_eq, BitVec.getLsbD_twoPow, decide_eq_true hk, Bool.true_and]
        exact decide_eq_decide.mpr eq_comm
      by_cases h : n = k
      · subst h
        cases b <;> simp [Thread.pred, hk, hbit, show n ≠ 7 by omega, -BitVec.getLsbD_eq_getElem]
      · cases b <;> simp [Thread.pred, hk, hbit, h, hn, -BitVec.getLsbD_eq_getElem]
    · have hz : ∀ x : BitVec 7, x.getLsbD n = false := fun x => BitVec.getLsbD_of_ge x n (by omega)
      simp [Thread.pred, hk, hz, show n ≠ k by omega]
  · simp [hk]

/-- A predicate with storage that holds a value, or that some write gives it, has that value after writes of which none
gives it another. -/
theorem Thread.pred_setPreds (t : Thread) {ps : List (Nat × Bool)} {k : Nat} {b : Bool} (hk : k < 7)
    (hm : t.pred k = b ∨ (k, b) ∈ ps) (hu : ∀ q ∈ ps, q.1 = k → q.2 = b) :
    (ps.foldl (fun t p => t.setPred p.1 p.2) t).pred k = b := by
  induction ps generalizing t with
  | nil => exact hm.resolve_right List.not_mem_nil
  | cons q ps ih =>
    refine ih (t.setPred q.1 q.2) ?_ fun r hr => hu r (List.mem_cons_of_mem q hr)
    rw [Thread.pred_setPred]
    by_cases hq : k = q.1
    · rw [if_pos ⟨hq, hq ▸ hk⟩]
      exact .inl (hu q List.mem_cons_self hq.symm)
    · rw [if_neg fun h => hq h.1]
      exact hm.imp_right fun h => (List.mem_cons.mp h).resolve_left fun e => hq (congrArg Prod.fst e)

/-- A predicate with storage has, after a thread's results, the value that they give it. -/
theorem LaneOut.pred_commit {o : LaneOut} {k : Nat} {b : Bool} (hk : k < 7) (hm : (k, b) ∈ o.preds)
    (hu : ∀ q ∈ o.preds, q.1 = k → q.2 = b) (rs : List Nat) (t : Thread) : (o.commit rs t).pred k = b := by
  unfold LaneOut.commit
  cases o.d <;> cases o.x <;> exact Thread.pred_setPreds _ hk (.inr hm) hu

/-- The index registers after a thread's results. -/
theorem LaneOut.xreg_commit {o : LaneOut} {k : Nat} {b : Byte} (h : o.x = some (k, b)) (rs : List Nat) (t : Thread) :
    (o.commit rs t).xreg k = b := by
  unfold LaneOut.commit
  rw [h]
  exact FMap.get_set_self ..

/-- The word of an admitted instruction is well-formed (stage 2). -/
theorem Admitted.wf {s : State} {i : Instr} {c : Cur} {g : Group} {p : Split} (h : Admitted s i c g p) : i.wf = true := by
  have hlegal := h.legal
  rw [contextLegal, Bool.and_eq_true] at hlegal
  exact hlegal.2

/-- The number in field d of a legal word is below its bound (R101). -/
theorem d_lt_of_wf {i : Instr} {n : Nat} (hd : i.info.d = .num n) (h : i.wf = true) : i.view.d.f.toNat < n := by
  have hok : i.info.d.ok i.view.d = true := by
    simp only [Instr.wf, Instr.wfFields, Bool.and_eq_true] at h
    obtain ⟨⟨⟨⟨⟨⟨hok, -⟩, -⟩, -⟩, -⟩, -⟩, -⟩ := h
    exact hok
  rw [hd, Opnd.ok, Bool.and_eq_true, decide_eq_true_eq] at hok
  exact hok.2

theorem writesPred_alu {i : Instr} {f : LaneIn → LaneOut} {k : Nat} {val : LaneIn → Bool}
    (he : ∀ s, exec i s = aluOp i {} f s) (hw : wordFields i = true) (hk : i.wf = true → k < 8)
    (hv : ∀ x : LaneIn, x.Words → k < 7 → (k, val x) ∈ (f x).preds ∧ ∀ q ∈ (f x).preds, q.1 = k → q.2 = val x) :
    WritesPred i {} k fun _ _ _ _ x => val x := by
  refine Completes.imp (alu_threads he) ?_
  intro s c g p t h ha ht l hl
  by_cases h7 : k = 7
  · simp [h7, Thread.pred]
  · have hlt : k < 7 := by have := hk ha.wf; omega
    obtain ⟨hm, hu⟩ := hv _ (sources_words hw s g p l) hlt
    rw [ht l hl, LaneOut.pred_commit hlt hm hu]
    simp [h7]

/-! ## FLAGS -/

theorem testBit_flagIf_UV {b : Bool} {k : Nat} (hk : k ≠ 8) : (flagIf b flagUV).testBit k = false := by
  cases b
  · simp [flagIf]
  · exact Nat.testBit_two_pow_of_ne (n := 8) (by omega)

theorem testBit_foldl_or (F : Nat → Nat) (ls : List Nat) (n k : Nat) :
    (ls.foldl (fun x l => x ||| F l) n).testBit k = (n.testBit k || ls.any fun l => (F l).testBit k) := by
  induction ls generalizing n with
  | nil => simp
  | cons l ls ih => simp [ih, Bool.or_assoc]

theorem lanesOf_pairwise (i : Instr) (g : Group) (p : Split) : (lanesOf i g p).Pairwise (· < ·) :=
  (List.pairwise_lt_range.filter _).filter _

/-- The lowest lane of an ascending list is its first. -/
theorem lowLane_cons {l : Nat} {ls : List Nat} (hs : (l :: ls).Pairwise (· < ·)) (hl : l < 32) : lowLane (l :: ls) = l := by
  have hmin : ∀ ls : List Nat, (∀ k ∈ ls, l < k) → ls.foldl Nat.min l = l := by
    intro ls
    induction ls with
    | nil => exact fun _ => rfl
    | cons k ls ih =>
      intro h
      rw [List.foldl_cons, show Nat.min l k = l from Nat.min_eq_left (Nat.le_of_lt (h k (by simp)))]
      exact ih fun j hj => h j (by simp [hj])
  rw [lowLane, List.foldl_cons, show Nat.min 31 l = l from Nat.min_eq_right (by omega)]
  exact hmin ls (List.pairwise_cons.mp hs).1

/-- A lane that computes is the source of a lane that executes, and the other way round (R23). -/
theorem exists_computeLanes {i : Instr} {g : Group} {p : Split} (P : Nat → Prop) :
    (∃ l ∈ computeLanes i (lanesOf i g p), P l) ↔ ∃ l ∈ lanesOf i g p, P (sourceLane i (lanesOf i g p) l) := by
  unfold computeLanes sourceLane
  cases uniform i
  · simp
  · have hs := lanesOf_pairwise i g p
    have hlt : ∀ l ∈ lanesOf i g p, l < 32 := fun _ => lanesOf_lt
    generalize lanesOf i g p = ls at hs hlt
    cases ls with
    | nil => simp
    | cons l ls => simp [lowLane_cons hs (hlt l (by simp))]

theorem setsFlag_alu {i : Instr} {f : LaneIn → LaneOut} {k : Nat} {cond : LaneIn → Prop}
    (he : ∀ s, exec i s = aluOp i {} f s) (hw : wordFields i = true) (hk : k < 8)
    (hf : ∀ x : LaneIn, x.Words → ((f x).flags.testBit k = true ↔ cond x)) :
    SetsFlag i {} k fun _ _ _ _ x => cond x := by
  refine Completes.imp (laneOpAt_writes (f := fun _ _ _ _ x => f x) he) ?_
  rintro s c g p t h - ⟨-, -, -, -, -, hflags⟩
  have hfold : ((computeLanes i (lanesOf i g p)).any fun l => (f (laneIn (s.hdr g) g i {} l)).flags.testBit k) = true ↔
      ∃ l ∈ lanesOf i g p, (f (sources s i {} g p l)).flags.testBit k = true := by
    rw [List.any_eq_true]
    exact exists_computeLanes fun l => (f (laneIn (s.hdr g) g i {} l)).flags.testBit k = true
  have hc : (∃ l ∈ lanesOf i g p, (f (sources s i {} g p l)).flags.testBit k = true) ↔
      ∃ l ∈ lanesOf i g p, cond (sources s i {} g p l) :=
    exists_congr fun l => and_congr_right fun _ => hf _ (sources_words hw s g p l)
  rw [Group.flag, Group.flag, hflags, ← hc, ← hfold, BitVec.getLsbD_or, BitVec.getLsbD_or, BitVec.getLsbD_ofNat,
    BitVec.getLsbD_ofNat, testBit_foldl_or, uvFlag, testBit_flagIf_UV (by omega)]
  simp [laneResults, show k < 32 by omega]

end Sys2Proof.Machine
end

section
/-! R116 and R117: minimum, maximum, magnitude, negation and saturating sums as words, and the statement about them. -/

namespace Sys2Proof.Machine

/-! ## Minimum, maximum, magnitude, negation -/

theorem sgn_eq_toInt (n : Nat) : sgn n = (word n).toInt := sextN_eq_toInt n 32

theorem toNat_word {n : Nat} (h : n < 2 ^ 32) : (word n).toNat = n := Nat.mod_eq_of_lt h

theorem uns_eq_toNat {n : Nat} (h : n < 2 ^ 32) : uns n = (word n).toNat := by rw [toNat_word h]; rfl

theorem ofInt_eq_word (n : Nat) : BitVec.ofInt 32 (n : Int) = word n := BitVec.ofInt_natCast 32 n

theorem word_pick (key : Nat → Int) (least : Bool) (x : LaneIn) : (pick key least x).d.map word =
    some (if least then (if key x.b < key x.a then word x.b else word x.a)
      else (if key x.a < key x.b then word x.b else word x.a)) := by
  simp only [pick, LaneOut.val, Option.map_some, apply_ite word]

theorem word_pick_sgn (least : Bool) (x : LaneIn) : (pick sgn least x).d.map word =
    some (if least then (if (word x.b).toInt < (word x.a).toInt then word x.b else word x.a)
      else (if (word x.a).toInt < (word x.b).toInt then word x.b else word x.a)) := by
  rw [word_pick, sgn_eq_toInt, sgn_eq_toInt]

theorem word_pick_uns (least : Bool) {x : LaneIn} (hx : x.Words) : (pick uns least x).d.map word =
    some (if least then (if (word x.b).toNat < (word x.a).toNat then word x.b else word x.a)
      else (if (word x.a).toNat < (word x.b).toNat then word x.b else word x.a)) := by
  rw [word_pick, uns_eq_toNat hx.a, uns_eq_toNat hx.b]
  simp only [Int.ofNat_lt]

/-- The magnitude of a signed word is the word or its negation. -/
theorem word_natAbs_toInt (w : Word) : word w.toInt.natAbs = if w.toInt < 0 then -w else w := by
  rw [← ofInt_eq_word]
  split
  · rw [Int.ofNat_natAbs_of_nonpos (by omega), BitVec.ofInt_neg, BitVec.ofInt_toInt]
  · rw [Int.natAbs_of_nonneg (by omega), BitVec.ofInt_toInt]

theorem word_absVal (ck : Nat) (x : LaneIn) :
    (absVal ck x).d.map word = some (if (word x.a).toInt < 0 then -word x.a else word x.a) := by
  rw [← word_natAbs_toInt, ← sgn_eq_toInt]
  rfl

theorem word_negVal (ck : Nat) (x : LaneIn) : (negVal ck x).d.map word = some (-word x.a) := by
  rw [← ofInt_eq_word, ← BitVec.ofInt_neg, ← ofNat_wrapI]
  rfl

/-! ## Saturating sums -/

/-- The exact result of a saturating sum of two words, before the clamp: `k` is 1 or -1, NS 0 is signed (R117). -/
def satExact (k : Int) (ns : Nat) (x : LaneIn) : Int :=
  if ns = 0 then (word x.a).toInt + k * (word x.b).toInt else ((word x.a).toNat : Int) + k * (word x.b).toNat

/-- The least value that the clamp lets through. -/
def satLow (ns : Nat) : Int := if ns = 0 then -2 ^ 31 else 0

/-- The greatest value that the clamp lets through. -/
def satHigh (ns : Nat) : Int := if ns = 0 then 2 ^ 31 - 1 else 2 ^ 32 - 1

/-- A saturating sum is the exact result, clamped, with SAT where the clamp changes it. -/
theorem satAdd_eq (k : Int) (ns : Nat) {x : LaneIn} (hx : x.Words) : satAdd k ns x =
    { d := some (wrapI (satI (satExact k ns x) (satLow ns) (satHigh ns)) 32),
      flags := (clampSAT (satExact k ns x) (satLow ns) (satHigh ns)).2 } := by
  unfold satAdd satExact satLow satHigh
  by_cases h : ns = 0
  · simp only [if_pos h, sgn_eq_toInt]
    rfl
  · simp only [if_neg h, toNat_word hx.a, toNat_word hx.b]
    rfl

theorem word_satAdd (k : Int) (ns : Nat) {x : LaneIn} (hx : x.Words) : (satAdd k ns x).d.map word =
    some (BitVec.ofInt 32 (satI (satExact k ns x) (satLow ns) (satHigh ns))) := by
  rw [satAdd_eq k ns hx, ← ofNat_wrapI]
  rfl

/-- The clamp changes exactly the values outside its bounds. -/
theorem satI_ne_iff (v lo hi : Int) : satI v lo hi ≠ v ↔ v < lo ∨ hi < v := by
  unfold satI
  split
  · omega
  · split <;> omega

theorem testBit_flagIf_SAT (b : Bool) : (flagIf b flagSAT).testBit 5 = b := by
  cases b <;> rfl

/-- SAT is set where the clamp changes the exact result (R117). -/
theorem satAdd_flags (k : Int) (ns : Nat) {x : LaneIn} (hx : x.Words) : (satAdd k ns x).flags.testBit 5 = true ↔
    satExact k ns x < satLow ns ∨ satHigh ns < satExact k ns x := by
  rw [satAdd_eq k ns hx, clampSAT, testBit_flagIf_SAT, decide_eq_true_iff, satI_ne_iff]

/-- An instruction whose results are those of `satAdd` writes the clamped sum. -/
theorem writes32_satAdd {i : Instr} {k : Int} {ns : Nat} (he : ∀ s, exec i s = aluOp i {} (satAdd k ns) s)
    (hw : wordFields i = true) :
    Writes32 i {} fun _ _ _ _ x => BitVec.ofInt 32 (satI (satExact k ns x) (satLow ns) (satHigh ns)) :=
  writes32_alu he hw fun _ hx => word_satAdd k ns hx

/-- An instruction whose results are those of `satAdd` sets SAT where the clamp changes the sum. -/
theorem setsFlag_satAdd {i : Instr} {k : Int} {ns : Nat} (he : ∀ s, exec i s = aluOp i {} (satAdd k ns) s)
    (hw : wordFields i = true) :
    SetsFlag i {} 5 fun _ _ _ _ x => satExact k ns x < satLow ns ∨ satHigh ns < satExact k ns x :=
  setsFlag_alu he hw (by decide) fun _ hx => satAdd_flags k ns hx

/-- Settles O6: each result is that of the words of its sources, and the clamp changes a sum exactly where the exact
result is out of its bounds. -/
theorem minMaxAndSaturatingResults : Obligations.MinMaxAndSaturatingResults := by
  unfold Obligations.MinMaxAndSaturatingResults
  intro smin smax umin umax abs exact_ lo hi sat clamps
  exact ⟨fun _ => writes32_alu (fun _ => rfl) rfl fun x _ => word_pick_sgn true x,
    fun _ => writes32_alu (fun _ => rfl) rfl fun x _ => word_pick_sgn true x,
    fun _ => writes32_alu (fun _ => rfl) rfl fun x _ => word_pick_sgn false x,
    fun _ => writes32_alu (fun _ => rfl) rfl fun x _ => word_pick_sgn false x,
    fun _ => writes32_alu (fun _ => rfl) rfl fun _ hx => word_pick_uns true hx,
    fun _ => writes32_alu (fun _ => rfl) rfl fun _ hx => word_pick_uns false hx,
    fun _ => writes32_alu (fun _ => rfl) rfl fun x _ => word_absVal 0 x,
    fun f => writes32_alu (fun _ => rfl) rfl fun x _ => word_absVal f.ck x,
    fun _ => writes32_alu (fun _ => rfl) rfl fun x _ => word_negVal 0 x,
    fun f => writes32_alu (fun _ => rfl) rfl fun x _ => word_negVal f.ck x,
    fun _ => writes32_satAdd (fun _ => rfl) rfl, fun _ => writes32_satAdd (fun _ => rfl) rfl,
    fun _ => writes32_satAdd (fun _ => rfl) rfl, fun _ => writes32_satAdd (fun _ => rfl) rfl,
    fun _ => setsFlag_satAdd (fun _ => rfl) rfl, fun _ => setsFlag_satAdd (fun _ => rfl) rfl,
    fun _ => setsFlag_satAdd (fun _ => rfl) rfl, fun _ => setsFlag_satAdd (fun _ => rfl) rfl⟩

end Sys2Proof.Machine
end

section
/-! R121 and R122: the bits of bit fields, the counts of bits, and the statement about them. -/

namespace Sys2Proof.Machine

/-! ## Values given bit by bit -/

theorem foldl_bits_lt (f : Nat → Bool) (n : Nat) :
    ((List.range n).map fun i => if f i then 2 ^ i else 0).foldl (· + ·) 0 < 2 ^ n := by
  induction n with
  | zero => simp
  | succ n ih =>
    rw [List.range_succ, List.map_append, List.foldl_append, List.map_singleton, List.foldl_cons, List.foldl_nil,
      Nat.pow_succ]
    split <;> omega

/-- A sum of distinct powers of two has those bits. -/
theorem testBit_foldl_bits (f : Nat → Bool) (n k : Nat) :
    (((List.range n).map fun i => if f i then 2 ^ i else 0).foldl (· + ·) 0).testBit k = (decide (k < n) && f k) := by
  induction n with
  | zero => simp
  | succ n ih =>
    have hlt := foldl_bits_lt f n
    rw [List.range_succ, List.map_append, List.foldl_append, List.map_singleton, List.foldl_cons, List.foldl_nil]
    generalize ((List.range n).map fun i => if f i then 2 ^ i else 0).foldl (· + ·) 0 = m at ih hlt
    have hstep : (m + if f n then 2 ^ n else 0).testBit k = (m.testBit k || (f n && decide (n = k))) := by
      cases f n
      · simp
      · rw [if_pos rfl, Nat.add_comm, ← Nat.mul_one (2 ^ n), Nat.two_pow_add_eq_or_of_lt hlt, Nat.mul_one, Nat.testBit_or,
          Nat.testBit_two_pow, Bool.or_comm, Bool.true_and]
    rw [hstep, ih]
    by_cases hk : n = k
    · simp [hk]
    · simp [hk, show k < n + 1 ↔ k < n by omega]

theorem testBit_bitsVal (f : Nat → Bool) {k : Nat} (hk : k < 32) : (bitsVal f).testBit k = f k := by
  simp [bitsVal, lanes32, testBit_foldl_bits, hk]

/-! ## Bit fields -/

/-- The position is the low byte of the control word (R121). -/
theorem ctlPos_eq (n : Nat) : ctlPos n = ((word n).extractLsb' 0 8).toNat := by
  simp only [ctlPos, word, BitVec.extractLsb'_toNat, BitVec.toNat_ofNat, Nat.shiftRight_zero]
  omega

/-- The length is the second byte of the control word, 32 at most (R121). -/
theorem ctlLen_eq (n : Nat) : ctlLen n = Nat.min ((word n).extractLsb' 8 8).toNat 32 := by
  simp only [ctlLen, word, BitVec.extractLsb'_toNat, BitVec.toNat_ofNat, Nat.shiftRight_eq_div_pow]
  congr 1
  omega

/-- A bit of a source from position `pos` on, and `fill` beyond the source's last bit. -/
def fieldBit (fill : Bool) (a : Word) (pos k : Nat) : Bool := if pos + k < 32 then a.getLsbD (pos + k) else fill

theorem fieldBit_word (fill : Bool) (n pos k : Nat) :
    (if pos + k < 32 then n.testBit (pos + k) else fill) = fieldBit fill (word n) pos k := by
  unfold fieldBit
  split
  · rw [getLsbD_word ‹_›]
  · rfl

/-- Of an unsigned bit field, the bits from its length on are 0. -/
theorem bits_bfxVal_false (x : LaneIn) : ∃ v, (bfxVal false x).d = some v ∧ ∀ k, k < 32 →
    v.testBit k = (decide (k < ctlLen x.b) && fieldBit false (word x.a) (ctlPos x.b) k) := by
  refine ⟨_, rfl, fun k hk => ?_⟩
  rw [testBit_bitsVal _ hk, ← fieldBit_word]
  by_cases h : k < ctlLen x.b <;> simp [h]

/-- Of a signed bit field, the bits from its length on are its last bit; a field of length 0 is 0. -/
theorem bits_bfxVal_true (x : LaneIn) : ∃ v, (bfxVal true x).d = some v ∧ ∀ k, k < 32 →
    v.testBit k = (decide (0 < ctlLen x.b) &&
      fieldBit (word x.a).msb (word x.a) (ctlPos x.b) (Nat.min k (ctlLen x.b - 1))) := by
  refine ⟨_, rfl, fun k hk => ?_⟩
  have hmsb : (word x.a).msb = x.a.testBit 31 := by rw [BitVec.msb_eq_getLsbD_last, getLsbD_word (by decide)]
  rw [testBit_bitsVal _ hk, ← fieldBit_word, hmsb]
  by_cases h : k < ctlLen x.b
  · rw [show Nat.min k (ctlLen x.b - 1) = k from Nat.min_eq_left (by omega)]
    simp [h, Nat.zero_lt_of_lt h]
  · rw [show Nat.min k (ctlLen x.b - 1) = ctlLen x.b - 1 from Nat.min_eq_right (by omega)]
    have hlen : (ctlLen x.b != 0) = decide (0 < ctlLen x.b) := by cases ctlLen x.b <;> simp
    simp only [if_neg h, hlen, Bool.true_and]

/-- An inserted field replaces the bits of b at its place. -/
theorem bits_bfiVal (x : LaneIn) : ∃ v, (bfiVal x).d = some v ∧ ∀ k, k < 32 → v.testBit k =
    if ctlPos x.c ≤ k ∧ k < ctlPos x.c + ctlLen x.c then (word x.a).getLsbD (k - ctlPos x.c) else (word x.b).getLsbD k := by
  refine ⟨_, rfl, fun k hk => ?_⟩
  rw [testBit_bitsVal _ hk, getLsbD_word hk, getLsbD_word (by omega)]

theorem bits_brevVal (x : LaneIn) : ∃ v, (brevVal x).d = some v ∧ ∀ k, k < 32 →
    v.testBit k = (word x.a).getLsbD (31 - k) :=
  ⟨_, rfl, fun k hk => by rw [testBit_bitsVal _ hk, getLsbD_word (by omega)]⟩

/-! ## Counts of bits -/

/-- The numbers below `n` that come before the first one at which `p` fails are as many as that number. -/
theorem length_takeWhile_range {p : Nat → Bool} {n m : Nat} (hm : m ≤ n) (hp : ∀ k, k < m → p k = true)
    (hn : m = n ∨ p m = false) : ((List.range n).takeWhile p).length = m := by
  obtain ⟨d, rfl⟩ := Nat.exists_eq_add_of_le hm
  rw [List.range_add, List.takeWhile_append_of_pos (by simpa using hp), List.length_append, List.length_range]
  cases d with
  | zero => simp
  | succ d =>
    have hf : p m = false := hn.resolve_left (by omega)
    simp [List.range_succ_eq_map, hf]

theorem word_popcVal (x : LaneIn) : (popcVal x).d.map word =
    some (word ((List.range 32).filter fun k => (word x.a).getLsbD k).length) := by
  have h : ∀ k ∈ List.range 32, (word x.a).getLsbD k = x.a.testBit k := fun k hk => getLsbD_word (List.mem_range.mp hk)
  rw [List.filter_congr h]
  rfl

/-- The leading zeros are the bits above the highest 1. -/
theorem word_clzVal {x : LaneIn} (hx : x.Words) : (clzVal x).d.map word =
    some (word ((List.range 32).takeWhile fun k => !(word x.a).getLsbD (31 - k)).length) := by
  have hbit : ∀ k, (word x.a).getLsbD (31 - k) = x.a.testBit (31 - k) := fun k => getLsbD_word (by omega)
  simp only [clzVal, LaneOut.val, Option.map_some, hbit]
  congr 2
  by_cases ha : x.a = 0
  · rw [if_pos ha, length_takeWhile_range (Nat.le_refl _) (by simp [ha]) (.inl rfl)]
  · have hlog : x.a.log2 < 32 := (Nat.log2_lt ha).mpr hx.a
    rw [if_neg ha, length_takeWhile_range (m := 31 - x.a.log2) (by omega) (fun k hk => ?above) (.inr ?top)]
    case above =>
      rw [Nat.testBit_lt_two_pow ((Nat.log2_lt ha).mp (by omega))]
      rfl
    case top =>
      rw [show 31 - (31 - x.a.log2) = x.a.log2 by omega, Nat.testBit_log2 ha]
      rfl

/-- The trailing zeros are the bits below the lowest 1. -/
theorem word_ctzVal (x : LaneIn) : (ctzVal x).d.map word =
    some (word ((List.range 32).takeWhile fun k => !(word x.a).getLsbD k).length) := by
  simp only [ctzVal, LaneOut.val, Option.map_some, lanes32]
  congr 2
  cases hf : (List.range 32).find? fun i => x.a.testBit i with
  | none =>
    rw [List.find?_range_eq_none] at hf
    exact (length_takeWhile_range (Nat.le_refl _) (fun k hk => by rw [getLsbD_word hk]; exact hf k hk) (.inl rfl)).symm
  | some m =>
    obtain ⟨hm, hlt, hlow⟩ := List.find?_range_eq_some.mp hf
    rw [List.mem_range] at hlt
    refine (length_takeWhile_range (Nat.le_of_lt hlt) (fun k hk => ?_) (.inr ?_)).symm
    · rw [getLsbD_word (Nat.lt_trans hk hlt)]
      exact hlow k hk
    · rw [getLsbD_word hlt, hm]
      rfl

/-- Settles O8: bit fields bit by bit, the counts by the place of the first 1 from either end. -/
theorem bitFieldsAndCounts : Obligations.BitFieldsAndCounts := by
  unfold Obligations.BitFieldsAndCounts
  intro pos len ones high low field
  have hctl : ∀ n, pos (word n) = ctlPos n ∧ len (word n) = ctlLen n := fun n => ⟨(ctlPos_eq n).symm, (ctlLen_eq n).symm⟩
  have hfield : ∀ fill n c k, field fill n (word c) k = fieldBit fill n (ctlPos c) k := fun fill n c k => by
    rw [ctlPos_eq]
    rfl
  simp only [hctl, hfield]
  exact ⟨fun _ => writesBits_alu (fun _ => rfl) rfl bits_bfxVal_false,
    fun _ => writesBits_alu (fun _ => rfl) rfl bits_bfxVal_true,
    fun _ => writesBits_alu (fun _ => rfl) rfl bits_bfiVal,
    fun _ => writes32_alu (fun _ => rfl) rfl fun x _ => word_popcVal x,
    fun _ => writes32_alu (fun _ => rfl) rfl fun x _ => word_popcVal x,
    fun _ => writes32_alu (fun _ => rfl) rfl fun _ hx => word_clzVal hx,
    fun _ => writes32_alu (fun _ => rfl) rfl fun _ hx => word_clzVal hx,
    fun _ => writes32_alu (fun _ => rfl) rfl fun x _ => word_ctzVal x,
    fun _ => writes32_alu (fun _ => rfl) rfl fun x _ => word_ctzVal x,
    fun _ => writesBits_alu (fun _ => rfl) rfl bits_brevVal,
    fun _ => writesBits_alu (fun _ => rfl) rfl bits_brevVal⟩

end Sys2Proof.Machine
end

section
/-! R110, R111 and R125 to R127: predicates compared, combined and moved, the choice by a predicate, index registers, and
the statement about them. -/

namespace Sys2Proof.Machine

/-! ## Predicates written -/

/-- CMP of Table 5.4 on integers. -/
theorem cmpInt_eq (k : Nat) (a b : Int) : cmpInt k a b =
    if k = 0 then decide (a = b) else if k = 1 then decide (a ≠ b) else if k = 2 then decide (a < b)
    else if k = 3 then decide (a ≤ b) else if k = 4 then decide (b < a) else decide (b ≤ a) := by
  unfold cmpInt
  split
  case h_6 h0 h1 h2 h3 h4 => simp only [if_neg h0, if_neg h1, if_neg h2, if_neg h3, if_neg h4]
  all_goals rfl

/-- BOP of Table 5.4. -/
theorem combine_eq (k : Nat) (r q : Bool) :
    combine k r q = if k = 0 then r else if k = 1 then r && q else if k = 2 then r || q else r.xor q := by
  unfold combine
  split
  case h_4 h0 h1 h2 => simp only [if_neg h0, if_neg h1, if_neg h2]
  all_goals rfl

/-- An instruction whose one result is a predicate, named in a field d of 3 bits, writes it. -/
theorem writesPred_of_one {i : Instr} {f : LaneIn → LaneOut} {val : LaneIn → Bool}
    (he : ∀ s, exec i s = aluOp i {} f s) (hw : wordFields i = true) (hd : i.info.d = .num 8)
    (hv : ∀ x : LaneIn, x.Words → (f x).preds = [(i.view.d.f.toNat, val x)]) :
    WritesPred i {} i.view.d.f.toNat fun _ _ _ _ x => val x := by
  refine writesPred_alu he hw (d_lt_of_wf hd) fun x hx _ => ?_
  rw [hv x hx]
  exact ⟨List.mem_singleton.mpr rfl, fun q hq _ => by rw [List.mem_singleton.mp hq]⟩

/-- A compare combines what CMP answers with the predicate q, negated where bit 1 says so (R125). -/
theorem preds_setp (f : FormE) (key : Nat → Int) (x : LaneIn) : (setp f key x).preds =
    [(f.xd.toNat, combine f.bop (cmpInt f.cmp (key x.a) (key x.b)) ((x.t.pred f.c.f.toNat).xor (f.bit 1 == 1)))] := rfl

/-- `pmov` to predicates writes those that its mask names (R111). -/
theorem preds_predsFrom {f : FormE} {k : Nat} (hk : f.b.f.getLsbD k = true) (x : LaneIn) (h7 : k < 7) :
    (k, (word x.a).getLsbD k) ∈ (predsFrom f.b.f.toNat x).preds ∧
      ∀ q ∈ (predsFrom f.b.f.toNat x).preds, q.1 = k → q.2 = (word x.a).getLsbD k := by
  rw [getLsbD_word (by omega)]
  constructor
  · exact List.mem_map.mpr ⟨k, List.mem_filter.mpr ⟨List.mem_range.mpr h7, hk⟩, rfl⟩
  · intro q hq e
    obtain ⟨j, -, rfl⟩ := List.mem_map.mp hq
    exact congrArg x.a.testBit e

/-! ## Predicates read -/

theorem word_selVal (f : FormE) (x : LaneIn) : (selVal f x).d.map word =
    some (if (x.t.pred f.j).xor (f.bit 4 == 1) = true then word x.a else word x.b) := by
  simp only [selVal, LaneOut.val, Option.map_some, apply_ite word]
  rfl

/-- The predicates as bits of a word (R111). -/
theorem bits_predsVal (x : LaneIn) : ∃ v, (predsVal x).d = some v ∧ ∀ k, k < 32 →
    v.testBit k = (decide (k < 8) && x.t.pred k) :=
  ⟨_, rfl, fun k _ => testBit_foldl_bits x.t.pred 8 k⟩

/-! ## `pmov` by its direction, and index registers -/

theorem wordFields_pmovE (f : FormE) : wordFields (.pmovE f) = true := by
  show (oneReg (if f.bit 1 = 0 then .dst 1 else .unused) && oneReg (if f.bit 1 = 0 then .unused else .src 1) &&
    oneReg (if f.bit 1 = 0 then .unused else .raw 128)) = true
  split <;> rfl

theorem exec_pmovE_of_zero {f : FormE} (h : f.bit 1 = 0) (s : State) :
    exec (.pmovE f) s = aluOp (.pmovE f) {} predsVal s := by
  show aluOp (.pmovE f) {} (fun x => if f.bit 1 = 0 then predsVal x else predsFrom f.b.f.toNat x) s = _
  simp only [if_pos h]

theorem exec_pmovE_of_one {f : FormE} (h : f.bit 1 = 1) (s : State) :
    exec (.pmovE f) s = aluOp (.pmovE f) {} (predsFrom f.b.f.toNat) s := by
  show aluOp (.pmovE f) {} (fun x => if f.bit 1 = 0 then predsVal x else predsFrom f.b.f.toNat x) s = _
  simp only [h, if_neg Nat.one_ne_zero]

/-- An instruction whose one result is an index register leaves it in every executing lane. -/
theorem alu_xreg {i : Instr} {f : LaneIn → LaneOut} {k : Nat} {val : LaneIn → Byte}
    (he : ∀ s, exec i s = aluOp i {} f s) (hv : ∀ x, (f x).x = some (k, val x)) :
    Completes i fun s _ g p _ h => ∀ l ∈ lanesOf i g p, (h.thread l).xreg k = val (sources s i {} g p l) := by
  refine Completes.imp (alu_threads he) ?_
  intro s c g p t h _ ht l hl
  rw [ht l hl, LaneOut.xreg_commit (hv _)]

/-- The low 8 bits of a number are those of its word. -/
theorem ofNat_eq_setWidth_word (n : Nat) : BitVec.ofNat 8 n = (word n).setWidth 8 :=
  (BitVec.setWidth_ofNat_of_le (by decide) n).symm

/-- Settles O9: predicates and index registers follow their definitions. -/
theorem predicatesAndIndexRegisters : Obligations.PredicatesAndIndexRegisters := by
  unfold Obligations.PredicatesAndIndexRegisters
  intro cmp bop q at_
  have hcmp : ∀ k a b, cmp k a b = cmpInt k a b := fun k a b => (cmpInt_eq k a b).symm
  have hbop : ∀ k r q, bop k r q = combine k r q := fun k r q => (combine_eq k r q).symm
  simp only [hcmp, hbop]
  refine ⟨fun f => ?isetp, fun f => ?isetpn, fun f => ?plop, fun f => ?sel, fun f => ?pmov, fun f h => ?pmovE_to,
    fun f k h hk => ?pmovE_from, fun f => ?xmov, fun f => ?xadd⟩
  case isetp =>
    refine writesPred_of_one (fun _ => rfl) rfl rfl fun x _ => ?_
    rw [← sgn_eq_toInt, ← sgn_eq_toInt]
    exact preds_setp f sgn x
  case isetpn =>
    refine writesPred_of_one (fun _ => rfl) rfl rfl fun x hx => ?_
    rw [← uns_eq_toNat hx.a, ← uns_eq_toNat hx.b]
    exact preds_setp f uns x
  case plop => exact writesPred_of_one (fun _ => rfl) rfl rfl fun _ _ => rfl
  case sel => exact writes32_alu (fun _ => rfl) rfl fun x _ => word_selVal f x
  case pmov => exact writesBits_alu (fun _ => rfl) rfl bits_predsVal
  case pmovE_to => exact writesBits_alu (exec_pmovE_of_zero h) (wordFields_pmovE f) bits_predsVal
  case pmovE_from =>
    exact writesPred_alu (exec_pmovE_of_one h) (wordFields_pmovE f) (fun _ => BitVec.lt_of_getLsbD hk)
      fun x _ h7 => preds_predsFrom hk x h7
  case xmov =>
    refine alu_xreg (i := .xmov f) (f := fun x => { x := some (f.xd.toNat, BitVec.ofNat 8 x.a) })
      (val := fun x => (word x.a).setWidth 8) (fun _ => rfl) fun x => ?_
    rw [← ofNat_eq_setWidth_word]
  case xadd =>
    refine alu_xreg (i := .xadd f) (f := fun x => { x := some (f.xd.toNat, x.t.xreg f.xd.toNat + BitVec.ofNat 8 x.a) })
      (val := fun x => x.t.xreg f.xd.toNat + (word x.a).setWidth 8) (fun _ => rfl) fun x => ?_
    rw [← ofNat_eq_setWidth_word]

end Sys2Proof.Machine
end
